-- ==== Sys2Proof/Word.lean ====
section
/-! DEFINITION. The data sizes of the PB16 (R6): byte, half, word, double; the 64-bit instruction word; and the sparse
maps in which the state holds numbered things. -/

namespace Sys2Proof

/-- A byte, 8 bits (R6). -/
abbrev Byte := BitVec 8

/-- A half, 16 bits (R6). -/
abbrev Half := BitVec 16

/-- A word, 32 bits (R6): the width of a general register (R131). -/
abbrev Word := BitVec 32

/-- A double, 64 bits (R6). -/
abbrev Double := BitVec 64

/-- An instruction word or a header word, 64 bits (R6). -/
abbrev Code := BitVec 64

/-- A quad of four registers, low register in the low bits (R119). -/
abbrev Quad := BitVec 128

/-- A sparse map from numbers to values: pairs in strictly rising order of the number. A number that is not listed has the
default that each field of the state names. -/
abbrev NMap (α : Type) := List (Nat × α)

end Sys2Proof
end

