-- ==== Sys2Proof/Syntax.lean ====
section
/-! DEFINITION. The steps of the device, one constructor for each row of spec/opcode_table.json: the 273 instructions, each
with the fields of its word (Tables 3.1 and 3.2), and the 88 steps that the device, the host or physics takes by itself, each
with what names it. Nothing here gives a meaning. -/

namespace Sys2Proof

/-- The fields of an instruction word below OP (R61). Bits [55:20] are held as the four 9-bit fields of format X; the other
formats are the views below (R66). -/
structure Fields where
  /-- [55:47] -/
  d : BitVec 9
  /-- [46:38] -/
  a : BitVec 9
  /-- [37:29] -/
  b : BitVec 9
  /-- [28:20] -/
  c : BitVec 9
  /-- [19:18], keep (R64) -/
  k : BitVec 2
  /-- [17], pair (R74) -/
  p : BitVec 1
  /-- [16:15], mode (R78) -/
  m : BitVec 2
  /-- [14:6], guard register -/
  gr : BitVec 9
  /-- [5:1], guard bit -/
  gb : BitVec 5
  /-- [0], guard sense -/
  gs : BitVec 1
  deriving DecidableEq, Repr

/-- Format I: imm18 at [37:20]. -/
def Fields.imm18 (f : Fields) : BitVec 18 := f.b ++ f.c

/-- Formats W and J: imm27, off27 at [46:20]. -/
def Fields.imm27 (f : Fields) : BitVec 27 := f.a ++ f.b ++ f.c

/-- Format T: the time register at [46:43]. -/
def Fields.tTime (f : Fields) : Nat := (f.a.extractLsb' 5 4).toNat

/-- Format T: off23 at [42:20]. -/
def Fields.off23 (f : Fields) : BitVec 23 := f.a.extractLsb' 0 5 ++ f.b ++ f.c

/-- Format MEM: the time register at [28:25] (R69). -/
def Fields.time (f : Fields) : Nat := (f.c.extractLsb' 5 4).toNat

/-- Format MEM: the scope code at [24:21] (R69, Table 1.6). -/
def Fields.scope (f : Fields) : Nat := (f.c.extractLsb' 1 4).toNat

/-- Format MEM: the visibility bit at [20] (R27). -/
def Fields.v (f : Fields) : Bool := f.c.getLsbD 0

/-- A code field of C at [28:25]: a condition (R117, R142, R223) or a size (R124). -/
def Fields.cond (f : Fields) : Nat := (f.c.extractLsb' 5 4).toNat

/-- A code field of C at [24:20]: the bit of a single-bit destination (R117). -/
def Fields.bit (f : Fields) : Nat := (f.c.extractLsb' 0 5).toNat

/-- The home of a line (R12, Home of R57): cluster SRAM, a die, pooled memory, host memory or another device. -/
inductive Home where
  | sram (cluster : Nat)
  | die (d : Nat)
  | pool
  | host
  | domain (device : Nat)
  deriving DecidableEq, Repr

/-- What breaks a promise (R212), and the ticks by which the revised booking lies after the detection (R213). -/
structure Break where
  /-- 1 network replay, 2 HBM read retry, 3 thermal stop of a pseudo-channel, 4 link replay -/
  cause : Nat
  /-- the die on which it happens -/
  die : Nat
  /-- the pseudo-channel or link that is charged (R412) -/
  element : Nat
  /-- the retry of an HBM access fails (R214) -/
  fails : Bool
  /-- ticks from the detection to the revised promise -/
  delay : Nat
  deriving DecidableEq, Repr

/-- A soft error (R380, Table 21.7). -/
structure SoftErr where
  /-- the unit of Table 21.7 -/
  unit : Nat
  die : Nat
  /-- the cluster, thread, entry or pool that holds it -/
  index : Nat
  /-- the address, register, slot or element struck -/
  addr : Nat
  /-- corrected, or not -/
  corrected : Bool
  deriving DecidableEq, Repr

/-- What a replay or a tiebreak of one row position gives (R407, R408): the two halves of its digest, or a divergence (R406). -/
structure RunDigest where
  pos : Nat
  core : Nat
  diverged : Bool
  a : Double
  b : Double
  deriving DecidableEq, Repr

/-- A register of the host's windows that has no behaviour of its own (R8, R421, R423): a CSR of the device, of a core or of a
tenant (Table 21.2), a gaffer counter (Table 23.4), a word of a submission window (Table 24.2) or of the event queue control. -/
inductive HostReg where
  | csr (number : Nat) (core : Nat)
  | gaffer (index : Nat)
  | window (window : Nat) (word : Nat)
  | ringBaseL
  | ringBaseH
  | ringSize
  | ringHead
  | ringTail
  | ringLost
  | pathScore (element : Nat)
  | domainMode (index : Nat)
  deriving DecidableEq, Repr

/-- A firmware image offered to the service port (Table 24.5): whether each signature verifies, and its security version. -/
structure FwImage where
  ed25519 : Bool
  mlDsa65 : Bool
  version : Nat
  deriving DecidableEq, Repr

/-- What a power-up finds (Table 24.4): the stages that fail, the masked dies, the feature masks of the cores that differ
from a full core, the links that do not train; the board strap of the host port, set for CXL (R419), and the number that the device takes in its domain (R425). -/
structure BringUp where
  stage1 : Bool
  stage2 : Bool
  stage3 : Bool
  stage5 : Bool
  hostPort : Bool
  deadDies : List Nat
  cores : List (Nat × BitVec 9)
  linksDown : List Nat
  cxl : Bool := true
  device : Nat := 0
  deriving DecidableEq, Repr

/-- An access of another device of the domain to this device's memory (R426). -/
inductive DomainAcc where
  | load (bytes : Nat)
  | store (data : List Byte)
  | add (operand : Word)
  deriving DecidableEq, Repr

/-- Where a migration moves a page (R399): a frame of a die, pooled memory, or absent backing with its key. -/
inductive MigTarget where
  | die (d : Nat)
  | pool (frame : Nat)
  | absent (die : Nat) (key : Nat)
  deriving DecidableEq, Repr

/-- The steps of spec/opcode_table.json, one constructor for each row. -/
inductive Instr where
  /-- NOP, opcode 0x00 (R88). Does nothing in each thread whose guard passes. -/
  | nop (f : Fields)
  /-- BRA, opcode 0x01 (R89). Branches to the block start at pc plus the signed offset. -/
  | bra (f : Fields)
  /-- BRX, opcode 0x02 (R89). Branches to the word index held in x[A]. -/
  | brx (f : Fields)
  /-- CALL, opcode 0x03 (R89). Writes the next block start to x[D] and branches to pc plus the offset. -/
  | call (f : Fields)
  /-- CALLX, opcode 0x04 (R89). Writes the next block start to x[D] and branches to the word index in x[A]. -/
  | callx (f : Fields)
  /-- RET, opcode 0x05 (R89). Branches to the word index in x[A] and marks the transfer as a return. -/
  | ret (f : Fields)
  /-- BRT.LATE, opcode 0x06 (R91). Branches when time register tT is not due within x[D] ticks. -/
  | brtLate (f : Fields)
  /-- BRT.DUE, opcode 0x07 (R91). Branches when time register tT is due within x[D] ticks. -/
  | brtDue (f : Fields)
  /-- YIELD, opcode 0x08 (R92). Makes the thread not ready in the core's next 8 beat slots. -/
  | yield (f : Fields)
  /-- PARK, opcode 0x09 (R93). Parks the thread until the wake tick held in d[A]. -/
  | park (f : Fields)
  /-- EXIT, opcode 0x0A (R94). Ends each thread whose guard passes; its slot frees when its accesses complete. -/
  | exit (f : Fields)
  /-- TRAP, opcode 0x0B (R95). Raises the user trap with the 27-bit code. -/
  | trap (f : Fields)
  /-- BKPT, opcode 0x0C (R95). Stops the thread for the debugger when debug is enabled, else acts as NOP. -/
  | bkpt (f : Fields)
  /-- SETMODE, opcode 0x0D (R97). Writes mode register bits [3:0] under a mask. -/
  | setmode (f : Fields)
  /-- GETMODE, opcode 0x0E (R96). Reads the mode register into x[D]. -/
  | getmode (f : Fields)
  /-- LOOPN, opcode 0x0F (R89). Decrements x[D] and branches while the count stays nonzero. -/
  | loopn (f : Fields)
  /-- ADD, opcode 0x10 (R111). Adds two registers modulo 2^32. -/
  | add (f : Fields)
  /-- ADDI, opcode 0x11 (R111). Adds a sign-extended 18-bit immediate to x[A]. -/
  | addi (f : Fields)
  /-- SUB, opcode 0x12 (R111). Subtracts x[B] from x[A] modulo 2^32. -/
  | sub (f : Fields)
  /-- MUL, opcode 0x13 (R111). Writes the low 32 bits of the product. -/
  | mul (f : Fields)
  /-- MULHI.s32, opcode 0x14 (R111). Writes the high 32 bits of the signed product. -/
  | mulhiS32 (f : Fields)
  /-- MULHI.n32, opcode 0x15 (R111). Writes the high 32 bits of the natural product. -/
  | mulhiN32 (f : Fields)
  /-- MAD, opcode 0x16 (R111). Writes x[A]·x[B] + x[C] modulo 2^32. -/
  | mad (f : Fields)
  /-- MADW.s32, opcode 0x17 (R111). Writes the signed 64-bit product plus d[C] to d[D]. -/
  | madwS32 (f : Fields)
  /-- MADW.n32, opcode 0x18 (R111). Writes the natural 64-bit product plus d[C] to d[D]. -/
  | madwN32 (f : Fields)
  /-- MIN.s32, opcode 0x19 (R111). Writes the signed lesser of two registers. -/
  | minS32 (f : Fields)
  /-- MAX.s32, opcode 0x1A (R111). Writes the signed greater of two registers. -/
  | maxS32 (f : Fields)
  /-- MIN.n32, opcode 0x1B (R111). Writes the natural lesser of two registers. -/
  | minN32 (f : Fields)
  /-- MAX.n32, opcode 0x1C (R111). Writes the natural greater of two registers. -/
  | maxN32 (f : Fields)
  /-- ADDMIN.s32, opcode 0x1D (R112). Saturates the signed sum of x[A] and x[B] and takes its minimum with x[C]. -/
  | addminS32 (f : Fields)
  /-- DIV.s32, opcode 0x1E (R113). Divides signed, truncating, with fixed results and DZ for a zero divisor. -/
  | divS32 (f : Fields)
  /-- DIV.n32, opcode 0x1F (R113). Divides natural, truncating, with fixed results and DZ for a zero divisor. -/
  | divN32 (f : Fields)
  /-- AND, opcode 0x20 (R114). Bitwise AND of two registers. -/
  | and (f : Fields)
  /-- OR, opcode 0x21 (R114). Bitwise OR of two registers. -/
  | or (f : Fields)
  /-- XOR, opcode 0x22 (R114). Bitwise XOR of two registers. -/
  | xor (f : Fields)
  /-- ANDN, opcode 0x23 (R114). Writes x[A] AND NOT x[B]. -/
  | andn (f : Fields)
  /-- LOGI.op, opcode 0x24 (R114). Applies AND, OR, XOR or ANDN with a sign-extended immediate, as M selects. -/
  | logi (f : Fields)
  /-- SHL, opcode 0x25 (R115). Shifts left with zero fill by a register or immediate count. -/
  | shl (f : Fields)
  /-- SHR.n32, opcode 0x26 (R115). Shifts right with zero fill. -/
  | shrN32 (f : Fields)
  /-- SHR.s32, opcode 0x27 (R115). Shifts right with sign fill. -/
  | shrS32 (f : Fields)
  /-- ROTL, opcode 0x28 (R115). Rotates left by the count modulo 32. -/
  | rotl (f : Fields)
  /-- POPC, opcode 0x29 (R114). Counts the 1 bits of x[A]. -/
  | popc (f : Fields)
  /-- CLZ, opcode 0x2A (R114). Counts the leading zero bits of x[A]. -/
  | clz (f : Fields)
  /-- BFX.ext, opcode 0x2B (R116). Extracts a bit field, zero- or sign-extended. -/
  | bfx (f : Fields)
  /-- BFI, opcode 0x2C (R116). Inserts x[A] as a bit field into x[C]. -/
  | bfi (f : Fields)
  /-- SEL, opcode 0x2D (R114). Selects bits of x[A] or x[B] under the mask x[C]. -/
  | sel (f : Fields)
  /-- CMP.s32.cc, opcode 0x2E (R117). Compares signed and merges the outcome into one bit of x[D]. -/
  | cmpS32 (f : Fields)
  /-- CMP.n32.cc, opcode 0x2F (R117). Compares natural and merges the outcome into one bit of x[D]. -/
  | cmpN32 (f : Fields)
  /-- ADD.64, opcode 0x30 (R118). Adds two pairs modulo 2^64. -/
  | add64 (f : Fields)
  /-- SUB.64, opcode 0x31 (R118). Subtracts two pairs modulo 2^64. -/
  | sub64 (f : Fields)
  /-- SHL.64, opcode 0x32 (R118). Shifts a pair left with zero fill. -/
  | shl64 (f : Fields)
  /-- SHR.64, opcode 0x33 (R118). Shifts a pair right with zero fill. -/
  | shr64 (f : Fields)
  /-- MOVI, opcode 0x34 (R118). Writes a sign-extended 27-bit immediate. -/
  | movi (f : Fields)
  /-- MOVH, opcode 0x35 (R118). Writes a 16-bit immediate into the high half above x[A]'s low half. -/
  | movh (f : Fields)
  /-- MOV, opcode 0x36 (R118). Copies x[A] to x[D]. -/
  | mov (f : Fields)
  /-- CINC, opcode 0x37 (R121). Derives a capability with its cursor moved or set. -/
  | cinc (f : Fields)
  /-- CSETB, opcode 0x38 (R121). Derives a capability with narrowed bounds at the cursor. -/
  | csetb (f : Fields)
  /-- CPERM, opcode 0x39 (R121). Derives a capability with permissions masked by x[B]. -/
  | cperm (f : Fields)
  /-- CGET.what, opcode 0x3A (R124). Reads the offset, length, info or base of a capability. -/
  | cget (f : Fields)
  /-- CTEST.need, opcode 0x3B (R124). Merges into one bit whether an access through the capability would pass. -/
  | ctest (f : Fields)
  /-- CADDR, opcode 0x3C (R124). Writes the capability's 52-bit cursor to a pair. -/
  | caddr (f : Fields)
  /-- SREAD, opcode 0x3D (R128). Reads a special register, optionally clearing s.status. -/
  | sread (f : Fields)
  /-- CRANGE, opcode 0x3E (R123). Writes the padded length or alignment mask of a length's encoding. -/
  | crange (f : Fields)
  /-- IDX.what, opcode 0x3F (R130). Reads launch geometry selected by M. -/
  | idx (f : Fields)
  /-- FADD, opcode 0x40 (R139). Adds two FP32 values with one rounding. -/
  | fadd (f : Fields)
  /-- FSUB, opcode 0x41 (R139). Subtracts two FP32 values with one rounding. -/
  | fsub (f : Fields)
  /-- FMUL, opcode 0x42 (R139). Multiplies two FP32 values with one rounding. -/
  | fmul (f : Fields)
  /-- FFMA, opcode 0x43 (R139). Fused multiply-add with one rounding. -/
  | ffma (f : Fields)
  /-- FMIN, opcode 0x44 (R140). Writes minimumNumber of two FP32 values. -/
  | fmin (f : Fields)
  /-- FMAX, opcode 0x45 (R140). Writes maximumNumber of two FP32 values. -/
  | fmax (f : Fields)
  /-- FADDMIN, opcode 0x46 (R139). Rounds the sum of x[A] and x[B] and takes MinNum with x[C]. -/
  | faddmin (f : Fields)
  /-- FCMP.cc, opcode 0x47 (R142). Compares two FP32 values and merges the outcome into one bit. -/
  | fcmp (f : Fields)
  /-- FSGN.op, opcode 0x48 (R144). Changes only the sign bit as its code selects. -/
  | fsgn (f : Fields)
  /-- FCLASS, opcode 0x49 (R144). Writes the one-hot class of an FP32 value. -/
  | fclass (f : Fields)
  /-- FRND, opcode 0x4A (R145). Rounds an FP32 value to an integral FP32 value. -/
  | frnd (f : Fields)
  /-- FCVTI.ty, opcode 0x4B (R145). Converts FP32 to a saturated integer. -/
  | fcvti (f : Fields)
  /-- ITOF.ty, opcode 0x4C (R145). Converts an integer to FP32. -/
  | itof (f : Fields)
  /-- FSCALE, opcode 0x4D (R139). Multiplies an FP32 value by 2 to an integer power. -/
  | fscale (f : Fields)
  /-- FMAXI, opcode 0x4E (R141). Chooses the greater of two value-index pairs. -/
  | fmaxi (f : Fields)
  /-- FMINI, opcode 0x4F (R141). Chooses the lesser of two value-index pairs. -/
  | fmini (f : Fields)
  /-- HADD2, opcode 0x50 (R147). Adds packed FP16 elements. -/
  | hadd2 (f : Fields)
  /-- HMUL2, opcode 0x51 (R147). Multiplies packed FP16 elements. -/
  | hmul2 (f : Fields)
  /-- HFMA2, opcode 0x52 (R147). Fused multiply-add on packed FP16 elements. -/
  | hfma2 (f : Fields)
  /-- HMIN2, opcode 0x53 (R147). MinNum on packed FP16 elements. -/
  | hmin2 (f : Fields)
  /-- HMAX2, opcode 0x54 (R147). MaxNum on packed FP16 elements. -/
  | hmax2 (f : Fields)
  /-- HCMP2.cc, opcode 0x55 (R149). Compares packed FP16 elements into two bits. -/
  | hcmp2 (f : Fields)
  /-- BADD2, opcode 0x56 (R147). Adds packed BF16 elements. -/
  | badd2 (f : Fields)
  /-- BMUL2, opcode 0x57 (R147). Multiplies packed BF16 elements. -/
  | bmul2 (f : Fields)
  /-- BFMA2, opcode 0x58 (R147). Fused multiply-add on packed BF16 elements. -/
  | bfma2 (f : Fields)
  /-- BMIN2, opcode 0x59 (R147). MinNum on packed BF16 elements. -/
  | bmin2 (f : Fields)
  /-- BMAX2, opcode 0x5A (R147). MaxNum on packed BF16 elements. -/
  | bmax2 (f : Fields)
  /-- HMAXI, opcode 0x5B (R148). Chooses between two FP16 value-index pairs. -/
  | hmaxi (f : Fields)
  /-- HDOT2, opcode 0x5C (R150). FP16 two-element dot product plus FP32 addend, one rounding. -/
  | hdot2 (f : Fields)
  /-- BDOT2, opcode 0x5D (R150). BF16 two-element dot product plus FP32 addend, one rounding. -/
  | bdot2 (f : Fields)
  /-- HCVT.op, opcode 0x5E (R151). Converts between FP32 and packed FP16. -/
  | hcvt (f : Fields)
  /-- BCVT.op, opcode 0x5F (R151). Converts between FP32 and packed BF16. -/
  | bcvt (f : Fields)
  /-- CVT.E4, opcode 0x60 (R157). Converts two FP32 values to E4M3 into one half of x[D]. -/
  | cvtE4 (f : Fields)
  /-- CVT.E5, opcode 0x61 (R157). Converts two FP32 values to E5M2 into one half of x[D]. -/
  | cvtE5 (f : Fields)
  /-- UNPK.E4, opcode 0x62 (R158). Widens a selected E4M3 byte to FP32. -/
  | unpkE4 (f : Fields)
  /-- UNPK.E5, opcode 0x63 (R158). Widens a selected E5M2 byte to FP32. -/
  | unpkE5 (f : Fields)
  /-- QNT.C4, opcode 0x64 (R159). Writes the nearest codebook code into a nibble of x[D]. -/
  | qntC4 (f : Fields)
  /-- DQ.C4, opcode 0x65 (R160). Writes the codebook entry a nibble indexes, widened to FP32. -/
  | dqC4 (f : Fields)
  /-- CVT.I8, opcode 0x66 (R157). Converts two FP32 values to saturated INT8 into one half of x[D]. -/
  | cvtI8 (f : Fields)
  /-- UNPK.I8, opcode 0x67 (R158). Widens a selected INT8 byte to FP32. -/
  | unpkI8 (f : Fields)
  /-- CVT.BF, opcode 0x68 (R161). Converts packed FP16 to packed BF16. -/
  | cvtBf (f : Fields)
  /-- CVT.HF, opcode 0x69 (R161). Converts packed BF16 to packed FP16. -/
  | cvtHf (f : Fields)
  /-- SRSEED, opcode 0x6A (R168). Seeds the row's stochastic generator. -/
  | srseed (f : Fields)
  /-- SRDRAW, opcode 0x6B (R169). Writes the lane's generator word, stepping unless .peek. -/
  | srdraw (f : Fields)
  /-- PACK.op, opcode 0x6C (R162). Combines two integers into halves, truncated or saturated. -/
  | pack (f : Fields)
  /-- UNPK.op, opcode 0x6D (R163). Extracts and extends one byte or half of x[A]. -/
  | unpk (f : Fields)
  /-- SCALE.E8, opcode 0x6E (R164). Multiplies FP32 by an E8M0 scale byte. -/
  | scaleE8 (f : Fields)
  /-- BLKEXP.fmt, opcode 0x6F (R165). Computes the E8M0 scale byte for a block maximum. -/
  | blkexp (f : Fields)
  /-- CRV, opcode 0x70 (R172). Evaluates a curve table at an FP32 value. -/
  | crv (f : Fields)
  /-- CRVLD, opcode 0x71 (R171). Starts loading a curve table's segments from memory. -/
  | crvld (f : Fields)
  /-- CRVRD.what, opcode 0x72 (R173). Reads a curve segment field or table state. -/
  | crvrd (f : Fields)
  /-- CRVCLR, opcode 0x73 (R173). Empties the curve tables selected by a mask. -/
  | crvclr (f : Fields)
  /-- FDIV, opcode 0x74 (R174). Correctly rounded FP32 division. -/
  | fdiv (f : Fields)
  /-- FSQRT, opcode 0x75 (R174). Correctly rounded FP32 square root. -/
  | fsqrt (f : Fields)
  /-- FRRED.op, opcode 0x76 (R175). Reduces an argument by pi/2 or ln 2 into value and quotient. -/
  | frred (f : Fields)
  /-- FXTR, opcode 0x77 (R176). Splits an FP32 value into mantissa and exponent. -/
  | fxtr (f : Fields)
  /-- CRC32C.n, opcode 0x78 (R177). Steps a reflected CRC-32C over 1, 2 or 4 bytes. -/
  | crc32c (f : Fields)
  /-- MIX32, opcode 0x79 (R178). Computes a 32-bit mixing hash. -/
  | mix32 (f : Fields)
  /-- BYTEPERM, opcode 0x7A (R179). Forms each result byte from a selected byte of two registers. -/
  | byteperm (f : Fields)
  /-- BREV, opcode 0x7B (R179). Reverses the 32 bits of x[A]. -/
  | brev (f : Fields)
  /-- FNS.dir, opcode 0x7C (R180). Finds the index of the nth set bit from low or high. -/
  | fns (f : Fields)
  /-- POPC.64, opcode 0x7D (R180). Counts the set bits of a pair. -/
  | popc64 (f : Fields)
  /-- CLZ.64, opcode 0x7E (R180). Counts the leading zeros of a pair. -/
  | clz64 (f : Fields)
  /-- DIGEST, opcode 0x7F (R181). Adds a record to the group's digest stream. -/
  | digest (f : Fields)
  /-- SHFL.IDX, opcode 0x80 (R186). Reads x[A] of the lane indexed by x[B], or the fill value. -/
  | shflIdx (f : Fields)
  /-- SHFL.UP, opcode 0x81 (R186). Reads x[A] of the lane n below, or the fill value. -/
  | shflUp (f : Fields)
  /-- SHFL.DN, opcode 0x82 (R186). Reads x[A] of the lane n above, or the fill value. -/
  | shflDn (f : Fields)
  /-- SHFL.XOR, opcode 0x83 (R186). Reads x[A] of lane i XOR n, or the fill value. -/
  | shflXor (f : Fields)
  /-- VOTE.ANY, opcode 0x84 (R187). Writes whether any active lane's predicate bit is set. -/
  | voteAny (f : Fields)
  /-- VOTE.ALL, opcode 0x85 (R187). Writes whether every active lane's predicate bit is set. -/
  | voteAll (f : Fields)
  /-- BALLOT, opcode 0x86 (R187). Writes the word of active lanes' predicate bits. -/
  | ballot (f : Fields)
  /-- MATCH.w, opcode 0x87 (R188). Writes the mask of active lanes whose value is bitwise equal. -/
  | matchW (f : Fields)
  /-- RED.ADD, opcode 0x88 (R189). Reduces integer sums over the fixed tree. -/
  | redAdd (f : Fields)
  /-- RED.MM.op, opcode 0x89 (R189). Reduces integer minimum or maximum over the fixed tree. -/
  | redMm (f : Fields)
  /-- RED.FADD, opcode 0x8A (R189). Reduces FP32 sums over the fixed tree, rounding at each node. -/
  | redFadd (f : Fields)
  /-- RED.FMM.op, opcode 0x8B (R189). Reduces FP32 MinNum or MaxNum over the fixed tree. -/
  | redFmm (f : Fields)
  /-- RED.MAXI.op, opcode 0x8C (R189). Reduces value-index pairs by FMAXI, FMINI or HMAXI. -/
  | redMaxi (f : Fields)
  /-- SCAN.ADD, opcode 0x8D (R190). Integer prefix sum over the fixed network. -/
  | scanAdd (f : Fields)
  /-- SCAN.FADD, opcode 0x8E (R190). FP32 prefix sum over the fixed network. -/
  | scanFadd (f : Fields)
  /-- ELECT, opcode 0x8F (R187). Sets one bit in the lowest active lane only. -/
  | elect (f : Fields)
  /-- LD.8, opcode 0x90 (R196). Issues a 1-byte load, binding its time register. -/
  | ld8 (f : Fields)
  /-- LD.16, opcode 0x91 (R196). Issues a 2-byte load, binding its time register. -/
  | ld16 (f : Fields)
  /-- LD.32, opcode 0x92 (R196). Issues a 4-byte load, binding its time register. -/
  | ld32 (f : Fields)
  /-- LD.64, opcode 0x93 (R196). Issues an 8-byte load into a pair. -/
  | ld64 (f : Fields)
  /-- LD.128, opcode 0x94 (R196). Issues a 16-byte load into a quad, with tag where allowed. -/
  | ld128 (f : Fields)
  /-- PROBE, opcode 0x95 (R198). Books and pins a line's delivery and reports its source. -/
  | probe (f : Fields)
  /-- PREF, opcode 0x96 (R199). Hints that a line will soon be loaded. -/
  | pref (f : Fields)
  /-- LDA.32.scope, opcode 0x97 (R200). 4-byte load with acquire at the named scope. -/
  | lda32 (f : Fields)
  /-- LDA.64.scope, opcode 0x98 (R200). 8-byte load with acquire at the named scope. -/
  | lda64 (f : Fields)
  /-- TNOW, opcode 0x99 (R218). Writes device time into a time register. -/
  | tnow (f : Fields)
  /-- TSORT, opcode 0x9A (R219). Sorts masked time registers by tick into nibbles. -/
  | tsort (f : Fields)
  /-- TMIN, opcode 0x9B (R219). Writes the index of the earliest masked time register. -/
  | tmin (f : Fields)
  /-- TDIFF, opcode 0x9C (R220). Writes the signed tick difference of two time registers or one and now. -/
  | tdiff (f : Fields)
  /-- TMOV, opcode 0x9D, M = 0 (R221). Copies one time register to another once it is known. -/
  | tmov (f : Fields)
  /-- TMOV.get, opcode 0x9D, M = 1 (R221). Writes a known time register's bits to a pair. -/
  | tmovGet (f : Fields)
  /-- TMOV.raw, opcode 0x9D, M = 2 (R221). Writes a time register's bits at once, even while pending. -/
  | tmovRaw (f : Fields)
  /-- TMOV.set, opcode 0x9D, M = 3 (R221). Writes a pair into a time register and ends its binding. -/
  | tmovSet (f : Fields)
  /-- TWAIT, opcode 0x9E (R222). Holds the thread until a time register's tick less x[B] has passed. -/
  | twait (f : Fields)
  /-- TCMP.cc, opcode 0x9F (R223). Compares time registers or tests a flag into one bit. -/
  | tcmp (f : Fields)
  /-- ST.8.v.scope, opcode 0xA0 (R230). Issues a 1-byte store toward its application point. -/
  | st8 (f : Fields)
  /-- ST.16.v.scope, opcode 0xA1 (R230). Issues a 2-byte store. -/
  | st16 (f : Fields)
  /-- ST.32.v.scope, opcode 0xA2 (R230). Issues a 4-byte store. -/
  | st32 (f : Fields)
  /-- ST.64.v.scope, opcode 0xA3 (R230). Issues an 8-byte store from a pair. -/
  | st64 (f : Fields)
  /-- ST.128.v.scope, opcode 0xA4 (R230). Issues a 16-byte store from a quad, with tag where allowed. -/
  | st128 (f : Fields)
  /-- STL.32.v.scope, opcode 0xA5 (R234). Issues a 4-byte release store with a not-before tick. -/
  | stl32 (f : Fields)
  /-- STL.64.v.scope, opcode 0xA6 (R234). Issues an 8-byte release store with a not-before tick. -/
  | stl64 (f : Fields)
  /-- STZ.v.scope, opcode 0xA7 (R230). Issues a 64-byte store of zeros. -/
  | stz (f : Fields)
  /-- AADD.op.scope, opcode 0xA8 (R241). Issues an atomic add, saturating add, FP32 add or 64-bit add. -/
  | aadd (f : Fields)
  /-- AMM.op.scope, opcode 0xA9 (R241). Issues an atomic integer minimum or maximum. -/
  | amm (f : Fields)
  /-- ALOG.op.scope, opcode 0xAA (R241). Issues an atomic AND, OR, XOR or swap. -/
  | alog (f : Fields)
  /-- ACAS.32.scope, opcode 0xAB (R241). Issues a 32-bit atomic compare-and-swap. -/
  | acas32 (f : Fields)
  /-- ACAS.64.scope, opcode 0xAC (R241). Issues a 64-bit atomic compare-and-swap. -/
  | acas64 (f : Fields)
  /-- AFMM.op.scope, opcode 0xAD (R241). Issues an atomic FP minimum, maximum or value-index choice. -/
  | afmm (f : Fields)
  /-- AINC.op.scope, opcode 0xAE (R241). Issues an atomic bounded increment or decrement. -/
  | ainc (f : Fields)
  /-- ADRAIN, opcode 0xAF (R243). Waits for the thread's stores to retire, or flushes the group's staged entries in deterministic mode. -/
  | adrain (f : Fields)
  /-- FENCE.kind.scope, opcode 0xB0 (R251). Holds the thread until earlier stores complete and earlier loads deliver, as its kind selects. -/
  | fence (f : Fields)
  /-- WAITC, opcode 0xB1 (R253). Holds the thread until its outstanding counters fall to their thresholds. -/
  | waitc (f : Fields)
  /-- BAR.INIT.scope, opcode 0xB2 (R255). Initialises a barrier object's expected count. -/
  | barInit (f : Fields)
  /-- BAR.ARR.scope, opcode 0xB3 (R255). Arrives at a barrier object and returns a ticket. -/
  | barArr (f : Fields)
  /-- BAR.WAIT.scope, opcode 0xB4 (R255). Parks until a barrier object's generation passes the ticket. -/
  | barWait (f : Fields)
  /-- BAR.ARRW.scope, opcode 0xB5 (R255). Arrives at a barrier object and waits for the phase. -/
  | barArrw (f : Fields)
  /-- BAR.GRP, opcode 0xB6 (R256). Arrives at the group hardware barrier and waits. -/
  | barGrp (f : Fields)
  /-- BAR.CLU, opcode 0xB7 (R256). Arrives at the cluster hardware barrier and waits. -/
  | barClu (f : Fields)
  /-- BAR.DIE, opcode 0xB8 (R256). Arrives at the die hardware barrier and waits. -/
  | barDie (f : Fields)
  /-- BAR.GRID, opcode 0xB9 (R256). Arrives at the grid hardware barrier and waits. -/
  | barGrid (f : Fields)
  /-- FLAGSET.op.v.scope, opcode 0xBA (R260). Writes or adds to a flag word as a release. -/
  | flagset (f : Fields)
  /-- FLAGWAIT.cc.scope, opcode 0xBB (R261). Reads a flag and parks until its condition holds. -/
  | flagwait (f : Fields)
  /-- SLEEP, opcode 0xBC (R263). Parks the thread for x[A] ticks. -/
  | sleep (f : Fields)
  /-- ROWSYNC, opcode 0xBD (R262). Parks until every live thread of the row has arrived. -/
  | rowsync (f : Fields)
  /-- CNTWAIT.lvl, opcode 0xBE (R264). Parks until a work record's counter falls to a threshold. -/
  | cntwait (f : Fields)
  /-- CNTREAD.lvl, opcode 0xBF (R264). Reads a work record's counter of incomplete members. -/
  | cntread (f : Fields)
  /-- COPY.GT.scope, opcode 0xC0 (R285). Starts a copy from global memory into a tile. -/
  | copyGt (f : Fields)
  /-- COPY.TG.v.scope, opcode 0xC1 (R285). Starts a copy from a tile to global memory. -/
  | copyTg (f : Fields)
  /-- COPY.TT.scope, opcode 0xC2 (R285). Starts a copy between two tiles. -/
  | copyTt (f : Fields)
  /-- COPY.GG.v.scope, opcode 0xC3 (R285). Starts a copy between two global ranges. -/
  | copyGg (f : Fields)
  /-- COPY.GATH.scope, opcode 0xC4 (R285). Starts a gather of indexed rows into a tile. -/
  | copyGath (f : Fields)
  /-- COPY.SCAT.v.scope, opcode 0xC5 (R285). Starts a scatter of tile rows to indexed addresses. -/
  | copyScat (f : Fields)
  /-- TDECL, opcode 0xC6 (R290). Declares a tile over a range of cluster SRAM. -/
  | tdecl (f : Fields)
  /-- TFREE, opcode 0xC7 (R291). Makes a ready tile empty. -/
  | tfree (f : Fields)
  /-- TSTATE, opcode 0xC8 (R291). Reads a tile's state and in-flight count. -/
  | tstate (f : Fields)
  /-- TDRAIN, opcode 0xC9 (R291). Holds the thread until a tile is ready or empty, then acquires. -/
  | tdrain (f : Fields)
  /-- TREADY, opcode 0xCA (R291). Writes into one bit whether a tile is ready. -/
  | tready (f : Fields)
  /-- CPCANCEL.tile, opcode 0xCB, M = 0 (R293). Cancels the group's copies that name a tile. -/
  | cpcancelTile (f : Fields)
  /-- CPCANCEL.all, opcode 0xCB, M = 1 (R293). Cancels every copy the thread has issued. -/
  | cpcancelAll (f : Fields)
  /-- PAGEIN, opcode 0xCC (R297). Asks for a page to be made resident. -/
  | pagein (f : Fields)
  /-- PGSTAT, opcode 0xCD (R298). Reads a page's state word from a walk. -/
  | pgstat (f : Fields)
  /-- PLACE, opcode 0xCE (R299). Starts moving a page to a die or to pooled memory. -/
  | place (f : Fields)
  /-- DISCARD, opcode 0xCF (R300). Drops a page's contents and returns its frame. -/
  | discard (f : Fields)
  /-- CLAIM.slot, opcode 0xD0, M = 0 (R308). Claims a range of pantry slots. -/
  | claimSlot (f : Fields)
  /-- CLAIM.acc, opcode 0xD0, M = 1 (R308). Claims a range of private accumulators. -/
  | claimAcc (f : Fields)
  /-- CLAIM.share, opcode 0xD0, M = 2 (R308). Claims a shared accumulator by key. -/
  | claimShare (f : Fields)
  /-- RELEASE.kind, opcode 0xD1 (R308). Releases claimed slots or accumulators after earlier passes. -/
  | release (f : Fields)
  /-- OPRES, opcode 0xD2 (R309). Reserves an operand record with a descriptor. -/
  | opres (f : Fields)
  /-- OPFREE, opcode 0xD3 (R309). Ends an operand record's reservation. -/
  | opfree (f : Fields)
  /-- CBLD, opcode 0xD4 (R311). Starts loading a C4 codebook into a record. -/
  | cbld (f : Fields)
  /-- SLOTLD, opcode 0xD5 (R312). Starts copying 8 KiB of memory into a pantry slot. -/
  | slotld (f : Fields)
  /-- SLOTRD.v.scope, opcode 0xD6 (R312). Starts copying a pantry slot to memory. -/
  | slotrd (f : Fields)
  /-- MZERO, opcode 0xD7 (R320). Zeroes the accumulators selected by a mask. -/
  | mzero (f : Fields)
  /-- MMA, opcode 0xD8 (R316). Posts a one-step matrix pass. -/
  | mma (f : Fields)
  /-- MLOOP, opcode 0xD9 (R316). Posts a pass of N steps, optionally streaming an operand. -/
  | mloop (f : Fields)
  /-- ACCRD, opcode 0xDA (R320). Reads an accumulator element after earlier words on it. -/
  | accrd (f : Fields)
  /-- ACCWR, opcode 0xDB (R320). Writes an accumulator element in group order. -/
  | accwr (f : Fields)
  /-- MLINK.arr, opcode 0xDC, M = 0 (R326). Ties a pass's completion to a barrier-object arrival. -/
  | mlinkArr (f : Fields)
  /-- MLINK.wait, opcode 0xDC, M = 1 (R326). Holds later passes until a barrier object's generation passes a ticket. -/
  | mlinkWait (f : Fields)
  /-- MSTAT.time, opcode 0xDD, M = 0 (R318). Binds a time register to a pass's estimated then firm completion. -/
  | mstatTime (f : Fields)
  /-- MSTAT.wait, opcode 0xDD, M = 1 (R318). Writes a pass's status word once the pass completes. -/
  | mstatWait (f : Fields)
  /-- MSTAT.peek, opcode 0xDD, M = 2 (R318). Writes a pass's status word without waiting. -/
  | mstatPeek (f : Fields)
  /-- MCANCEL.pass, opcode 0xDE, M = 0 (R323). Cancels one pass of the group. -/
  | mcancelPass (f : Fields)
  /-- MCANCEL.all, opcode 0xDE, M = 1 (R323). Cancels every pass of the group. -/
  | mcancelAll (f : Fields)
  /-- MPRIO, opcode 0xDF (R324). Sets the group's engine priority. -/
  | mprio (f : Fields)
  /-- LAUNCH, opcode 0xE0 (R339). Checks a launch record and places it in the larder, or returns a status. -/
  | launch (f : Fields)
  /-- LAUNCHW, opcode 0xE1 (R339). As LAUNCH, but parks while the larder or work tables are full. -/
  | launchw (f : Fields)
  /-- CANCEL.lvl, opcode 0xE2 (R345). Cancels the launch, graph, phase or job containing a launch. -/
  | cancel (f : Fields)
  /-- SPLITQ, opcode 0xE3 (R350). Reads a kernel split factor. -/
  | splitq (f : Fields)
  /-- CORES, opcode 0xE4 (R350). Reads the live cores of the partition. -/
  | cores (f : Fields)
  /-- THRARM, opcode 0xE5 (R356). Arms the group's throttle-edge traps. -/
  | thrarm (f : Fields)
  /-- THRACK, opcode 0xE6 (R356). Reads throttle state and fired edges, then re-arms them. -/
  | thrack (f : Fields)
  /-- BUDGET.what, opcode 0xE7 (R349). Reads the tenant's core, byte, power or gating state. -/
  | budget (f : Fields)
  /-- FEATQ, opcode 0xE8 (R350). Reads a core's feature mask, liveness and cullet bit. -/
  | featq (f : Fields)
  /-- CLKQ.what, opcode 0xE9 (R350). Reads the lane ratio, clock or pending request. -/
  | clkq (f : Fields)
  /-- SETPRIO, opcode 0xEA (R351). Sets the group's priority within the tenant's cap. -/
  | setprio (f : Fields)
  /-- HOMEQ, opcode 0xEB (R350). Reports the die homing most pages of a range. -/
  | homeq (f : Fields)
  /-- DETQ, opcode 0xEC (R350). Reads deterministic mode and audit hold. -/
  | detq (f : Fields)
  /-- ROWWAKE, opcode 0xED (R352). Wakes a row's threads parked by PARK or SLEEP. -/
  | rowwake (f : Fields)
  /-- PRIOQ, opcode 0xEE (R351). Reads the group, launch, cap and engine priorities. -/
  | prioq (f : Fields)
  /-- CYCLES, opcode 0xEF (R350). Reads the cluster's 64-bit cycle count. -/
  | cycles (f : Fields)
  /-- SRET, opcode 0xF0 (R376). Restores the thread's trap image and returns to user mode. -/
  | sret (f : Fields)
  /-- CSRR, opcode 0xF1 (R363). Reads a control and status register. -/
  | csrr (f : Fields)
  /-- CSRW, opcode 0xF2 (R363). Writes a control and status register. -/
  | csrw (f : Fields)
  /-- TLBINV.all, opcode 0xF3, M = 0 (R364). Invalidates every TLB entry and lane register of the device. -/
  | tlbinvAll (f : Fields)
  /-- TLBINV.page, opcode 0xF3, M = 1 (R364). Invalidates every translation of one address. -/
  | tlbinvPage (f : Fields)
  /-- CTXSV, opcode 0xF4 (R365). Writes the thread's registers as a context image. -/
  | ctxsv (f : Fields)
  /-- CTXLD, opcode 0xF5 (R365). Loads and checks a context image into the thread's registers. -/
  | ctxld (f : Fields)
  /-- QUAR.add, opcode 0xF6, M = 0 (R366). Puts a core on the cullet list. -/
  | quarAdd (f : Fields)
  /-- QUAR.rem, opcode 0xF6, M = 1 (R366). Takes a core off the cullet list. -/
  | quarRem (f : Fields)
  /-- QUAR.get, opcode 0xF6, M = 2 (R366). Reads a core's score, cullet and report bits. -/
  | quarGet (f : Fields)
  /-- AUDCFG.set, opcode 0xF7, M = 0 (R366). Writes the audit control word, quarantining pending cores if QPOL is set. -/
  | audcfgSet (f : Fields)
  /-- AUDCFG.get, opcode 0xF7, M = 1 (R366). Reads the audit control word. -/
  | audcfgGet (f : Fields)
  /-- CORHALT, opcode 0xF8 (R367). Marks a core halted and pre-empts its groups. -/
  | corhalt (f : Fields)
  /-- CORWAKE, opcode 0xF9 (R367). Clears a core's halted mark. -/
  | corwake (f : Fields)
  /-- PWRGATE.gate, opcode 0xFA, M = 0 (R368). Asks that a cluster be gated. -/
  | pwrgateGate (f : Fields)
  /-- PWRGATE.wake, opcode 0xFA, M = 1 (R368). Asks that a gated cluster run, through the slew limiter. -/
  | pwrgateWake (f : Fields)
  /-- MCREAD.lo, opcode 0xFB, M = 0 (R369). Reads bytes 0-15 of a die's oldest machine-check record. -/
  | mcreadLo (f : Fields)
  /-- MCREAD.hi, opcode 0xFB, M = 1 (R369). Reads bytes 16-31 of a die's oldest machine-check record. -/
  | mcreadHi (f : Fields)
  /-- MCREAD.pop, opcode 0xFB, M = 2 (R369). Reads bytes 16-31 and removes the oldest machine-check record. -/
  | mcreadPop (f : Fields)
  /-- PTESET, opcode 0xFC (R370). Writes a page-table entry as one update indivisible to walks. -/
  | pteset (f : Fields)
  /-- IDLE, opcode 0xFD (R371). Parks until a tick, an HDOOR write or ROWWAKE. -/
  | idle (f : Fields)
  /-- DBGSTEP.step, opcode 0xFE, M = 0 (R372). Lets a stopped thread issue one word and stop again. -/
  | dbgstepStep (f : Fields)
  /-- DBGSTEP.run, opcode 0xFE, M = 1 (R372). Lets a stopped thread run on. -/
  | dbgstepRun (f : Fields)
  /-- YIELD_BAR_EXPIRY (R92). The 8-slot bar of a YIELD runs out and the thread is ready again. -/
  | yieldBarExpiry (k : Nat)
  /-- PARK_WAKE (R102). A parked thread's wake tick is reached and it rejoins the candidates. -/
  | parkWake (k : Nat)
  /-- BOOKING_RETRY (R205). A probe that found no calendar slot retries and books the whole path. -/
  | bookingRetry (id : Nat)
  /-- PROMISE_KNOWN (R205). A load's booked promise reaches the core and is written to its time register. -/
  | promiseKnown (id : Nat)
  /-- FIRM_PROMISE (R206). A bounded-mode domain booking returns and replaces the estimate. -/
  | firmPromise (id : Nat)
  /-- LOAD_DELIVERY (R196). A load's value lands in its registers and clears pending. -/
  | loadDelivery (id : Nat)
  /-- BROKEN_PROMISE (R213). A replay, read retry, thermal stop or link replay breaks a promise and rebooks it. -/
  | brokenPromise (id : Nat) (b : Break)
  /-- LEHR_ARRIVAL (R232). A store or atomic reaches its home's lehr and its application tick is computed. -/
  | lehrArrival (id : Nat)
  /-- LEHR_APPLY (R232). The lehr applies a held update at its application tick. -/
  | lehrApply (id : Nat)
  /-- STORE_COMPLETION_KNOWN (R230). A store's completion tick becomes known at the issuing core. -/
  | storeCompletionKnown (id : Nat)
  /-- STORE_RETIRE (R230). A store's completion passes or its acknowledgement arrives and it retires. -/
  | storeRetire (id : Nat)
  /-- ATOMIC_RETURN (R241). An atomic's old value lands in its destination. -/
  | atomicReturn (id : Nat)
  /-- PORCH_SEND (R236). The porch sends a home its next entry in sequence order. -/
  | porchSend (die : Nat) (home : Home)
  /-- PORCH_ACK (R236). A home's acknowledgement arrives and retires a porch entry. -/
  | porchAck (id : Nat)
  /-- PORCH_REPLAY (R239). An unacknowledged porch entry is replayed 1,024 ticks later. -/
  | porchReplay (id : Nat)
  /-- PORCH_SEIZE (R239). No acknowledgement by 9,216 ticks makes the porch seize the home. -/
  | porchSeize (id : Nat)
  /-- PORCH_POST_ACK (R434). Firmware posts the acknowledgement of an applied entry, ending the seizure. -/
  | porchPostAck (die : Nat) (home : Home)
  /-- PORCH_RESEND (R434). Firmware orders held entries resent from the unapplied entry. -/
  | porchResend (die : Nat) (home : Home)
  /-- HOME_LOST (R240). Firmware declares a home lost and every held entry is refused. -/
  | homeLost (die : Nat) (home : Home)
  /-- STORE_REFUSAL (R240). A home refuses an update and the thread's refusal record is written. -/
  | storeRefusal (id : Nat) (code : Nat)
  /-- STAIR_TICKET_PASS (R245). The stair passes the ticket once the group has ended and its releases retired. -/
  | stairTicketPass (launch : Nat)
  /-- FLAG_MONITOR_REREAD (R261). An update or ef entry fires a monitor and the waiter re-reads its flag. -/
  | flagMonitorReread (k : Nat)
  /-- FLAG_POLL (R261). A waiter without a monitor re-reads its flag every 256 ticks. -/
  | flagPoll (k : Nat)
  /-- HW_BARRIER_RELEASE (R256). A hardware barrier instance releases when every covered thread has arrived or ended. -/
  | hwBarrierRelease (id : Nat)
  /-- GRID_RANK_RELEASE (R258). A cluster's BAR.GRID waiters are released at their rank's slot. -/
  | gridRankRelease (id : Nat) (cluster : Nat)
  /-- COPY_UNIT (R285). The copy streamer reads and writes one 16-byte unit, or stops. -/
  | copyUnit (id : Nat) (unit : Nat)
  /-- COPY_COMPLETE (R285). A copy completes, writing its status, tick and tile transitions. -/
  | copyComplete (id : Nat)
  /-- CURVE_LOAD_COMPLETE (R171). A curve table's segments have all arrived and its status is written. -/
  | curveLoadComplete (id : Nat)
  /-- CBLD_COMPLETE (R311). A codebook load completes and its status is written. -/
  | cbldComplete (id : Nat)
  /-- SLOT_TRANSFER_COMPLETE (R312). A SLOTLD or SLOTRD completes or stops and its status is written. -/
  | slotTransferComplete (id : Nat)
  /-- ENGINE_GRANT (R321). At a step boundary the engine grants a step to the best-scoring eligible entry. -/
  | engineGrant (cluster : Nat)
  /-- STREAM_LOAD (R316). The sequencer loads a streamed operand into a step's slot. -/
  | streamLoad (id : Nat)
  /-- STEP_APPLY (R319). A granted step updates its accumulator indivisibly. -/
  | stepApply (id : Nat)
  /-- PASS_COMPLETE (R316). A pass's last step is applied or it stops, and its status is set. -/
  | passComplete (id : Nat)
  /-- PREEMPT_REQUEST (R104). A request marks a group to pause at its block starts. -/
  | preemptRequest (g : Nat)
  /-- PREEMPT_RETRY (R104). A lifted pre-emption is retried 4,096 ticks later, or dropped after PRECAP retries. -/
  | preemptRetry (g : Nat)
  /-- CONTEXT_SAVE (R105). Every thread is paused and pending writes have landed, so the group's context is saved. -/
  | contextSave (g : Nat)
  /-- GROUP_RESUME (R106). A saved group resumes at its paused headers on a fitting cluster. -/
  | groupResume (g : Nat) (cluster : Nat)
  /-- GROUP_DISPATCH (R347). The distributor dispatches a pending group to the lowest fitting cluster. -/
  | groupDispatch (launch : Nat) (g : Nat)
  /-- GROUP_SPILL (R347). An auto-placed group that has waited 4,096 ticks goes to the nearest fitting die. -/
  | groupSpill (launch : Nat) (g : Nat)
  /-- GROUP_END (R94). The group's last thread ends and its accesses have completed. -/
  | groupEnd (g : Nat)
  /-- LAUNCH_START (R433). A launch's start conditions hold and it may dispatch groups. -/
  | launchStart (launch : Nat)
  /-- LAUNCH_COMPLETE (R340). A launch's groups and their work complete and its larder record frees. -/
  | launchComplete (launch : Nat)
  /-- GROUP_KILL (R383). A cluster-SRAM error or double fault kills a group at once. -/
  | groupKill (g : Nat) (cause : Nat) (who : Nat)
  /-- DAMPER_INTERVAL (R354). A 1,024-tick interval boundary resets cluster grants and may end throttling. -/
  | damperInterval
  /-- SLEW_ADMIT (R359). The slew limiter admits a waiting cluster from gated to running. -/
  | slewAdmit (cluster : Nat)
  /-- CLUSTER_GATE (R358). The idle policy gates a cluster whose threads are all parked or that is empty. -/
  | clusterGate (cluster : Nat)
  /-- RATIO_CHANGE (R22). A requested lane ratio takes effect once the cluster is empty. -/
  | ratioChange (cluster : Nat)
  /-- CLOCK_CHANGE (R23). A requested cluster frequency takes effect once the cluster is empty. -/
  | clockChange (cluster : Nat)
  /-- PAGE_WALK (R391). A walk request is served level by level on the dies homing the tables. -/
  | pageWalk (id : Nat)
  /-- COPY_ON_WRITE (R397). The walker converts or copies a shared page for a held store. -/
  | copyOnWrite (id : Nat)
  /-- MIGRATION_COPY (R399). Once pre-sweep stores are applied, a migrating page's copy begins. -/
  | migrationCopy (id : Nat)
  /-- MIGRATION_COMMIT (R399). One update writes the migrated page's new leaf and sweeps its address. -/
  | migrationCommit (id : Nat)
  /-- TIME_COMPARE (R381). Neighbouring device-time copies are compared every 1,024 ticks. -/
  | timeCompare
  /-- SOFT_ERROR (R380). A structure detects a soft error and corrects, retries, poisons or refuses. -/
  | softError (e : SoftErr)
  /-- REPLAY_DISPATCH (R405). The gaffer dispatches an ended audited group's replay. -/
  | replayDispatch (a : Nat)
  /-- REPLAY_TIMEOUT (R405). A replay not dispatched within 2^24 ticks is counted as dropped. -/
  | replayTimeout (a : Nat)
  /-- REPLAY_STALL (R406). A replay that makes no progress for 2^20 ticks diverges. -/
  | replayStall (a : Nat) (pos : Nat)
  /-- AUDIT_COMPARE (R411). The replay's per-position digests are compared with the original's. -/
  | auditCompare (a : Nat) (r : List RunDigest)
  /-- TIEBREAK (R411). A tiebreak replay settles a mismatch and scores are adjusted. -/
  | tiebreak (a : Nat) (r : Option RunDigest)
  /-- HOST_LOAD (R420). A host load of HBM4E reads at the line's home. -/
  | hostLoad (pa : Nat) (bytes : Nat)
  /-- HOST_STORE (R420). A host store to HBM4E is applied at the home's lehr in port order. -/
  | hostStore (pa : Nat) (data : List Byte)
  /-- SUBMIT_GO (R422). A GO write tags and checks the submitted record and starts a new job. -/
  | submitGo (window : Nat) (w34 : Word)
  /-- TABLE_ENTRY_PORT (R421). A host GO at the table-entry port applies an entry as PTESET. -/
  | tableEntryPort (pa : Nat) (entry : Double)
  /-- HOST_TLB_INVALIDATE (R421). A host write to the invalidation register applies TLBINV. -/
  | hostTlbInvalidate (va : Option Nat)
  /-- COW_REFUSAL (R397). A host write of a frame refuses every copy-on-write held on it. -/
  | cowRefusal (frame : Word)
  /-- FRAME_POOL_FILL (R396). A host write of a frame address adds it to a die's free pool. -/
  | framePoolFill (die : Nat) (size : Nat) (pa : Nat)
  /-- DOMAIN_MODE_WRITE (R426). A write to a domain-mode word sets paths to bounded or estimate mode. -/
  | domainModeWrite (index : Nat) (v : Word)
  /-- CLKREQ (R23). A CLKREQ write places a pending ratio or frequency request for a cluster. -/
  | clkreq (v : Word)
  /-- HDOOR (R371). Any write to HDOOR wakes every thread in IDLE. -/
  | hdoor (v : Word)
  /-- FMASK (R374). A write clears feature or live bits of a core and pre-empts affected groups. -/
  | fmask (core : Nat) (v : Word)
  /-- REGISTER_WRITE (R8). A write to a register with no behaviour of its own sets its fields by access code. -/
  | registerWrite (r : HostReg) (v : Word)
  /-- STATUS (R430). The service port returns the bring-up stage and any safe-state cause. -/
  | status
  /-- SELFTEST (R430). The service port returns per-die self-test results. -/
  | selftest
  /-- IDENT (R430). The service port returns the identity certificate in pieces. -/
  | ident (piece : Nat)
  /-- FWSTAGE (R430). The service port stages a verified firmware image for the next power cycle. -/
  | fwstage (image : FwImage)
  /-- SENSE (R430). The service port returns power, current and temperature readings. -/
  | sense
  /-- SPDM_ATTESTATION (R429). The device answers an SPDM attestation request with dual-signed measurements. -/
  | spdmAttestation (request : Nat)
  /-- POWER_ON (R427). Power-up runs the bring-up stages in order, or enters the safe state. -/
  | powerOn (b : BringUp)
  /-- HBM_THERMAL_STOP (R431). An HBM stack at 105 °C takes a thermal emergency stop of a pseudo-channel. -/
  | hbmThermalStop (die : Nat) (pc : Nat)
  /-- JUNCTION_OVERTEMP (R431). A die junction at 110 °C lowers damper grants at the next interval. -/
  | junctionOvertemp (die : Nat) (grant : Nat)
  /-- THERMAL_SHUTDOWN (R431). 125 °C or loss of coolant flow puts the package in the safe state. -/
  | thermalShutdown
  /-- LINK_RETIRE (R425). An Alaush link retires and its flits in flight are replayed on another link. -/
  | linkRetire (link : Nat)
  /-- POWER_OFF (R415). Power to the package is removed or cycled, and every volatile state is lost, including the cullet list, the scores and the safe state. -/
  | powerOff
  /-- DOMAIN_ACCESS (R426). A load, store or atomic from another device of the domain arrives over the Alaush links at this device's home, where it is booked, applied and acknowledged. -/
  | domainAccess (pa : Nat) (a : DomainAcc)
  /-- HOST_MIGRATION_START (R399). The host starts a page migration through its window: the leaf becomes migrating and its address is swept. -/
  | hostMigrationStart (tenant : Nat) (va : Nat) (target : MigTarget)
  /-- PAGEIN_HOST_REFUSAL (R400). The host refuses the PAGEIN of an absent page, and each merged PAGEIN lands with status 1. -/
  | pageinHostRefusal (tenant : Nat) (va : Nat)
  /-- PROBE_PIN_EXPIRY (R198). The pin that a PROBE placed on a line ends one lease length after the promised tick, and the line may be evicted again. -/
  | probePinExpiry (id : Nat)
  deriving DecidableEq, Repr

end Sys2Proof
end

