-- ==== Sys2Proof/Machine/Encoding.lean ====
section
/-! DEFINITION. What each word's fields name (Tables 3.1, 3.2 and the form tables of the classes), and from it the causes for
which a word cannot execute (Table 3.10): every check that depends on the word alone (R80). -/

namespace Sys2Proof.Machine

/-- What one of the fields D, A, B, C of a word names. -/
inductive Role where
  /-- an unused field, which must be zero (R65) -/
  | zero
  /-- a number or a part of an immediate; `ok` says whether its value is defined -/
  | code (ok : Bool)
  /-- `n` general registers that the word reads, with the alignment of a pair, quad or octet (R63, R159) -/
  | src (n : Nat)
  /-- `n` general registers that the word reads, from any first register (the operands of atomics, R227) -/
  | srcs (n : Nat)
  /-- an operand block of `n` registers, aligned to `n`, whose field must not be 0 (R283, R316) -/
  | block (n : Nat)
  /-- `n` general registers that the word writes -/
  | dst (n : Nat)
  /-- a general register of which the word writes a part, merging at write (R117, R153) -/
  | mrg
  /-- `n` general registers that the word reads and writes -/
  | upd (n : Nat)
  /-- the number of a capability quad (R69), of `n` quads from it (COPY.GG names two, R283) -/
  | cap (n : Nat)
  /-- a time register that the word reads and waits for (R194) -/
  | tsrc
  /-- a time register that the word reads without waiting (R221, R223) -/
  | tpeek
  /-- a time register that the word writes -/
  | tdst
  deriving DecidableEq, Repr

/-- What a word's fields name, as its form table lays down. -/
structure Sig where
  d : Role := .zero
  a : Role := .zero
  b : Role := .zero
  /-- field C, where the format is not MEM -/
  c : Role := .zero
  /-- format MEM: whether the word takes a time register, a scope and V (R69) -/
  mem : Option (Bool × Bool × Bool) := none
  /-- format T: the time register at [46:43] -/
  timeT : Bool := false
  /-- bit i: the word defines M = i (R78) -/
  ms : Nat := 1
  /-- a reserved bit that no field above covers is nonzero, or a B that must not be 0 is 0 -/
  bad : Bool := false
  deriving DecidableEq, Repr

/-- Formats J and W: all of [46:20] is one number. -/
def Sig.long (d : Role) : Sig := { d := d, a := .code true, b := .code true, c := .code true }

/-- Format I: [37:20] is one number. -/
def Sig.imm (d a : Role) (bad : Bool := false) (ms : Nat := 1) : Sig :=
  { d := d, a := a, b := .code true, c := .code true, ms := ms, bad := bad }

/-- Format MEM with a capability in A and an offset in B. -/
def Sig.memory (d : Role) (time scope v : Bool) (ms : Nat := 1) (bad : Bool := false) : Sig :=
  { d := d, a := .cap 1, b := .src 1, mem := some (time, scope, v), ms := ms, bad := bad }

/-- The code of a single-bit destination with a condition below `n` (R117). -/
def codeBit (f : Fields) (n : Nat) : Role := .code (f.cond < n)

/-- Field C as a number below `n` (R138). -/
def codeC (f : Fields) (n : Nat) : Role := .code (f.c.toNat < n)

/-- A class 0x0 word (Table 4.1). -/
def sig0 (o : Nat) (f : Fields) : Sig :=
  match o with
  | 0x0 => {}
  | 0x1 => Sig.long .zero
  | 0x2 => { a := .src 1 }
  | 0x3 => Sig.long (.dst 1)
  | 0x4 => { d := .dst 1, a := .src 1 }
  | 0x5 => { a := .src 1 }
  | 0x6 => { Sig.long (.src 1) with timeT := true }
  | 0x7 => { Sig.long (.src 1) with timeT := true }
  | 0x8 => {}
  | 0x9 => { a := .src 2 }
  | 0xA => {}
  | 0xB => Sig.long .zero
  | 0xC => Sig.long .zero
  | 0xD => Sig.imm .zero .zero (f.imm18.toNat % 256 / 16 != 0 || f.imm18.toNat / 4096 != 0)
  | 0xE => { d := .dst 1 }
  | _ => Sig.long (.upd 1)

/-- A class 0x1 word (Table 5.1). -/
def sig1 (o : Nat) : Sig :=
  match o with
  | 0x1 => Sig.imm (.dst 1) (.src 1)
  | 0x6 | 0xD => { d := .dst 1, a := .src 1, b := .src 1, c := .src 1 }
  | 0x7 | 0x8 => { d := .dst 2, a := .src 1, b := .src 1, c := .src 2 }
  | _ => { d := .dst 1, a := .src 1, b := .src 1 }

/-- Field B as a shift count: a register when M = 00, a number when M = 01 (R115, Table 8.1). -/
def countB (f : Fields) : Role := if f.m = 1 then .code true else .src 1

/-- A class 0x2 word (Table 5.3). -/
def sig2 (o : Nat) (f : Fields) : Sig :=
  match o with
  | 0x4 => Sig.imm (.dst 1) (.src 1) false 15
  | 0x5 | 0x6 | 0x7 | 0x8 => { d := .dst 1, a := .src 1, b := countB f, ms := 3 }
  | 0x9 | 0xA => { d := .dst 1, a := .src 1 }
  | 0xB => { d := .dst 1, a := .src 1, b := .src 1, ms := 3 }
  | 0xC | 0xD => { d := .dst 1, a := .src 1, b := .src 1, c := .src 1 }
  | 0xE | 0xF => { d := .mrg, a := .src 1, b := .src 1, c := codeBit f 6, ms := 7 }
  | _ => { d := .dst 1, a := .src 1, b := .src 1 }

/-- A class 0x3 word (Tables 5.5 and 5.7). -/
def sig3 (o : Nat) (f : Fields) : Sig :=
  match o with
  | 0x0 | 0x1 => { d := .dst 2, a := .src 2, b := .src 2 }
  | 0x2 | 0x3 => { d := .dst 2, a := .src 2, b := countB f, ms := 3 }
  | 0x4 => Sig.long (.dst 1)
  | 0x5 => Sig.imm (.dst 1) (.src 1) (f.imm18.toNat / 65536 != 0)
  | 0x6 => { d := .dst 1, a := .src 1 }
  | 0x7 => { d := .dst 4, a := .src 4, b := .src 1, ms := 3 }
  | 0x8 | 0x9 => { d := .dst 4, a := .src 4, b := .src 1 }
  | 0xA => { d := .dst 1, a := .src 4, ms := 15 }
  | 0xB => { d := .mrg, a := .src 4, b := .src 1, c := codeBit f 5, ms := 15 }
  | 0xC => { d := .dst 2, a := .src 4 }
  | 0xD =>
    let n := f.imm18.toNat
    Sig.imm (.dst 1) .zero (n / 512 != 0 || n % 256 > 16 || (n / 256 % 2 == 1 && n % 256 != 13))
  | 0xE => { d := .dst 1, a := .src 1, ms := 3 }
  | _ => { d := .dst 1, ms := 15 }

/-- A class 0x4 word (Table 6.2). -/
def sig4 (o : Nat) (f : Fields) : Sig :=
  match o with
  | 0x3 | 0x6 => { d := .dst 1, a := .src 1, b := .src 1, c := .src 1, ms := 15 }
  | 0x4 | 0x5 => { d := .dst 1, a := .src 1, b := .src 1 }
  | 0x7 => { d := .mrg, a := .src 1, b := .src 1, c := .code true }
  | 0x8 => { d := .dst 1, a := .src 1, b := if f.c = 3 ∨ f.c = 4 then .zero else .src 1, c := codeC f 5 }
  | 0x9 => { d := .dst 1, a := .src 1 }
  | 0xA => { d := .dst 1, a := .src 1, ms := 7 }
  | 0xB => { d := .dst 1, a := .src 1, b := .code (f.b.toNat < 2), ms := 7 }
  | 0xC => { d := .dst 1, a := .src 1, b := .code (f.b.toNat < 2), ms := 15 }
  | 0xE | 0xF => { d := .dst 2, a := .src 2, b := .src 2 }
  | _ => { d := .dst 1, a := .src 1, b := .src 1, ms := 15 }

/-- A class 0x5 word (Table 6.6). -/
def sig5 (o : Nat) (f : Fields) : Sig :=
  match o with
  | 0x2 | 0x8 | 0xC | 0xD => { d := .dst 1, a := .src 1, b := .src 1, c := .src 1, ms := 15 }
  | 0x3 | 0x4 | 0x9 | 0xA | 0xB => { d := .dst 1, a := .src 1, b := .src 1 }
  | 0x5 => { d := .mrg, a := .src 1, b := .src 1, c := .code (f.bit < 31) }
  | 0xE | 0xF =>
    { d := .dst 1, a := .src 1, b := if f.c = 0 then .src 1 else .zero, c := codeC f 3, ms := if f.c = 0 then 15 else 1 }
  | _ => { d := .dst 1, a := .src 1, b := .src 1, ms := 15 }

/-- A class 0x6 word (Table 7.2). -/
def sig6 (o : Nat) (f : Fields) : Sig :=
  match o with
  | 0x0 | 0x1 => { d := .mrg, a := .src 1, b := .src 1, c := codeC f 4, ms := 15 }
  | 0x2 | 0x3 | 0x7 => { d := .dst 1, a := .src 1, c := codeC f 4 }
  | 0x4 => { d := .mrg, a := .src 1, b := .src 8, c := codeC f 8 }
  | 0x5 => { d := .dst 1, a := .src 1, b := .src 8, c := codeC f 8 }
  | 0x6 => { d := .mrg, a := .src 1, b := .src 1, c := codeC f 2, ms := 15 }
  | 0x8 | 0x9 => { d := .dst 1, a := .src 1, ms := 15 }
  | 0xA => { a := .src 2 }
  | 0xB => { d := .dst 1, ms := 3 }
  | 0xC => { d := .dst 1, a := .src 1, b := .src 1, c := codeC f 3 }
  | 0xD => { d := .dst 1, a := .src 1, c := .code (f.c.toNat < 16 && (f.c.toNat / 8 == 1 || f.c.toNat % 4 < 2)) }
  | 0xE => { d := .dst 1, a := .src 1, b := .src 1, c := codeC f 8, ms := 15 }
  | _ => { d := .dst 1, a := .src 1, c := codeC f 3 }

/-- A class 0x7 word (Table 7.6). -/
def sig7 (o : Nat) (f : Fields) : Sig :=
  match o with
  | 0x0 => { d := .dst 1, a := .src 1, c := codeC f 8, ms := 15 }
  | 0x1 => Sig.memory (.upd 1) true false false 15
  | 0x2 => { d := .dst 1, a := .src 1, ms := 3 }
  | 0x3 => { a := .src 1 }
  | 0x4 => { d := .dst 1, a := .src 1, b := .src 1, ms := 15 }
  | 0x5 => { d := .dst 1, a := .src 1, ms := 15 }
  | 0x6 => { d := .dst 2, a := .src 1, c := codeC f 2, ms := 15 }
  | 0x7 => { d := .dst 2, a := .src 1 }
  | 0x8 => { d := .dst 1, a := .src 1, b := .src 1, c := codeC f 3 }
  | 0x9 => { d := .dst 1, a := .src 1, b := .src 1 }
  | 0xA => { d := .dst 1, a := .src 1, b := .src 1, c := .src 1 }
  | 0xB => { d := .dst 1, a := .src 1 }
  | 0xC => { d := .dst 1, a := .src 1, b := .src 1, ms := 3 }
  | 0xD | 0xE => { d := .dst 1, a := .src 2 }
  | _ => { a := .src 1 }

/-- A class 0x8 word (Table 8.1). -/
def sig8 (o : Nat) (f : Fields) : Sig :=
  match o with
  | 0x0 => { d := .dst 1, a := .src 1, b := .src 1, c := .src 1 }
  | 0x1 | 0x2 | 0x3 => { d := .dst 1, a := .src 1, b := countB f, c := .src 1, ms := 3 }
  | 0x4 | 0x5 => { d := .mrg, a := .src 1, b := .code (f.b.toNat < 32), c := codeBit f 1 }
  | 0x6 => { d := .dst 1, a := .src 1, b := .code (f.b.toNat < 32) }
  | 0x7 => { d := .dst 1, a := .src (if f.m = 1 then 2 else 1), ms := 3 }
  | 0x8 => { d := .dst 1, a := .src 1, ms := 3 }
  | 0x9 => { d := .dst 1, a := .src 1, ms := 15 }
  | 0xA => { d := .dst 1, a := .src 1, ms := 7 }
  | 0xB => { d := .dst 1, a := .src 1, ms := 3 }
  | 0xC => if f.m.toNat < 2 then { d := .dst 2, a := .src 2, ms := 7 } else { d := .dst 1, a := .src 1, ms := 7 }
  | 0xD => { d := .dst 1, a := .src 1, c := codeC f 2 }
  | 0xE => { d := .dst 1, a := .src 1, c := codeC f 2, ms := 7 }
  | _ => { d := .mrg, c := codeBit f 1 }

/-- A class 0x9 word (Table 9.2). -/
def sig9 (o : Nat) (f : Fields) : Sig :=
  match o with
  | 0x0 | 0x1 | 0x2 | 0x5 => Sig.memory (.dst 1) true false false 15
  | 0x3 => Sig.memory (.dst 2) true false false 15
  | 0x4 => Sig.memory (.dst 4) true false false 15
  | 0x6 => Sig.memory .zero false false false 15
  | 0x7 => Sig.memory (.dst 1) true true false 15
  | 0x8 => Sig.memory (.dst 2) true true false 15
  | 0x9 => { d := .tdst }
  | 0xA => { d := .dst 2, a := .src 1 }
  | 0xB => { d := .dst 1, a := .src 1 }
  | 0xC => { d := .dst 2, a := .tsrc, b := if f.m = 1 then .zero else .tsrc, ms := 3 }
  | 0xD =>
    match f.m.toNat with
    | 0 => { d := .tdst, a := .tsrc, ms := 15 }
    | 1 => { d := .dst 2, a := .tsrc, ms := 15 }
    | 2 => { d := .dst 2, a := .tpeek, ms := 15 }
    | _ => { d := .tdst, a := .src 2, ms := 15 }
  | 0xE => { a := .tsrc, b := .src 1, ms := 3 }
  | _ =>
    if f.cond < 6 then { d := .mrg, a := .tsrc, b := .tsrc, c := .code true }
    else { d := .mrg, a := if f.cond < 9 then .tpeek else .tsrc, c := codeBit f 10 }

/-- The operand registers an atomic names from x[B] on: the offset, then the operands (Table 11.1). -/
def atomicRegs (o m : Nat) : Nat :=
  match o with
  | 0x8 => if m = 3 then 3 else 2
  | 0xB => 3
  | 0xC => 5
  | 0xD => if m < 2 then 2 else 3
  | _ => 2

/-- Whether an atomic returns a pair (R227). -/
def atomicPair (o m : Nat) : Bool := (o == 0x8 && m == 3) || o == 0xC || (o == 0xD && m ≥ 2)

/-- A class 0xA word (Table 11.1, R227). -/
def sigA (o : Nat) (f : Fields) : Sig :=
  match o with
  | 0x0 | 0x1 | 0x2 | 0x5 => Sig.memory (.src 1) true true true 15
  | 0x3 | 0x6 => Sig.memory (.src 2) true true true 15
  | 0x4 => Sig.memory (.src 4) true true true 15
  | 0x7 => Sig.memory .zero true true true 15
  | 0xF => {}
  | _ =>
    { d := .dst (if atomicPair o f.m.toNat then 2 else 1), a := .cap 1, b := .srcs (atomicRegs o f.m.toNat),
      mem := some (true, true, false), bad := f.b = 0,
      ms := if o = 0xB ∨ o = 0xC then 1 else if o = 0xE then 3 else 15 }

/-- A class 0xB word (Table 12.1). -/
def sigB (o : Nat) (f : Fields) : Sig :=
  match o with
  | 0x0 => { mem := some (true, true, false), ms := 7 }
  | 0x1 => Sig.imm .zero .zero (f.imm18.toNat / 65536 != 0)
  | 0x2 | 0x4 => Sig.memory (.src 1) true true false
  | 0x3 | 0x5 => Sig.memory (.dst 1) true true false
  | 0x6 | 0x7 | 0x8 | 0x9 => { d := .dst 1 }
  | 0xA => Sig.memory (.src 1) true true true 3
  | 0xB => Sig.memory (.upd 1) true true false 15
  | 0xC => { a := .src 1 }
  | 0xD => {}
  | 0xE => { a := .src 1, b := .src 1, ms := 15 }
  | _ => { d := .dst 1, a := .src 1, ms := 15 }

/-- A class 0xC word (Table 16.1, R283). -/
def sigC (o : Nat) (f : Fields) : Sig :=
  match o with
  | 0x0 | 0x4 => { d := .dst 1, a := .cap 1, b := .block 4, mem := some (true, true, false), ms := 15 }
  | 0x1 | 0x5 => { d := .dst 1, a := .cap 1, b := .block 4, mem := some (true, true, true), ms := 15 }
  | 0x2 => { d := .dst 1, b := .block 4, mem := some (true, true, false), ms := 15 }
  | 0x3 => { d := .dst 1, a := .cap 2, b := .block 4, mem := some (true, true, true), ms := 15 }
  | 0x6 => { d := .dst 1, a := .src 1, b := .src 4, c := .src 1 }
  | 0x7 | 0x9 => { a := .src 1 }
  | 0x8 => { d := .dst 1, a := .src 1 }
  | 0xA => { d := .mrg, a := .src 1, c := codeBit f 1 }
  | 0xB => { a := if f.m = 1 then .zero else .src 1, ms := 3 }
  | 0xE => Sig.memory (.upd 1) true false false
  | _ => Sig.memory (.dst 1) true false false

/-- A class 0xD word (Table 18.2). -/
def sigD (o : Nat) (f : Fields) : Sig :=
  match o with
  | 0x0 => { d := .dst 1, a := .src 1, b := if f.m = 2 then .src 1 else .zero, ms := 7 }
  | 0x1 => { a := .src 1, ms := 3 }
  | 0x2 => { d := .dst 1, a := .src 1, b := .src 2 }
  | 0x3 | 0x7 => { a := .src 1 }
  | 0x4 | 0x5 => Sig.memory (.upd 1) true false false 15
  | 0x6 => Sig.memory (.upd 1) true true true 15
  | 0x8 => { d := .dst 1, a := .src 1, b := .src 1, c := .src 1 }
  | 0x9 => { d := .dst 1, a := if f.a = 0 then .src 1 else .src 4, b := .block 4 }
  | 0xA => { d := .dst 1, a := .src 1, b := .src 1 }
  | 0xB => { a := .src 1, b := .src 1, c := .src 1 }
  | 0xC => Sig.memory (.src 1) true false false 3
  | 0xD => { d := if f.m = 0 then .tdst else .dst 1, a := .src 1, ms := 7 }
  | 0xE => { a := if f.m = 1 then .zero else .src 1, ms := 3 }
  | _ => Sig.imm .zero .zero (f.imm18.toNat / 4 != 0)

/-- A class 0xE word (Table 20.1). -/
def sigE (o : Nat) (f : Fields) : Sig :=
  match o with
  | 0x0 | 0x1 => Sig.memory (.dst 1) true false false
  | 0x2 => { d := .dst 1, a := .src 1, ms := 15 }
  | 0x3 => Sig.imm (.dst 1) .zero (f.imm18.toNat / 8 != 0)
  | 0x5 | 0xD => { a := .src 1 }
  | 0x7 => { d := .dst 1, ms := 15 }
  | 0x8 => { d := .dst 1, a := .src 1 }
  | 0x9 => { d := .dst 1, ms := 7 }
  | 0xA => Sig.imm .zero .zero (f.imm18.toNat / 4 != 0)
  | 0xB => Sig.memory (.upd 1) true false false
  | 0xF => { d := .dst 2 }
  | _ => { d := .dst 1 }

/-- The CSR numbers of Table 21.2. -/
def csrNumbers : List Nat :=
  [0x000, 0x001, 0x002, 0x010, 0x011, 0x012, 0x013, 0x014, 0x015, 0x020, 0x021, 0x022, 0x030, 0x031, 0x040, 0x050,
   0x051, 0x052, 0x053, 0x054, 0x055, 0x056, 0x057, 0x058, 0x059, 0x05A, 0x060, 0x070]

/-- A class 0xF word (Table 21.1). -/
def sigF (o : Nat) (f : Fields) : Sig :=
  match o with
  | 0x0 => {}
  | 0x1 => Sig.imm (.dst 1) .zero (!csrNumbers.contains f.imm18.toNat)
  | 0x2 => Sig.imm .zero (.src 1) (!csrNumbers.contains f.imm18.toNat)
  | 0x3 => { a := if f.m = 1 then .src 2 else .zero, ms := 3 }
  | 0x4 | 0x5 => Sig.memory .zero true false false
  | 0x6 => { d := .dst 1, a := .src 1, ms := 7 }
  | 0x7 => { d := .dst 1, a := if f.m = 1 then .zero else .src 1, ms := 3 }
  | 0x8 | 0x9 => { a := .src 1 }
  | 0xA => { d := .dst 1, a := .src 1, ms := 3 }
  | 0xB => { d := .dst 4, a := .src 1, ms := 7 }
  | 0xC => Sig.memory (.src 2) true false false
  | 0xD => { a := .src 2 }
  | _ => { d := .dst 1, a := .src 1, ms := 3 }

/-- What the fields of a word with opcode `op` name. -/
def sigOf (op : Nat) (f : Fields) : Sig :=
  match op / 16 with
  | 0x0 => sig0 (op % 16) f
  | 0x1 => sig1 (op % 16)
  | 0x2 => sig2 (op % 16) f
  | 0x3 => sig3 (op % 16) f
  | 0x4 => sig4 (op % 16) f
  | 0x5 => sig5 (op % 16) f
  | 0x6 => sig6 (op % 16) f
  | 0x7 => sig7 (op % 16) f
  | 0x8 => sig8 (op % 16) f
  | 0x9 => sig9 (op % 16) f
  | 0xA => sigA (op % 16) f
  | 0xB => sigB (op % 16) f
  | 0xC => sigC (op % 16) f
  | 0xD => sigD (op % 16) f
  | 0xE => sigE (op % 16) f
  | _ => sigF (op % 16) f

/-- The general registers that a field with value `v` names. -/
def Role.regs (r : Role) (v : Nat) : List Nat :=
  match r with
  | .src n | .srcs n | .block n | .dst n | .upd n => List.range' v n
  | .mrg => [v]
  | .cap n => List.range' (4 * v) (4 * n)
  | _ => []

/-- The general registers that a field reads. -/
def Role.reads (r : Role) (v : Nat) : List Nat :=
  match r with
  | .src _ | .srcs _ | .block _ | .upd _ | .cap _ => r.regs v
  | _ => []

/-- The general registers that a field writes. -/
def Role.writes (r : Role) (v : Nat) : List Nat :=
  match r with
  | .dst _ | .mrg | .upd _ => r.regs v
  | _ => []

/-- The multiple that a field's value must be (R63, R159, R283). -/
def Role.align (r : Role) : Nat :=
  match r with
  | .src n | .block n | .dst n | .upd n => n
  | _ => 1

/-- A field whose bits break R65, R69 or its table. -/
def Role.reserved (r : Role) (v : Nat) : Bool :=
  match r with
  | .zero => v != 0
  | .code ok => !ok
  | .block _ => v == 0
  | .cap _ => v > 127
  | _ => false

/-- The time register that a field names. -/
def Role.time (r : Role) (v : Nat) : List Nat :=
  match r with
  | .tsrc | .tpeek | .tdst => [v]
  | _ => []

/-- Whether the field names general registers that the word reads, so that K may name it (R64). The spec does not say whether the A field of a memory
word, which names a quad by its number, is such a field: the model takes it for one, so that K = A is no bad keep there (log 102). -/
def Role.keepable (r : Role) : Bool :=
  match r with
  | .src _ | .srcs _ | .block _ | .cap _ => true
  | _ => false

/-- The roles of the four fields beside their values. -/
def Sig.fields (g : Sig) (f : Fields) : List (Role × Nat) :=
  [(g.d, f.d.toNat), (g.a, f.a.toNat), (g.b, f.b.toNat), (g.c, if g.mem.isSome then 0 else f.c.toNat)]

/-- The source registers of a word in field order, x0 left out (R74). Of a pair or a quad at 0 that leaves x0 out alone: x1 and those after it are read and occupy
their banks (DESIGN CHOICE, log 112). -/
def readRegs (op : Nat) (f : Fields) : List Nat :=
  (((sigOf op f).fields f).flatMap fun p => p.1.reads p.2).dedup.filter (· ≠ 0)

/-- The time register that a word gives a result: TNOW, TMOV, TMOV.set and MSTAT.time (R218, R221, R318). -/
def timeDst (op : Nat) (f : Fields) : Option Nat := if (sigOf op f).d = .tdst then some f.d.toNat else none

/-- The destination registers of a word, x0 left out (R63). -/
def writeRegs (op : Nat) (f : Fields) : List Nat :=
  (((sigOf op f).fields f).flatMap fun p => p.1.writes p.2).filter (· ≠ 0)

/-- The registers that the field K names holds (R64). Of a field that covers a pair, a quad or an octet they are all that it covers, though the rule speaks of one
register (DESIGN CHOICE, log 111). -/
def keptRegs (op : Nat) (f : Fields) : List Nat :=
  let g := sigOf op f
  match f.k.toNat with
  | 1 => g.a.reads f.a.toNat
  | 2 => g.b.reads f.b.toNat
  | 3 => if g.mem.isSome then [] else g.c.reads f.c.toNat
  | _ => []

/-- The time registers that a word reads and waits for (R98, R194). -/
def waitTimes (op : Nat) (f : Fields) : List Nat :=
  let g := sigOf op f
  (if g.timeT then [f.tTime] else []) ++ ((g.fields f).flatMap fun p => if p.1 = .tsrc then [p.2] else [])

/-- Every time register that a word names. -/
def namedTimes (op : Nat) (f : Fields) : List Nat :=
  let g := sigOf op f
  (if g.timeT then [f.tTime] else []) ++ ((g.fields f).flatMap fun p => p.1.time p.2) ++
    (match g.mem with | some (true, _, _) => [f.time] | _ => [])

/-- The feature bit, 0 to 4, that an opcode needs (Table 3.6). -/
def featureOf (op : Nat) : Option Nat :=
  if op / 16 = 0xD then some 0
  else if op / 16 = 6 ∧ (op % 16 < 8 ∨ op = 0x6A ∨ op = 0x6B ∨ op = 0x6E ∨ op = 0x6F) then some 1
  else if 0x70 ≤ op ∧ op ≤ 0x73 then some 2
  else if 0xC0 ≤ op ∧ op ≤ 0xCB then some 3
  else if 0xE0 ≤ op ∧ op ≤ 0xE2 then some 4
  else none

/-- The opcodes that only a thread in system mode may execute (R77). -/
def privileged (op : Nat) : Bool := 0xF0 ≤ op && op ≤ 0xFE

/-- The opcodes in MEM format (Table 3.8). -/
def isMem (op : Nat) (f : Fields) : Bool := (sigOf op f).mem.isSome

/-- A nonzero reserved field or unused bit (sub-code 1). -/
def reservedBad (op : Nat) (f : Fields) : Bool :=
  let g := sigOf op f
  g.bad || (g.fields f).any (fun p => p.1.reserved p.2) ||
    (match g.mem with
     | some (t, sc, v) => (!t && f.time != 0) || (!sc && f.scope != 0) || (!v && f.v)
     | none => false)

/-- An undefined mode (sub-code 2). -/
def modeBad (op : Nat) (f : Fields) : Bool := !((sigOf op f).ms.testBit f.m.toNat)

/-- A scope code of 9 to 15 in a word that takes a scope (sub-code 3). -/
def scopeBad (op : Nat) (f : Fields) : Bool :=
  match (sigOf op f).mem with
  | some (_, true, _) => f.scope > 8
  | _ => false

/-- A register at or above the kernel's counts (sub-code 8, R63). -/
def rangeBad (op : Nat) (f : Fields) (regs tregs : Nat) : Bool :=
  f.gr.toNat ≥ regs || (((sigOf op f).fields f).any fun p => (p.1.regs p.2).any (· ≥ regs)) ||
    ((namedTimes op f).any (· ≥ tregs))

/-- A misaligned pair, quad or octet (sub-code 9, R63). -/
def alignBad (op : Nat) (f : Fields) : Bool :=
  ((sigOf op f).fields f).any fun p => p.2 % p.1.align != 0

/-- A K that names no general source register (sub-code 11, R64). -/
def keepBad (op : Nat) (f : Fields) : Bool :=
  let g := sigOf op f
  match f.k.toNat with
  | 0 => false
  | 1 => !g.a.keepable
  | 2 => !g.b.keepable
  | _ => g.mem.isSome || !g.c.keepable

/-- The illegal-instruction sub-code that a word's encoding alone decides, the lowest of several, 0 for none (R80): `regs` and
`tregs` are the kernel's counts, `feat` the features of the block's header. -/
def wordCause (op : Nat) (f : Fields) (regs tregs feat : Nat) : Nat :=
  if reservedBad op f then 1
  else if modeBad op f then 2
  else if scopeBad op f then 3
  else if (match featureOf op with | some b => !feat.testBit b | none => false) then 7
  else if rangeBad op f regs tregs then 8
  else if alignBad op f then 9
  else if keepBad op f then 11
  else 0

/-- Whether a word may stand in a pair at all: classes 0x1 to 0x7, not in MEM format. -/
def pairable (op : Nat) (f : Fields) : Bool := 1 ≤ op / 16 && op / 16 ≤ 7 && !isMem op f

/-- The reads of a pair, one for each register and word, but for those the first word keeps (R74). -/
def pairReads (op1 : Nat) (f1 : Fields) (op2 : Nat) (f2 : Fields) : List Nat :=
  readRegs op1 f1 ++ (readRegs op2 f2).filter (fun r => !(keptRegs op1 f1).contains r)

/-- The illegal-pair sub-code of two words, 0 for a legal pair (Table 3.10, R74). `last`: the first word is its block's last. -/
def pairCause (op1 : Nat) (f1 : Fields) (op2 : Nat) (f2 : Fields) (last : Bool) : Nat :=
  let reads := pairReads op1 f1 op2 f2
  if !(pairable op1 f1 && pairable op2 f2) || (op1 / 16 == 7 && op2 / 16 == 7) then 1
  else if (writeRegs op1 f1).any (fun r => (readRegs op2 f2).contains r || f2.gr.toNat == r) then 2
  else if reads.length > 4 then 3
  else if (List.range 4).any (fun k => (reads.filter (fun r => r % 4 == k)).length > 2) then 4
  else if (writeRegs op1 f1).any (fun r => (writeRegs op2 f2).any (fun q => q % 4 == r % 4)) then 5
  else if last || f2.p == 1 then 6
  else 0

end Sys2Proof.Machine
end

