-- ==== Sys2Proof/WellFormed.lean ====
section
/-! DEFINITION. Which instructions are well formed: those whose word some kernel can execute (Table 3.10, R80). -/

namespace Sys2Proof

/-- The opcode and the fields of an instruction; none for a step that the device, the host or physics takes by itself. -/
def Instr.code (i : Instr) : Option (Nat × Fields) :=
  match i with
  | .nop f => some (0x00, f)
  | .bra f => some (0x01, f)
  | .brx f => some (0x02, f)
  | .call f => some (0x03, f)
  | .callx f => some (0x04, f)
  | .ret f => some (0x05, f)
  | .brtLate f => some (0x06, f)
  | .brtDue f => some (0x07, f)
  | .yield f => some (0x08, f)
  | .park f => some (0x09, f)
  | .exit f => some (0x0A, f)
  | .trap f => some (0x0B, f)
  | .bkpt f => some (0x0C, f)
  | .setmode f => some (0x0D, f)
  | .getmode f => some (0x0E, f)
  | .loopn f => some (0x0F, f)
  | .add f => some (0x10, f)
  | .addi f => some (0x11, f)
  | .sub f => some (0x12, f)
  | .mul f => some (0x13, f)
  | .mulhiS32 f => some (0x14, f)
  | .mulhiN32 f => some (0x15, f)
  | .mad f => some (0x16, f)
  | .madwS32 f => some (0x17, f)
  | .madwN32 f => some (0x18, f)
  | .minS32 f => some (0x19, f)
  | .maxS32 f => some (0x1A, f)
  | .minN32 f => some (0x1B, f)
  | .maxN32 f => some (0x1C, f)
  | .addminS32 f => some (0x1D, f)
  | .divS32 f => some (0x1E, f)
  | .divN32 f => some (0x1F, f)
  | .and f => some (0x20, f)
  | .or f => some (0x21, f)
  | .xor f => some (0x22, f)
  | .andn f => some (0x23, f)
  | .logi f => some (0x24, f)
  | .shl f => some (0x25, f)
  | .shrN32 f => some (0x26, f)
  | .shrS32 f => some (0x27, f)
  | .rotl f => some (0x28, f)
  | .popc f => some (0x29, f)
  | .clz f => some (0x2A, f)
  | .bfx f => some (0x2B, f)
  | .bfi f => some (0x2C, f)
  | .sel f => some (0x2D, f)
  | .cmpS32 f => some (0x2E, f)
  | .cmpN32 f => some (0x2F, f)
  | .add64 f => some (0x30, f)
  | .sub64 f => some (0x31, f)
  | .shl64 f => some (0x32, f)
  | .shr64 f => some (0x33, f)
  | .movi f => some (0x34, f)
  | .movh f => some (0x35, f)
  | .mov f => some (0x36, f)
  | .cinc f => some (0x37, f)
  | .csetb f => some (0x38, f)
  | .cperm f => some (0x39, f)
  | .cget f => some (0x3A, f)
  | .ctest f => some (0x3B, f)
  | .caddr f => some (0x3C, f)
  | .sread f => some (0x3D, f)
  | .crange f => some (0x3E, f)
  | .idx f => some (0x3F, f)
  | .fadd f => some (0x40, f)
  | .fsub f => some (0x41, f)
  | .fmul f => some (0x42, f)
  | .ffma f => some (0x43, f)
  | .fmin f => some (0x44, f)
  | .fmax f => some (0x45, f)
  | .faddmin f => some (0x46, f)
  | .fcmp f => some (0x47, f)
  | .fsgn f => some (0x48, f)
  | .fclass f => some (0x49, f)
  | .frnd f => some (0x4A, f)
  | .fcvti f => some (0x4B, f)
  | .itof f => some (0x4C, f)
  | .fscale f => some (0x4D, f)
  | .fmaxi f => some (0x4E, f)
  | .fmini f => some (0x4F, f)
  | .hadd2 f => some (0x50, f)
  | .hmul2 f => some (0x51, f)
  | .hfma2 f => some (0x52, f)
  | .hmin2 f => some (0x53, f)
  | .hmax2 f => some (0x54, f)
  | .hcmp2 f => some (0x55, f)
  | .badd2 f => some (0x56, f)
  | .bmul2 f => some (0x57, f)
  | .bfma2 f => some (0x58, f)
  | .bmin2 f => some (0x59, f)
  | .bmax2 f => some (0x5A, f)
  | .hmaxi f => some (0x5B, f)
  | .hdot2 f => some (0x5C, f)
  | .bdot2 f => some (0x5D, f)
  | .hcvt f => some (0x5E, f)
  | .bcvt f => some (0x5F, f)
  | .cvtE4 f => some (0x60, f)
  | .cvtE5 f => some (0x61, f)
  | .unpkE4 f => some (0x62, f)
  | .unpkE5 f => some (0x63, f)
  | .qntC4 f => some (0x64, f)
  | .dqC4 f => some (0x65, f)
  | .cvtI8 f => some (0x66, f)
  | .unpkI8 f => some (0x67, f)
  | .cvtBf f => some (0x68, f)
  | .cvtHf f => some (0x69, f)
  | .srseed f => some (0x6A, f)
  | .srdraw f => some (0x6B, f)
  | .pack f => some (0x6C, f)
  | .unpk f => some (0x6D, f)
  | .scaleE8 f => some (0x6E, f)
  | .blkexp f => some (0x6F, f)
  | .crv f => some (0x70, f)
  | .crvld f => some (0x71, f)
  | .crvrd f => some (0x72, f)
  | .crvclr f => some (0x73, f)
  | .fdiv f => some (0x74, f)
  | .fsqrt f => some (0x75, f)
  | .frred f => some (0x76, f)
  | .fxtr f => some (0x77, f)
  | .crc32c f => some (0x78, f)
  | .mix32 f => some (0x79, f)
  | .byteperm f => some (0x7A, f)
  | .brev f => some (0x7B, f)
  | .fns f => some (0x7C, f)
  | .popc64 f => some (0x7D, f)
  | .clz64 f => some (0x7E, f)
  | .digest f => some (0x7F, f)
  | .shflIdx f => some (0x80, f)
  | .shflUp f => some (0x81, f)
  | .shflDn f => some (0x82, f)
  | .shflXor f => some (0x83, f)
  | .voteAny f => some (0x84, f)
  | .voteAll f => some (0x85, f)
  | .ballot f => some (0x86, f)
  | .matchW f => some (0x87, f)
  | .redAdd f => some (0x88, f)
  | .redMm f => some (0x89, f)
  | .redFadd f => some (0x8A, f)
  | .redFmm f => some (0x8B, f)
  | .redMaxi f => some (0x8C, f)
  | .scanAdd f => some (0x8D, f)
  | .scanFadd f => some (0x8E, f)
  | .elect f => some (0x8F, f)
  | .ld8 f => some (0x90, f)
  | .ld16 f => some (0x91, f)
  | .ld32 f => some (0x92, f)
  | .ld64 f => some (0x93, f)
  | .ld128 f => some (0x94, f)
  | .probe f => some (0x95, f)
  | .pref f => some (0x96, f)
  | .lda32 f => some (0x97, f)
  | .lda64 f => some (0x98, f)
  | .tnow f => some (0x99, f)
  | .tsort f => some (0x9A, f)
  | .tmin f => some (0x9B, f)
  | .tdiff f => some (0x9C, f)
  | .tmov f => some (0x9D, f)
  | .tmovGet f => some (0x9D, f)
  | .tmovRaw f => some (0x9D, f)
  | .tmovSet f => some (0x9D, f)
  | .twait f => some (0x9E, f)
  | .tcmp f => some (0x9F, f)
  | .st8 f => some (0xA0, f)
  | .st16 f => some (0xA1, f)
  | .st32 f => some (0xA2, f)
  | .st64 f => some (0xA3, f)
  | .st128 f => some (0xA4, f)
  | .stl32 f => some (0xA5, f)
  | .stl64 f => some (0xA6, f)
  | .stz f => some (0xA7, f)
  | .aadd f => some (0xA8, f)
  | .amm f => some (0xA9, f)
  | .alog f => some (0xAA, f)
  | .acas32 f => some (0xAB, f)
  | .acas64 f => some (0xAC, f)
  | .afmm f => some (0xAD, f)
  | .ainc f => some (0xAE, f)
  | .adrain f => some (0xAF, f)
  | .fence f => some (0xB0, f)
  | .waitc f => some (0xB1, f)
  | .barInit f => some (0xB2, f)
  | .barArr f => some (0xB3, f)
  | .barWait f => some (0xB4, f)
  | .barArrw f => some (0xB5, f)
  | .barGrp f => some (0xB6, f)
  | .barClu f => some (0xB7, f)
  | .barDie f => some (0xB8, f)
  | .barGrid f => some (0xB9, f)
  | .flagset f => some (0xBA, f)
  | .flagwait f => some (0xBB, f)
  | .sleep f => some (0xBC, f)
  | .rowsync f => some (0xBD, f)
  | .cntwait f => some (0xBE, f)
  | .cntread f => some (0xBF, f)
  | .copyGt f => some (0xC0, f)
  | .copyTg f => some (0xC1, f)
  | .copyTt f => some (0xC2, f)
  | .copyGg f => some (0xC3, f)
  | .copyGath f => some (0xC4, f)
  | .copyScat f => some (0xC5, f)
  | .tdecl f => some (0xC6, f)
  | .tfree f => some (0xC7, f)
  | .tstate f => some (0xC8, f)
  | .tdrain f => some (0xC9, f)
  | .tready f => some (0xCA, f)
  | .cpcancelTile f => some (0xCB, f)
  | .cpcancelAll f => some (0xCB, f)
  | .pagein f => some (0xCC, f)
  | .pgstat f => some (0xCD, f)
  | .place f => some (0xCE, f)
  | .discard f => some (0xCF, f)
  | .claimSlot f => some (0xD0, f)
  | .claimAcc f => some (0xD0, f)
  | .claimShare f => some (0xD0, f)
  | .release f => some (0xD1, f)
  | .opres f => some (0xD2, f)
  | .opfree f => some (0xD3, f)
  | .cbld f => some (0xD4, f)
  | .slotld f => some (0xD5, f)
  | .slotrd f => some (0xD6, f)
  | .mzero f => some (0xD7, f)
  | .mma f => some (0xD8, f)
  | .mloop f => some (0xD9, f)
  | .accrd f => some (0xDA, f)
  | .accwr f => some (0xDB, f)
  | .mlinkArr f => some (0xDC, f)
  | .mlinkWait f => some (0xDC, f)
  | .mstatTime f => some (0xDD, f)
  | .mstatWait f => some (0xDD, f)
  | .mstatPeek f => some (0xDD, f)
  | .mcancelPass f => some (0xDE, f)
  | .mcancelAll f => some (0xDE, f)
  | .mprio f => some (0xDF, f)
  | .launch f => some (0xE0, f)
  | .launchw f => some (0xE1, f)
  | .cancel f => some (0xE2, f)
  | .splitq f => some (0xE3, f)
  | .cores f => some (0xE4, f)
  | .thrarm f => some (0xE5, f)
  | .thrack f => some (0xE6, f)
  | .budget f => some (0xE7, f)
  | .featq f => some (0xE8, f)
  | .clkq f => some (0xE9, f)
  | .setprio f => some (0xEA, f)
  | .homeq f => some (0xEB, f)
  | .detq f => some (0xEC, f)
  | .rowwake f => some (0xED, f)
  | .prioq f => some (0xEE, f)
  | .cycles f => some (0xEF, f)
  | .sret f => some (0xF0, f)
  | .csrr f => some (0xF1, f)
  | .csrw f => some (0xF2, f)
  | .tlbinvAll f => some (0xF3, f)
  | .tlbinvPage f => some (0xF3, f)
  | .ctxsv f => some (0xF4, f)
  | .ctxld f => some (0xF5, f)
  | .quarAdd f => some (0xF6, f)
  | .quarRem f => some (0xF6, f)
  | .quarGet f => some (0xF6, f)
  | .audcfgSet f => some (0xF7, f)
  | .audcfgGet f => some (0xF7, f)
  | .corhalt f => some (0xF8, f)
  | .corwake f => some (0xF9, f)
  | .pwrgateGate f => some (0xFA, f)
  | .pwrgateWake f => some (0xFA, f)
  | .mcreadLo f => some (0xFB, f)
  | .mcreadHi f => some (0xFB, f)
  | .mcreadPop f => some (0xFB, f)
  | .pteset f => some (0xFC, f)
  | .idle f => some (0xFD, f)
  | .dbgstepStep f => some (0xFE, f)
  | .dbgstepRun f => some (0xFE, f)
  | .yieldBarExpiry _ => none
  | .parkWake _ => none
  | .bookingRetry _ => none
  | .promiseKnown _ => none
  | .firmPromise _ => none
  | .loadDelivery _ => none
  | .brokenPromise _ _ => none
  | .lehrArrival _ => none
  | .lehrApply _ => none
  | .storeCompletionKnown _ => none
  | .storeRetire _ => none
  | .atomicReturn _ => none
  | .porchSend _ _ => none
  | .porchAck _ => none
  | .porchReplay _ => none
  | .porchSeize _ => none
  | .porchPostAck _ _ => none
  | .porchResend _ _ => none
  | .homeLost _ _ => none
  | .storeRefusal _ _ => none
  | .stairTicketPass _ => none
  | .flagMonitorReread _ => none
  | .flagPoll _ => none
  | .hwBarrierRelease _ => none
  | .gridRankRelease _ _ => none
  | .copyUnit _ _ => none
  | .copyComplete _ => none
  | .curveLoadComplete _ => none
  | .cbldComplete _ => none
  | .slotTransferComplete _ => none
  | .engineGrant _ => none
  | .streamLoad _ => none
  | .stepApply _ => none
  | .passComplete _ => none
  | .preemptRequest _ => none
  | .preemptRetry _ => none
  | .contextSave _ => none
  | .groupResume _ _ => none
  | .groupDispatch _ _ => none
  | .groupSpill _ _ => none
  | .groupEnd _ => none
  | .launchStart _ => none
  | .launchComplete _ => none
  | .groupKill _ _ _ => none
  | .damperInterval => none
  | .slewAdmit _ => none
  | .clusterGate _ => none
  | .ratioChange _ => none
  | .clockChange _ => none
  | .pageWalk _ => none
  | .copyOnWrite _ => none
  | .migrationCopy _ => none
  | .migrationCommit _ => none
  | .timeCompare => none
  | .softError _ => none
  | .replayDispatch _ => none
  | .replayTimeout _ => none
  | .replayStall _ _ => none
  | .auditCompare _ _ => none
  | .tiebreak _ _ => none
  | .hostLoad _ _ => none
  | .hostStore _ _ => none
  | .submitGo _ _ => none
  | .tableEntryPort _ _ => none
  | .hostTlbInvalidate _ => none
  | .cowRefusal _ => none
  | .framePoolFill _ _ _ => none
  | .domainModeWrite _ _ => none
  | .clkreq _ => none
  | .hdoor _ => none
  | .fmask _ _ => none
  | .registerWrite _ _ => none
  | .status => none
  | .selftest => none
  | .ident _ => none
  | .fwstage _ => none
  | .sense => none
  | .spdmAttestation _ => none
  | .powerOn _ => none
  | .hbmThermalStop _ _ => none
  | .junctionOvertemp _ _ => none
  | .thermalShutdown => none
  | .linkRetire _ => none
  | .powerOff => none
  | .domainAccess _ _ => none
  | .hostMigrationStart _ _ _ => none
  | .pageinHostRefusal _ _ => none
  | .probePinExpiry _ => none

/-- The value of M that an instruction fixes, where M selects among the instructions of one opcode. -/
def Instr.fixedM (i : Instr) : Option Nat :=
  match i with
  | .tmov _ => some 0
  | .tmovGet _ => some 1
  | .tmovRaw _ => some 2
  | .tmovSet _ => some 3
  | .cpcancelTile _ => some 0
  | .cpcancelAll _ => some 1
  | .claimSlot _ => some 0
  | .claimAcc _ => some 1
  | .claimShare _ => some 2
  | .mlinkArr _ => some 0
  | .mlinkWait _ => some 1
  | .mstatTime _ => some 0
  | .mstatWait _ => some 1
  | .mstatPeek _ => some 2
  | .mcancelPass _ => some 0
  | .mcancelAll _ => some 1
  | .tlbinvAll _ => some 0
  | .tlbinvPage _ => some 1
  | .quarAdd _ => some 0
  | .quarRem _ => some 1
  | .quarGet _ => some 2
  | .audcfgSet _ => some 0
  | .audcfgGet _ => some 1
  | .pwrgateGate _ => some 0
  | .pwrgateWake _ => some 1
  | .mcreadLo _ => some 0
  | .mcreadHi _ => some 1
  | .mcreadPop _ => some 2
  | .dbgstepStep _ => some 0
  | .dbgstepRun _ => some 1
  | _ => none

/-- The checks that a word must pass, each by name (R79, R80). -/
inductive FormError where
  /-- a nonzero reserved field or unused bit (sub-code 1) -/
  | reserved
  /-- an undefined mode, or an M that is not the instruction's own (sub-code 2) -/
  | mode
  /-- a scope code of 9 to 15 (sub-code 3) -/
  | scope
  /-- a register beyond x511 or t15 (sub-code 8) -/
  | range
  /-- a misaligned pair, quad or octet (sub-code 9) -/
  | align
  /-- a bad keep (sub-code 11) -/
  | keep
  deriving DecidableEq, Repr

/-- The first check that an instruction fails; none if it is well formed. -/
def Instr.formError (i : Instr) : Option FormError :=
  match i.code with
  | none => none
  | some (op, f) =>
    if Machine.reservedBad op f then some .reserved
    else if Machine.modeBad op f || (match i.fixedM with | some m => f.m.toNat != m | none => false) then some .mode
    else if Machine.scopeBad op f then some .scope
    else if Machine.rangeBad op f 512 16 then some .range
    else if Machine.alignBad op f then some .align
    else if Machine.keepBad op f then some .keep
    else none

/-- An instruction whose word some kernel can execute as written (R79). A step without a word is well formed. -/
def Instr.WellFormed (i : Instr) : Prop := i.formError = none

end Sys2Proof
end

