-- ==== Sys2Proof/Decode.lean ====
section
/-! DEFINITION. From bits to instructions and back: the fields of a word (Tables 3.1 and 3.2), the opcode map (Table 3.8), a
decoder that is total on any bytes and rejects by name, and the encoder, written from the same tables. -/

namespace Sys2Proof

open Sys2Proof.Machine

/-- The opcode of a word (R61). -/
def opOf (w : Code) : Nat := (w.extractLsb' 56 8).toNat

/-- The fields of a word below its opcode (R61, Table 3.2). -/
def unpack (w : Code) : Fields where
  d := w.extractLsb' 47 9
  a := w.extractLsb' 38 9
  b := w.extractLsb' 29 9
  c := w.extractLsb' 20 9
  k := w.extractLsb' 18 2
  p := w.extractLsb' 17 1
  m := w.extractLsb' 15 2
  gr := w.extractLsb' 6 9
  gb := w.extractLsb' 1 5
  gs := w.extractLsb' 0 1

/-- The word that an opcode and its fields make (R61, Table 3.2). -/
def pack (op : Nat) (f : Fields) : Code :=
  BitVec.ofNat 8 op ++ f.d ++ f.a ++ f.b ++ f.c ++ f.k ++ f.p ++ f.m ++ f.gr ++ f.gb ++ f.gs

/-- The instruction of class 0x0 with low nibble `o` (Table 3.8). -/
def instr0 (o : Nat) (f : Fields) : Option Instr :=
  match o with
  | 0x0 => some (.nop f)
  | 0x1 => some (.bra f)
  | 0x2 => some (.brx f)
  | 0x3 => some (.call f)
  | 0x4 => some (.callx f)
  | 0x5 => some (.ret f)
  | 0x6 => some (.brtLate f)
  | 0x7 => some (.brtDue f)
  | 0x8 => some (.yield f)
  | 0x9 => some (.park f)
  | 0xA => some (.exit f)
  | 0xB => some (.trap f)
  | 0xC => some (.bkpt f)
  | 0xD => some (.setmode f)
  | 0xE => some (.getmode f)
  | 0xF => some (.loopn f)
  | _ => none

/-- The instruction of class 0x1 with low nibble `o` (Table 3.8). -/
def instr1 (o : Nat) (f : Fields) : Option Instr :=
  match o with
  | 0x0 => some (.add f)
  | 0x1 => some (.addi f)
  | 0x2 => some (.sub f)
  | 0x3 => some (.mul f)
  | 0x4 => some (.mulhiS32 f)
  | 0x5 => some (.mulhiN32 f)
  | 0x6 => some (.mad f)
  | 0x7 => some (.madwS32 f)
  | 0x8 => some (.madwN32 f)
  | 0x9 => some (.minS32 f)
  | 0xA => some (.maxS32 f)
  | 0xB => some (.minN32 f)
  | 0xC => some (.maxN32 f)
  | 0xD => some (.addminS32 f)
  | 0xE => some (.divS32 f)
  | 0xF => some (.divN32 f)
  | _ => none

/-- The instruction of class 0x2 with low nibble `o` (Table 3.8). -/
def instr2 (o : Nat) (f : Fields) : Option Instr :=
  match o with
  | 0x0 => some (.and f)
  | 0x1 => some (.or f)
  | 0x2 => some (.xor f)
  | 0x3 => some (.andn f)
  | 0x4 => some (.logi f)
  | 0x5 => some (.shl f)
  | 0x6 => some (.shrN32 f)
  | 0x7 => some (.shrS32 f)
  | 0x8 => some (.rotl f)
  | 0x9 => some (.popc f)
  | 0xA => some (.clz f)
  | 0xB => some (.bfx f)
  | 0xC => some (.bfi f)
  | 0xD => some (.sel f)
  | 0xE => some (.cmpS32 f)
  | 0xF => some (.cmpN32 f)
  | _ => none

/-- The instruction of class 0x3 with low nibble `o` (Table 3.8). -/
def instr3 (o : Nat) (f : Fields) : Option Instr :=
  match o with
  | 0x0 => some (.add64 f)
  | 0x1 => some (.sub64 f)
  | 0x2 => some (.shl64 f)
  | 0x3 => some (.shr64 f)
  | 0x4 => some (.movi f)
  | 0x5 => some (.movh f)
  | 0x6 => some (.mov f)
  | 0x7 => some (.cinc f)
  | 0x8 => some (.csetb f)
  | 0x9 => some (.cperm f)
  | 0xA => some (.cget f)
  | 0xB => some (.ctest f)
  | 0xC => some (.caddr f)
  | 0xD => some (.sread f)
  | 0xE => some (.crange f)
  | 0xF => some (.idx f)
  | _ => none

/-- The instruction of class 0x4 with low nibble `o` (Table 3.8). -/
def instr4 (o : Nat) (f : Fields) : Option Instr :=
  match o with
  | 0x0 => some (.fadd f)
  | 0x1 => some (.fsub f)
  | 0x2 => some (.fmul f)
  | 0x3 => some (.ffma f)
  | 0x4 => some (.fmin f)
  | 0x5 => some (.fmax f)
  | 0x6 => some (.faddmin f)
  | 0x7 => some (.fcmp f)
  | 0x8 => some (.fsgn f)
  | 0x9 => some (.fclass f)
  | 0xA => some (.frnd f)
  | 0xB => some (.fcvti f)
  | 0xC => some (.itof f)
  | 0xD => some (.fscale f)
  | 0xE => some (.fmaxi f)
  | 0xF => some (.fmini f)
  | _ => none

/-- The instruction of class 0x5 with low nibble `o` (Table 3.8). -/
def instr5 (o : Nat) (f : Fields) : Option Instr :=
  match o with
  | 0x0 => some (.hadd2 f)
  | 0x1 => some (.hmul2 f)
  | 0x2 => some (.hfma2 f)
  | 0x3 => some (.hmin2 f)
  | 0x4 => some (.hmax2 f)
  | 0x5 => some (.hcmp2 f)
  | 0x6 => some (.badd2 f)
  | 0x7 => some (.bmul2 f)
  | 0x8 => some (.bfma2 f)
  | 0x9 => some (.bmin2 f)
  | 0xA => some (.bmax2 f)
  | 0xB => some (.hmaxi f)
  | 0xC => some (.hdot2 f)
  | 0xD => some (.bdot2 f)
  | 0xE => some (.hcvt f)
  | 0xF => some (.bcvt f)
  | _ => none

/-- The instruction of class 0x6 with low nibble `o` (Table 3.8). -/
def instr6 (o : Nat) (f : Fields) : Option Instr :=
  match o with
  | 0x0 => some (.cvtE4 f)
  | 0x1 => some (.cvtE5 f)
  | 0x2 => some (.unpkE4 f)
  | 0x3 => some (.unpkE5 f)
  | 0x4 => some (.qntC4 f)
  | 0x5 => some (.dqC4 f)
  | 0x6 => some (.cvtI8 f)
  | 0x7 => some (.unpkI8 f)
  | 0x8 => some (.cvtBf f)
  | 0x9 => some (.cvtHf f)
  | 0xA => some (.srseed f)
  | 0xB => some (.srdraw f)
  | 0xC => some (.pack f)
  | 0xD => some (.unpk f)
  | 0xE => some (.scaleE8 f)
  | 0xF => some (.blkexp f)
  | _ => none

/-- The instruction of class 0x7 with low nibble `o` (Table 3.8). -/
def instr7 (o : Nat) (f : Fields) : Option Instr :=
  match o with
  | 0x0 => some (.crv f)
  | 0x1 => some (.crvld f)
  | 0x2 => some (.crvrd f)
  | 0x3 => some (.crvclr f)
  | 0x4 => some (.fdiv f)
  | 0x5 => some (.fsqrt f)
  | 0x6 => some (.frred f)
  | 0x7 => some (.fxtr f)
  | 0x8 => some (.crc32c f)
  | 0x9 => some (.mix32 f)
  | 0xA => some (.byteperm f)
  | 0xB => some (.brev f)
  | 0xC => some (.fns f)
  | 0xD => some (.popc64 f)
  | 0xE => some (.clz64 f)
  | 0xF => some (.digest f)
  | _ => none

/-- The instruction of class 0x8 with low nibble `o` (Table 3.8). -/
def instr8 (o : Nat) (f : Fields) : Option Instr :=
  match o with
  | 0x0 => some (.shflIdx f)
  | 0x1 => some (.shflUp f)
  | 0x2 => some (.shflDn f)
  | 0x3 => some (.shflXor f)
  | 0x4 => some (.voteAny f)
  | 0x5 => some (.voteAll f)
  | 0x6 => some (.ballot f)
  | 0x7 => some (.matchW f)
  | 0x8 => some (.redAdd f)
  | 0x9 => some (.redMm f)
  | 0xA => some (.redFadd f)
  | 0xB => some (.redFmm f)
  | 0xC => some (.redMaxi f)
  | 0xD => some (.scanAdd f)
  | 0xE => some (.scanFadd f)
  | 0xF => some (.elect f)
  | _ => none

/-- The instruction of class 0x9 with low nibble `o` (Table 3.8). Where M selects the instruction, a value of M that none has answers none. -/
def instr9 (o : Nat) (f : Fields) : Option Instr :=
  match o with
  | 0x0 => some (.ld8 f)
  | 0x1 => some (.ld16 f)
  | 0x2 => some (.ld32 f)
  | 0x3 => some (.ld64 f)
  | 0x4 => some (.ld128 f)
  | 0x5 => some (.probe f)
  | 0x6 => some (.pref f)
  | 0x7 => some (.lda32 f)
  | 0x8 => some (.lda64 f)
  | 0x9 => some (.tnow f)
  | 0xA => some (.tsort f)
  | 0xB => some (.tmin f)
  | 0xC => some (.tdiff f)
  | 0xD => if f.m = 0 then some (.tmov f) else if f.m = 1 then some (.tmovGet f) else if f.m = 2 then some (.tmovRaw f) else if f.m = 3 then some (.tmovSet f) else none
  | 0xE => some (.twait f)
  | 0xF => some (.tcmp f)
  | _ => none

/-- The instruction of class 0xA with low nibble `o` (Table 3.8). Where M selects the instruction, a value of M that none has answers none. -/
def instrA (o : Nat) (f : Fields) : Option Instr :=
  match o with
  | 0x0 => some (.st8 f)
  | 0x1 => some (.st16 f)
  | 0x2 => some (.st32 f)
  | 0x3 => some (.st64 f)
  | 0x4 => some (.st128 f)
  | 0x5 => some (.stl32 f)
  | 0x6 => some (.stl64 f)
  | 0x7 => some (.stz f)
  | 0x8 => some (.aadd f)
  | 0x9 => some (.amm f)
  | 0xA => some (.alog f)
  | 0xB => some (.acas32 f)
  | 0xC => some (.acas64 f)
  | 0xD => some (.afmm f)
  | 0xE => some (.ainc f)
  | 0xF => some (.adrain f)
  | _ => none

/-- The instruction of class 0xB with low nibble `o` (Table 3.8). Where M selects the instruction, a value of M that none has answers none. -/
def instrB (o : Nat) (f : Fields) : Option Instr :=
  match o with
  | 0x0 => some (.fence f)
  | 0x1 => some (.waitc f)
  | 0x2 => some (.barInit f)
  | 0x3 => some (.barArr f)
  | 0x4 => some (.barWait f)
  | 0x5 => some (.barArrw f)
  | 0x6 => some (.barGrp f)
  | 0x7 => some (.barClu f)
  | 0x8 => some (.barDie f)
  | 0x9 => some (.barGrid f)
  | 0xA => some (.flagset f)
  | 0xB => some (.flagwait f)
  | 0xC => some (.sleep f)
  | 0xD => some (.rowsync f)
  | 0xE => some (.cntwait f)
  | 0xF => some (.cntread f)
  | _ => none

/-- The instruction of class 0xC with low nibble `o` (Table 3.8). Where M selects the instruction, a value of M that none has answers none. -/
def instrC (o : Nat) (f : Fields) : Option Instr :=
  match o with
  | 0x0 => some (.copyGt f)
  | 0x1 => some (.copyTg f)
  | 0x2 => some (.copyTt f)
  | 0x3 => some (.copyGg f)
  | 0x4 => some (.copyGath f)
  | 0x5 => some (.copyScat f)
  | 0x6 => some (.tdecl f)
  | 0x7 => some (.tfree f)
  | 0x8 => some (.tstate f)
  | 0x9 => some (.tdrain f)
  | 0xA => some (.tready f)
  | 0xB => if f.m = 0 then some (.cpcancelTile f) else if f.m = 1 then some (.cpcancelAll f) else none
  | 0xC => some (.pagein f)
  | 0xD => some (.pgstat f)
  | 0xE => some (.place f)
  | 0xF => some (.discard f)
  | _ => none

/-- The instruction of class 0xD with low nibble `o` (Table 3.8). Where M selects the instruction, a value of M that none has answers none. -/
def instrD (o : Nat) (f : Fields) : Option Instr :=
  match o with
  | 0x0 => if f.m = 0 then some (.claimSlot f) else if f.m = 1 then some (.claimAcc f) else if f.m = 2 then some (.claimShare f) else none
  | 0x1 => some (.release f)
  | 0x2 => some (.opres f)
  | 0x3 => some (.opfree f)
  | 0x4 => some (.cbld f)
  | 0x5 => some (.slotld f)
  | 0x6 => some (.slotrd f)
  | 0x7 => some (.mzero f)
  | 0x8 => some (.mma f)
  | 0x9 => some (.mloop f)
  | 0xA => some (.accrd f)
  | 0xB => some (.accwr f)
  | 0xC => if f.m = 0 then some (.mlinkArr f) else if f.m = 1 then some (.mlinkWait f) else none
  | 0xD => if f.m = 0 then some (.mstatTime f) else if f.m = 1 then some (.mstatWait f) else if f.m = 2 then some (.mstatPeek f) else none
  | 0xE => if f.m = 0 then some (.mcancelPass f) else if f.m = 1 then some (.mcancelAll f) else none
  | 0xF => some (.mprio f)
  | _ => none

/-- The instruction of class 0xE with low nibble `o` (Table 3.8). Where M selects the instruction, a value of M that none has answers none. -/
noncomputable def instrE (o : Nat) (f : Fields) : Option Instr :=
  match o with
  | 0x0 => some (.launch f)
  | 0x1 => some (.launchw f)
  | 0x2 => some (.cancel f)
  | 0x3 => some (.splitq f)
  | 0x4 => some (.cores f)
  | 0x5 => some (.thrarm f)
  | 0x6 => some (.thrack f)
  | 0x7 => some (.budget f)
  | 0x8 => some (.featq f)
  | 0x9 => some (.clkq f)
  | 0xA => some (.setprio f)
  | 0xB => some (.homeq f)
  | 0xC => some (.detq f)
  | 0xD => some (.rowwake f)
  | 0xE => some (.prioq f)
  | 0xF => some (.cycles f)
  | _ => none

/-- The instruction of class 0xF with low nibble `o` (Table 3.8). Where M selects the instruction, a value of M that none has answers none. -/
noncomputable def instrF (o : Nat) (f : Fields) : Option Instr :=
  match o with
  | 0x0 => some (.sret f)
  | 0x1 => some (.csrr f)
  | 0x2 => some (.csrw f)
  | 0x3 => if f.m = 0 then some (.tlbinvAll f) else if f.m = 1 then some (.tlbinvPage f) else none
  | 0x4 => some (.ctxsv f)
  | 0x5 => some (.ctxld f)
  | 0x6 => if f.m = 0 then some (.quarAdd f) else if f.m = 1 then some (.quarRem f) else if f.m = 2 then some (.quarGet f) else none
  | 0x7 => if f.m = 0 then some (.audcfgSet f) else if f.m = 1 then some (.audcfgGet f) else none
  | 0x8 => some (.corhalt f)
  | 0x9 => some (.corwake f)
  | 0xA => if f.m = 0 then some (.pwrgateGate f) else if f.m = 1 then some (.pwrgateWake f) else none
  | 0xB => if f.m = 0 then some (.mcreadLo f) else if f.m = 1 then some (.mcreadHi f) else if f.m = 2 then some (.mcreadPop f) else none
  | 0xC => some (.pteset f)
  | 0xD => some (.idle f)
  | 0xE => if f.m = 0 then some (.dbgstepStep f) else if f.m = 1 then some (.dbgstepRun f) else none
  | _ => none

/-- The instruction of an opcode (R76); none for 0xFF, which is never executed (R77), and where M selects among instructions and
selects none. -/
noncomputable def instrOf (op : Nat) (f : Fields) : Option Instr :=
  match op / 16 with
  | 0x0 => instr0 (op % 16) f
  | 0x1 => instr1 (op % 16) f
  | 0x2 => instr2 (op % 16) f
  | 0x3 => instr3 (op % 16) f
  | 0x4 => instr4 (op % 16) f
  | 0x5 => instr5 (op % 16) f
  | 0x6 => instr6 (op % 16) f
  | 0x7 => instr7 (op % 16) f
  | 0x8 => instr8 (op % 16) f
  | 0x9 => instr9 (op % 16) f
  | 0xA => instrA (op % 16) f
  | 0xB => instrB (op % 16) f
  | 0xC => instrC (op % 16) f
  | 0xD => instrD (op % 16) f
  | 0xE => instrE (op % 16) f
  | 0xF => instrF (op % 16) f
  | _ => none

/-- Why bytes are not an instruction. -/
inductive Reject where
  /-- fewer than eight bytes -/
  | short
  /-- OP 0xFF, a header word (R77) -/
  | header
  /-- a word that no kernel can execute as written: the illegal-instruction sub-code of Table 3.10 (R79) -/
  | illegal (subcode : Nat)
  deriving DecidableEq, Repr

/-- The instruction of one word. A word that is illegal whatever the kernel is rejected by its sub-code; what depends on a
kernel's counts and features (sub-codes 7 and 8) is checked where the word issues. -/
noncomputable def decodeWord (w : Code) : Except Reject Instr :=
  let op := opOf w
  let f := unpack w
  if op = 0xFF then .error .header
  else
    match wordCause op f 512 16 31 with
    | 0 =>
      match instrOf op f with
      | some i => .ok i
      | none => .error (.illegal 2)
    | n => .error (.illegal n)

/-- The word of eight bytes, the first lowest (R5). -/
def wordOfBytes (bs : List Byte) : Nat := bs.foldr (fun b n => n * 256 + b.toNat) 0

/-- Decode any bytes: the instruction of the first eight, and the rest. -/
noncomputable def decode (bs : List Byte) : Except Reject (Instr × List Byte) :=
  if bs.length < 8 then .error .short
  else
    match decodeWord (BitVec.ofNat 64 (wordOfBytes (bs.take 8))) with
    | .ok i => .ok (i, bs.drop 8)
    | .error e => .error e

/-- The bytes of a word in memory (R5). -/
def bytesOfWord (w : Code) : List Byte := (List.range 8).map fun k => w.extractLsb' (8 * k) 8

/-- The word of an instruction; 0 for a step that has no word. -/
def encode (i : Instr) : Code :=
  match i.code with
  | some (op, f) => pack op f
  | none => 0

/-- The instruction that the decoder reads from a word of `nbits` bits with value `w`, every higher bit 0. -/
noncomputable def decodeTableWord (nbits w : Nat) : Option Instr :=
  match decode (bytesOfWord (BitVec.ofNat 64 (w % 2 ^ nbits))) with
  | .ok (i, _) => some i
  | .error _ => none

end Sys2Proof
end

