-- ==== Sys2Proof/Config.lean ====
section
/-! DEFINITION. What an implementation fixes: the counts of the full configuration (R1, R7, R13, R18), and the values that
the spec leaves open, which have no body here, so that nothing can be proved of them. -/

namespace Sys2Proof.Config

/-- Compute dies of the full configuration (R1). -/
def nDies : Nat := 16

/-- Clusters of one die (R7, R13). -/
def clustersPerDie : Nat := 12

/-- Clusters of the package (R1). -/
def nClusters : Nat := 192

/-- Cores of the package (R1). -/
def nCores : Nat := 768

/-- Lanes of a core, the threads of a row (R17). -/
def nLanes : Nat := 32

/-- Launch records of the larder (Table 1.7). -/
def larderSize : Nat := 4096

/-- Bytes of one cluster's SRAM (R13). -/
def sramBytes : Nat := 4194304

/-- Entries of a porch (R236). -/
def porchEntries : Nat := 1024

/-- Lines of a core's L1, 192 KiB (Table 1.2). -/
def l1Lines : Nat := 3072

/-- Words of a core's instruction cache, 64 KiB (Table 1.2). -/
def icacheWords : Nat := 8192

/-- Lines of a base die's memory-side cache, 128 MiB (Table 1.1). -/
def cacheLines : Nat := 2097152

/-- Bytes of die space that locked die allocations may take on each die (R31). -/
def dieSpaceBytes : Nat := 67108864

/-- FREE VALUE (log 8). The ticks by which an estimate lies after its issue; the spec says that how an estimate is formed is
implementation-defined (R206, R297, R318). Nothing constrains it. -/
opaque freeEstimate : Nat → Nat

/-- FREE VALUE (log 9). Which of the sixteen entries of a large page serves a translation when they differ (R390: 'Which one
is used is not defined'). Nothing constrains it. -/
opaque freeSpan : Nat → Fin 16

/-- FREE VALUE (log 10). The virtual address at which the launch maps the private window of an owner into its tenant's space: the spec says
that it does so and gives no address (R385). Nothing constrains it. -/
opaque freeWindow : Nat → Nat → Nat

/-- FREE VALUE (log 89). The bookings that a booking point grants at one tick; at least one (R57, R205). Nothing else constrains it. -/
opaque slotWidth : Nat → Nat

/-- FREE VALUE (log 4). The bytes that the power controller grants a cluster for an interval: the spec says that it sets them within the tenant's budget,
and not how (R354). Nothing else constrains it. -/
opaque freeGrant : Nat → Nat

/-- FREE VALUE (log 12). The bytes of a service port reply or an attestation answer that no rule derives (R429, R430). -/
opaque freeReply : Nat → Word

/-- FREE VALUE (log 12). The words of the measurement of a firmware version (R429): version, word. -/
opaque freeMeasure : Nat → Nat → Word

/-- FREE VALUE (log 12). The words of a signature over the measurement, in answer to a request: 0 Ed25519, 1 ML-DSA-65; version, request, word (R429). -/
opaque freeSignature : Nat → Nat → Nat → Nat → Word

/-- FREE VALUE (log 13). How a sequence of bytes that a soft error has made uncorrectable reads to a host, to which the spec
gives no value (R214 defines only the poison mark). -/
opaque freeByte : Nat → Byte

/-- FREE VALUE (log 22). What the register of a refused atomic receives: the spec gives the refusal no old value (R240). -/
opaque freeOld : Nat → Word

/-- FREE VALUE (log 23). The pseudo-channel of a stack that serves a line: the spec numbers 64 of them and gives no map (R412). -/
opaque freeChannel : Nat → Fin 64

/-- FREE VALUE (log 25). The frame, in units of the page's size, that the host provisions in pooled memory for a PLACE (R399). -/
opaque freePoolFrame : Nat → Nat

/-- FREE VALUE (log 27). The domain-mode bits of a word whose devices every switch reserves slots for (R426): a fact of the domain that
the spec leaves to the installation. -/
opaque slotSupport : Nat → Word

/-- FREE VALUE (log 28). The hash of a line address that spreads traffic over the live links (R425: no hash is given). -/
opaque freeHash : Nat → Nat

end Sys2Proof.Config
end

