-- ==== Sys2Proof/Machine/State.lean ====
section
/-! DEFINITION. The state of the device: everything the spec gives the machine, as plain data. INVENTORY.md lists each piece
with its rule and its value at reset. -/

namespace Sys2Proof.Machine

/-- Why the machine stops. -/
inductive Fault where
  /-- raised by `step` alone, in the safe state (R428), when no input is left that could leave it: nothing but the Dololavy
  service port answers. Safe: the device does nothing more. -/
  | safeState
  /-- raised by `step` alone, while the package has no power, when no input is left that could give it some. Safe: nothing runs. -/
  | noPower
  deriving DecidableEq, Repr

/-- What has no meaning in the model. -/
inductive Refusal where
  /-- raised by an arm of `exec` whose instruction has no meaning yet. Safe: nothing is claimed of it. -/
  | notModelled (mnemonic : String)
  deriving DecidableEq, Repr

/-! ### Threads -/

/-- A time register (R192, Table 9.1). -/
structure TReg where
  p : Bool := false
  e : Bool := false
  a : Bool := false
  l : Bool := false
  tick : Nat := 0
  deriving DecidableEq, Repr

/-- A refusal record (R240): the first refused word, and the count of further refusals. -/
structure RefRec where
  pc : Nat
  addr : Nat
  cause : Nat
  more : Nat := 0
  deriving DecidableEq, Repr

/-- A launch record as it was read (R338): its words, and the tags of its four slots. -/
structure LaunchRec where
  words : List Nat
  tags : List Bool
  deriving DecidableEq, Repr

/-- What a thread waits in, beside its registers (R28, R250). -/
inductive Wait where
  | none
  /-- PARK: until the tick (R93), whose wake tick lies 16 before it (R101) -/
  | park (w : Nat)
  /-- PARK after its wake tick: stalled until the tick (R102) -/
  | woken (w : Nat)
  /-- SLEEP: until the tick (R263) -/
  | tick (w : Nat)
  /-- IDLE: until the tick or HDOOR (R371) -/
  | idle (w : Nat)
  /-- BAR.WAIT and the wait of BAR.ARRW: the object, the ticket once it is known, the time register that BAR.WAIT reports to, and the tick
  at which the word reaches the crossbar port (R254, R255) -/
  | barrier (key : Nat) (ticket : Option Word) (treg : Option Nat) (from_ : Nat)
  /-- a hardware barrier: the instance, whether it waits for that instance to release before it arrives (R257), and the register that
  receives the number (R256) -/
  | hw (inst : Nat) (next : Bool) (dst : Nat)
  /-- FLAGWAIT: the flag's key once a read has found it, its space and address, the next poll of it, whether an update has fired its
  monitor, the read in flight, and the word (R261, R302) -/
  | flag (key : Option Nat) (space va : Nat) (poll : Nat) (fired : Bool) (read : Option Nat) (f : Fields)
  /-- the release wait of FLAGSET at a scope (R250, R260) -/
  | release (scope : Nat)
  /-- CNTWAIT: the level, the work that was named, the bound (R264): of a launch its handle, of a graph, phase or job its record -/
  | count (level : Nat) (work : Nat) (bound : Nat)
  /-- CNTWAIT after its counter has fallen: until the tick (R264, R270) -/
  | fallen (w : Nat)
  /-- ROWSYNC (R262) -/
  | row
  /-- LAUNCHW, for a free record: the record as it was read, and the return that its handle lands in (R339) -/
  | larder (r : LaunchRec) (ret : Nat)
  deriving DecidableEq, Repr

/-- Whether a thread runs (R16, R94, R95). -/
inductive Life where
  | live
  /-- stopped by BKPT for the debugger (R95), or by a step of it (R372) -/
  | stopped
  /-- after EXIT: its slot is freed when its stores, atomics and copies have completed (R94) -/
  | exited
  deriving DecidableEq, Repr

/-- A leaf that a walk returns (R388). -/
structure Leaf where
  /-- the entry as it stands in memory -/
  raw : Double
  /-- the physical address of the entry -/
  entry : Nat
  /-- the level at which it stands -/
  level : Nat
  deriving DecidableEq, Repr

/-- The result of a walk (R391). -/
inductive WalkRes where
  | notMapped
  | leaf (l : Leaf)
  deriving DecidableEq, Repr

/-- A thread (R16). -/
structure Thread where
  /-- x1 to x511; a register not listed is 0, and x0 is never listed (R56, R63) -/
  regs : NMap Word := []
  /-- the quads whose tag is set (R119) -/
  tags : List Nat := []
  /-- the poisoned registers (R214) -/
  poison : List Nat := []
  /-- registers still to be written, each with the access that will write it (R98) -/
  pend : NMap Nat := []
  /-- t0 to t15; a register not listed is all clear (R192) -/
  treg : NMap TReg := []
  /-- the access each bound time register is bound to (R193) -/
  bound : NMap Nat := []
  /-- the word index (R83) -/
  pc : Nat := 0
  /-- stands at a block start whose header is not yet read (R84) -/
  atHeader : Bool := true
  /-- the header of the block the thread is in, and its word (R70, R85) -/
  hdr : Nat := 0
  hdrWord : Code := 0
  /-- Table 4.2 -/
  mode : Word := 0
  /-- Table 5.10; THR is not kept here, it is the cluster's throttled state -/
  status : Word := 0
  /-- bits [59:32] latched by SREAD s.now.lo (R128) -/
  latch : Option Nat := none
  /-- outstanding counters (R252) -/
  loads : Nat := 0
  stores : Nat := 0
  copies : Nat := 0
  passes : Nat := 0
  /-- the late counter (R213) -/
  late : Nat := 0
  refusal : Option RefRec := none
  /-- Table 21.3 PEND -/
  pendLate : Bool := false
  pendThrStart : Bool := false
  pendThrEnd : Bool := false
  /-- system mode (R360) -/
  sys : Bool := false
  /-- the owner identity (R125) -/
  owner : Nat := 0
  life : Life := .live
  /-- it returned to a word whose block is not known yet, because a header lies on an absent page (R376, log 18) -/
  seek : Bool := false
  /-- a fault of its word waits for the writes to its registers that are pending (R375) -/
  faultWaits : Bool := false
  /-- a DBGSTEP.step lets it issue one word and stop again (R372) -/
  debugStep : Bool := false
  wait : Wait := .none
  /-- reconvergence target, as `Thread.spot` numbers it, and hold (R85) -/
  reconv : Option Nat := none
  held : Bool := false
  /-- the tick at which it came to stand at its word, and those at which the last of its loads, of its stores and copies, and of the far ends'
  acknowledgements to be complete was so (R249, R251) -/
  stood : Nat := 0
  loadDone : Nat := 0
  storeDone : Nat := 0
  farDone : Nat := 0
  /-- not ready in beat slots below this number (R92) -/
  yieldBar : Nat := 0
  /-- the beat slot since which it waits at its index (R99) -/
  since : Nat := 0
  /-- released by one ROWSYNC together with the other threads that hold this number (R262) -/
  together : Nat := 0
  /-- the acquiring load that later memory words await (R200) -/
  acquire : Option Nat := none
  /-- a store, an atomic or an MLOOP held for its walk (R228), and what the walk returned -/
  walking : Bool := false
  walked : Option WalkRes := none
  /-- held by copy-on-write or a migrating page (R228), until that operation ends -/
  pageHold : Option Nat := none
  /-- the host has refused the held copy-on-write (R397) -/
  cowRefused : Bool := false
  /-- its store or atomic walks again, whatever the TLB holds: after copy-on-write, or a return from the trap of one refused (R397, R401) -/
  freshWalk : Bool := false
  /-- records of the digest stream so far, DIGEST words so far, and stores staged so far (R407, R181, R244) -/
  digestN : Nat := 0
  digestWords : Nat := 0
  prog : Nat := 0
  deriving DecidableEq, Repr

/-! ### Groups -/

/-- A curve table that is not empty (R170). -/
structure CrvTable where
  loading : Bool
  f : Nat
  n : Nat
  deriving DecidableEq, Repr

/-- A tile (R288): its range in cluster SRAM, and the copies in flight that write it and that only read it. -/
structure Tile where
  num : Nat
  off : Nat
  len : Nat
  fill : List Nat := []
  drain : List Nat := []
  deriving DecidableEq, Repr

/-- A claimed accumulator (R308): its physical slot, and the key of a shared one. -/
structure AccClaim where
  phys : Nat
  share : Option Word := none
  deriving DecidableEq, Repr

/-- An operand record (R309, Table 18.3) and its codebook (R311). -/
structure OpRec where
  first : Nat
  count : Nat
  fmt : Nat
  sc : Bool
  blk : Nat
  sslot : Nat
  soff : Nat
  /-- the codebook, once valid -/
  book : Option (List Half) := none
  deriving DecidableEq, Repr

/-- A reference to an operand: the record and the slot index (R313). -/
structure OpRef where
  rcd : Nat
  idx : Nat
  deriving DecidableEq, Repr

/-- An engine operation of a group that is not yet done, in group order (R307). -/
inductive EngOp where
  /-- a pass, by its id -/
  | pass (id : Nat)
  /-- a transfer of a slot or a codebook, by its number -/
  | xfer (id : Nat)
  | release (slots accs : List Nat)
  | opfree (rcd : Nat)
  /-- OPRES behind an OPFREE of its record: the returns that its status lands in -/
  | opres (rets : List Nat) (rcd : Nat) (desc : OpRec)
  | mzero (accs : List Nat)
  | accwr (acc elem : Nat) (v : Word)
  /-- ACCRD: the number of the return it makes -/
  | accrd (acc elem : Nat) (ret : Nat)
  /-- CLAIM, which acts after every earlier RELEASE: the returns it makes, its kind, first number, count, key -/
  | claim (rets : List Nat) (kind first count : Nat) (key : Word)
  deriving DecidableEq, Repr

/-- The operand that a pass streams (R316): its side, its next address, the increment, and what its capability covers. -/
structure Stream where
  side : Nat
  va : Nat
  inc : Nat
  base : Nat
  top : Nat
  space : Nat
  deriving DecidableEq, Repr

/-- A pass (R316): its operands, its ring, its stream and its progress. -/
structure Pass where
  /-- the group's number of it (R316), and the order of posting (R321) -/
  pid : Nat
  seq : Nat
  refA : OpRef
  refB : OpRef
  incA : Nat := 0
  incB : Nat := 0
  acc : Nat
  zero : Bool
  /-- its steps, and those that it may still be granted in all -/
  steps : Nat
  limit : Nat
  stream : Option Stream := none
  /-- streamed loads begun; the leading steps whose loads have come, and later ones whose loads have come before theirs (R316); steps granted, steps applied -/
  sent : Nat := 0
  loaded : Nat := 0
  early : List Nat := []
  granted : Nat := 0
  applied : Nat := 0
  /-- the ticks at which granted steps are applied (R319) -/
  due : List Nat := []
  /-- step boundaries since its last grant, or since it became eligible (R321) -/
  wait : Nat := 0
  /-- MLINK.wait: the objects and tickets that hold its first step (R326) -/
  link : List (Nat × Word) := []
  /-- stopped or cancelled: outcome and detail (R311, R317, R323, R328); the tick of the stop (R334) -/
  stop : Option (Nat × Nat) := none
  stopAt : Nat := 0
  /-- the firm completion tick, once its last step has been granted (R318, R319) -/
  firm : Option Nat := none
  /-- the status word once complete (Table 18.7), and the completion tick; before that, the tick of the last step applied -/
  done : Option Word := none
  doneAt : Nat := 0
  /-- the threads whose counter it holds (R306); the first gave its operands -/
  threads : List Nat
  /-- returns of MSTAT.time and of MSTAT.wait (R318) -/
  watch : List Nat := []
  waits : List Nat := []
  /-- MLINK.arr: objects that it updates, each with the returns that report it (R326) -/
  arrivals : List (Nat × List Nat) := []
  deriving DecidableEq, Repr

/-- A staged store or atomic of a deterministic launch (R244). -/
structure Staged where
  row : Nat
  lane : Nat
  prog : Nat
  /-- the number of the update it becomes -/
  upd : Nat
  deriving DecidableEq, Repr

/-- A digest record (Table 23.2). -/
structure DigRec where
  tid : Nat
  n : Nat
  space : Nat
  addr : Nat
  kind : Nat
  mask : Nat
  opx : Nat
  data : Quad
  /-- of DIGEST: the count of the thread's earlier DIGEST words (R181) -/
  word : Nat := 0
  deriving DecidableEq, Repr

/-- What a piece of a transfer has brought. -/
structure Piece where
  data : List Byte
  absent : Bool
  poisoned : Bool
  deriving DecidableEq, Repr

/-- An entry of a group's replay log: what one word took in, in one thread (R404, Table 23.1). -/
structure LogEntry where
  /-- the word index of the word -/
  pc : Nat
  /-- the values that it delivered to its registers, in their order; the tag, and A -/
  words : List Word := []
  tag : Bool := false
  absent : Bool := false
  /-- a time branch that was taken: the block start that it went to -/
  taken : Option Nat := none
  /-- what it gave its time register (R216) -/
  time : Option TReg := none
  /-- a row word: its active set (R191) -/
  mask : Nat := 0
  /-- the return that is still to bring the values -/
  wait : Option Nat := none
  /-- where the units that it read stand in the unit log; the words of its index tile -/
  units : Option Nat := none
  idx : List Nat := []
  deriving DecidableEq, Repr

/-- What a bulk transfer is. -/
inductive XferKind where
  /-- COPY.GT, .TG, .TT, .GG, .GATH, .SCAT by opcode low nibble (R285) -/
  | copy (op : Nat)
  /-- CRVLD (R171): table, first segment, count -/
  | curve (table first count : Nat)
  /-- CBLD (R311): record -/
  | book (rcd : Nat)
  /-- SLOTLD and SLOTRD (R312): local slot -/
  | slotIn (slot : Nat)
  | slotOut (slot : Nat)
  /-- a streamed load of a pass (R316): pass id, step -/
  | stream (pid step : Nat)
  deriving DecidableEq, Repr

/-- A bulk transfer in flight. Its units are 16 bytes long (20-byte segments for CRVLD). -/
structure Xfer where
  kind : XferKind
  group : Nat
  /-- the issuing threads, the one whose operands it takes first -/
  threads : List Nat
  core : Nat := 0
  pc : Nat := 0
  /-- the returns that its status lands in -/
  rets : List Nat := []
  /-- memory side: space, address named by its first unit, base and end of the capability (R285) -/
  space : Nat := 0
  va : Nat := 0
  base : Nat := 0
  top : Nat := 0
  /-- the second memory side of COPY.GG -/
  space2 : Nat := 0
  va2 : Nat := 0
  /-- tile sides: number and offset -/
  tile : Nat := 0
  tileOff : Nat := 0
  tile2 : Nat := 0
  tileOff2 : Nat := 0
  /-- row bytes and stride of GATH and SCAT (R283) -/
  row : Nat := 0
  stride : Nat := 0
  /-- the words of its index tile, as they stood at its admission (R292) -/
  idx : List Nat := []
  /-- the program position of its staged writes, and the first number of its digest records (R245, R407) -/
  prog : Nat := 0
  rcd : Nat := 0
  /-- the number before which its thread's stores lie that it reads as its own (R202) -/
  before : Nat := 0
  /-- units in all, next unit to start, units written -/
  units : Nat
  next : Nat := 0
  moved : List Nat := []
  v : Bool := false
  scope : Nat := 0
  /-- stopped: outcome and detail (R286) -/
  stop : Option (Nat × Nat) := none
  /-- A, and poison, met (R171, R311) -/
  absent : Bool := false
  poisoned : Bool := false
  /-- updates it has in flight; tick of the last application; tick of the next unit -/
  upds : List Nat := []
  last : Nat := 0
  at_ : Nat := 0
  /-- its turn in group order has come (R307); its reads are booked as a whole -/
  started : Bool := false
  booked : Bool := false
  /-- staged: its writes wait for the stair (R296) -/
  staged : Bool := false
  /-- the cache hint (Table 3.3) -/
  hint : Nat := 0
  /-- its next unit has met the porch: the entries whose acknowledgement it waits for (R237) -/
  met : Bool := false
  after : List Nat := []
  /-- the page operation that holds it for copy-on-write (R285) -/
  hold : Option Nat := none
  /-- the units that a page border cuts in two: each is written when both updates are (R286) -/
  cut : List Nat := []
  /-- the pieces that have arrived, two for a unit: 2u and 2u + 1; the latest promise of a piece so far (R171) -/
  pieces : NMap Piece := []
  promise : Nat := 0
  /-- in a replay: the units of the log that it takes (R406) -/
  log : Option Nat := none
  deriving DecidableEq, Repr

/-- Whether a group is on its cluster (R104, R106). -/
inductive Residency where
  | resident
  /-- saved, and waiting to resume -/
  | saved
  /-- killed: cause and the thread or core named in the record; it goes when its stores have retired (R383) -/
  | killed (cause who : Nat)
  deriving DecidableEq, Repr

/-- A group (R19, R20). -/
structure Group where
  /-- the larder slot of its launch -/
  launch : Nat
  /-- its linear index (R130) -/
  index : Nat
  cluster : Nat
  /-- the slot of each row on its core (R16, R17) -/
  slots : List Nat := []
  residency : Residency := .resident
  /-- R351, R324 -/
  prio : Nat := 0
  mprio : Nat := 0
  /-- its allocation, its launch's shared allocation, the cluster of its first dispatch (R13, R14) -/
  sramBase : Nat := 0
  sramCluster : Nat := 0
  firstCluster : Nat := 0
  /-- cores that it has run on, for the audit (R403, R411) -/
  cores : List Nat := []
  moves : Nat := 0
  /-- the generator of each row (R166) -/
  gens : NMap Double := []
  /-- segment s, field j at 5·s + j; an entry not listed is +0 (R170) -/
  segs : NMap Word := []
  tables : NMap CrvTable := []
  tiles : List Tile := []
  /-- claimed pantry slots, local to physical; accumulators; records (R303) -/
  pslots : NMap Nat := []
  accs : NMap AccClaim := []
  recs : NMap OpRec := []
  passCount : Nat := 0
  passes : List Pass := []
  /-- the MLINK.waits that later passes are held by, each with the returns that report it (R326) -/
  links : List (Nat × Word × List Nat) := []
  queue : List EngOp := []
  stage : List Staged := []
  /-- a release in progress: updates that have not yet retired (R245) -/
  releasing : List Nat := []
  /-- threads that have arrived at ADRAIN, and those for which a release in progress was made (R243) -/
  drain : List Nat := []
  draining : List Nat := []
  /-- the segment that is closed: its audit runs (false) or has let it go (true) (R416) -/
  cleared : Option Bool := none
  /-- segments closed so far (R416); one of them has failed, and what the group stages is not released (R417) -/
  segments : Nat := 0
  failed : Bool := false
  /-- group end: the final release has been made (R245) -/
  ended : Bool := false
  /-- instances of the four hardware barriers in the group's view (R256) -/
  barCount : NMap Nat := []
  /-- throttle traps (R356) -/
  armStart : Bool := false
  armEnd : Bool := false
  firedStart : Bool := false
  firedEnd : Bool := false
  edges : Nat := 0
  /-- pre-emption requested, its retries, the tick of the next one, the FMASK or halt that forces it off (R104) -/
  preempt : Bool := false
  retries : Nat := 0
  retryAt : Option Nat := none
  /-- the tick of its save, from which it waits to resume (R347) -/
  savedAt : Nat := 0
  cancelled : Bool := false
  /-- audit (R402 to R404): selected, log bytes, over 256 KiB, dropped, a thread entered system mode -/
  selected : Bool := false
  logBytes : Nat := 0
  logFull : Bool := false
  sysSeen : Bool := false
  digests : List DigRec := []
  exits : NMap Nat := []
  /-- the replay log of each thread, by s.tid: of an original what it has taken in, of a replay what it has still to take (R404, R406) -/
  log : NMap (List LogEntry) := []
  /-- the units that its transfers have read: by the transfer, and of a stream by 2^48 + pass · 2^16 + step; then by 2·unit -/
  unitLog : NMap (NMap Piece) := []
  /-- its threads as they started, for a replay of it (R406); the records of segments already released (R416) -/
  start : NMap Thread := []
  past : List Nat := []
  /-- a replay: its audit; the positions at which it has diverged; the copies whose units are not all logged; the streams of its passes (R406) -/
  replays : Option Nat := none
  diverged : List Nat := []
  owed : NMap Xfer := []
  passLog : NMap Nat := []
  /-- the host has been told that no core can take it (R14, R106) -/
  featWait : Bool := false
  deriving DecidableEq, Repr

/-! ### Launches and work -/

/-- What the kernel header gives (R336, Table 20.2). -/
structure Kernel where
  extent : Nat := 1
  regs : Nat := 8
  tregs : Nat := 16
  rows : Nat := 1
  producer : Nat := 0
  det : Bool := false
  idemk : Bool := false
  clusterBytes : Nat := 0
  privateBytes : Nat := 0
  feat : Nat := 0
  canon : Nat := 0
  splits : List Nat := [1, 1, 1, 1, 1, 1, 1, 1]
  shareBytes : Nat := 0
  dieBytes : Nat := 0
  deriving DecidableEq, Repr

/-- A capability as its four registers, low first, and its tag (R119). -/
structure CapReg where
  w0 : Word := 0
  w1 : Word := 0
  w2 : Word := 0
  w3 : Word := 0
  tag : Bool := false
  deriving DecidableEq, Repr

/-- A launch record that is in the larder (R29, R338, R339). -/
structure Launch where
  gen : Nat := 1
  tenant : Nat := 0
  system : Bool := false
  /-- submitted by the host: the completion raises event 3 (R423) -/
  root : Bool := false
  kernel : Kernel := {}
  kcap : CapReg := {}
  acap : CapReg := {}
  wcap : CapReg := {}
  mcap : CapReg := {}
  gx : Nat := 1
  gy : Nat := 1
  gz : Nat := 1
  pmode : Nat := 0
  pdie : Nat := 0
  ratio : Nat := 0
  lease : Nat := 128
  prio : Nat := 0
  /-- the launch that must complete first (R343) -/
  dep : Option Nat := none
  graph : Nat := 0
  /-- updates and transfers of the issuing thread that must be complete before it starts (R341, R342); of the host (R422) -/
  after : List Nat := []
  order : Nat := 0
  startTick : Option Nat := none
  /-- indices not yet dispatched; the kills of each group so far -/
  todo : List Nat := []
  killed : NMap Nat := []
  /-- the die of each group, under PMODE 2 and, once it has started, PMODE 0 (R346) -/
  dies : NMap Nat := []
  /-- since when one killed and to be dispatched again waits (R347) -/
  since : NMap Nat := []
  /-- groups not yet ended -/
  open_ : Nat := 0
  cancelled : Bool := false
  complete : Bool := false
  /-- the end of the last of its groups to end: the tick, and the die that keeps it (R270) -/
  ended : Option (Nat × Nat) := none
  /-- the stair's ticket (R245): the group whose turn it is; the tick and the die from which it has come (R270) -/
  ticket : Nat := 0
  ticketFrom : Option (Nat × Nat) := none
  /-- the audit control word when it was accepted (R402) -/
  audit : Word := 0x10
  /-- hardware barrier instances so far: level · 1024 + place (R256, R257) -/
  bars : NMap Nat := []
  /-- shared cluster allocations made, cluster to offset (R14) -/
  shares : NMap Nat := []
  dieHeld : Bool := false
  deriving DecidableEq, Repr

/-- A graph, phase or job record (R339, R343): what it belongs to. Records are numbered in the order in which they are made. -/
structure Work where
  parent : Nat := 0
  deriving DecidableEq, Repr

/-! ### Accesses in flight -/

/-- Which counter an access holds (R252). -/
inductive Counter where
  | none
  | loads
  | stores
  | copies
  deriving DecidableEq, Repr

/-- What a return brings (R193). -/
inductive RetKind where
  /-- a load: bytes, in 32-bit words zero-extended (R196); `acq`: LDA; `tagged`: an LD.128 that keeps a tag (R127) -/
  | load (acq tagged : Bool)
  /-- PROBE (R198) -/
  | probe
  /-- HOMEQ (R350): the end of its range, and the pages that each die homes of those walked so far; the return's address is that of the page whose walk
  is on its way -/
  | homeq (end_ : Nat) (counts : NMap Nat)
  /-- PGSTAT (R298) -/
  | pgstat
  /-- PAGEIN, PLACE, DISCARD (R297, R299, R300): the page operation does the rest -/
  | page (op : Nat) (arg : Word)
  /-- the old value of an atomic (R241) -/
  | atomic
  /-- a read of its flag by a thread in FLAGWAIT (R261) -/
  | flag
  /-- the status of a transfer, which its completion lands (R285, R171, R311, R312) -/
  | xfer
  /-- a piece of a transfer that reads as loads do: the transfer, the piece's number (R171, R311, R312, R316) -/
  | part (xfer piece : Nat)
  /-- a word that lands at a tick: MSTAT, ACCRD, CLAIM, LAUNCH and the like; or a walk that holds a thread (R228) -/
  | word
  deriving DecidableEq, Repr

/-- Where a return stands. -/
inductive RetPhase where
  /-- the walk reads its next level at the tick: level, table address (R391) -/
  | walk (tick level table : Nat)
  /-- the walk's result is on its way back to the core, and arrives at the tick -/
  | back (tick : Nat) (res : WalkRes)
  /-- booked: the promise reaches the core at the first tick (R205), it reads at the second (0: its bytes are already there) and
  lands at the third -/
  | probe (known read land : Nat)
  /-- the calendar is full: the probe retries at the tick, `left` ticks of load remain (R205) -/
  | retry (tick left : Nat)
  /-- waits at the porch, the tile or the lehr: probed again when that changes (R237, R292) -/
  | blocked
  /-- promised: it reads at the first tick and lands at the second -/
  | booked (read land : Nat)
  /-- read: it lands at the tick -/
  | read (land : Nat)
  /-- waits for another record (an atomic's application, a pass, the engine, a page operation) -/
  | await
  deriving DecidableEq, Repr

/-- A return: something that will write registers of a thread (R196, R193). -/
structure Ret where
  th : Nat
  kind : RetKind
  /-- first register and count; count 0 when the destination is x0 -/
  dst : Nat := 0
  n : Nat := 0
  treg : Option Nat := none
  counter : Counter := .none
  /-- the address as named, its space, the bytes it reads, and the flat key once translated -/
  space : Nat := 0
  va : Nat := 0
  bytes : Nat := 0
  key : Option Nat := none
  phase : RetPhase := .await
  /-- the core that issued it, and the tick at which it issued or its walk returned -/
  core : Nat := 0
  issued : Nat := 0
  pc : Nat := 0
  /-- the bytes read, lowest first; and their tag -/
  data : List Byte := []
  tag : Bool := false
  /-- A is set (R209), the value is poisoned (R214), the promise was broken (R213) -/
  absent : Bool := false
  poisoned : Bool := false
  late : Bool := false
  /-- source code of PROBE (R198); its path books the calendar of a pseudo-channel (Table 9.3) -/
  source : Nat := 0
  stack : Bool := false
  /-- the cache hint (Table 3.3) -/
  hint : Nat := 0
  /-- it has met its die's porch (R237): the entries whose acknowledgement it waits for, the ef entries that serve it -/
  met : Bool := false
  after : List Nat := []
  fwd : List Nat := []
  /-- the promise or estimate as it first became known, the tick of R101's test; and as breaks have revised it, each with the tick of the break, the
  last first (R213) -/
  due : Option Nat := none
  redue : List (Nat × Nat) := []
  /-- on an estimate path (R206); of a path to another device, in bounded mode as its probe found it (R426) -/
  est : Bool := false
  bounded : Bool := false
  /-- a sweep has met its walk's result on the way back: it walks again (R228, R364, R393) -/
  swept : Bool := false
  /-- no longer wanted: its thread has exited, or the register is not in the saved context (R94, R211) -/
  discard : Bool := false
  deriving DecidableEq, Repr

/-- What an update does (R230, R241). -/
inductive UpdKind where
  /-- a store of bytes, lowest first; `tag`: the kept tag of an ST.128 (R127) -/
  | store (data : List Byte) (tag : Bool)
  /-- an atomic: the opcode's low nibble, M, its operands low word first -/
  | atomic (op m : Nat) (args : List Word)
  /-- PTESET: a table entry (R370) -/
  | pte (entry : Double)
  /-- a word on a barrier object: the opcode's low nibble, and x[D] of BAR.INIT (R254, R255) -/
  | bar (op : Nat) (v : Word)
  deriving DecidableEq, Repr

/-- Where an update stands. -/
inductive UpdPhase where
  /-- staged, to be released by the stair (R244) -/
  | staged
  /-- in the porch, not yet sent (R236) -/
  | porch
  /-- on its way: arrives at its application point at the tick -/
  | travel (tick : Nat)
  /-- waits for a tile or for an earlier update to overlapping bytes -/
  | blocked
  /-- held until the tick at which it is applied (R232) -/
  | lehr (c : Nat)
  /-- applied; the acknowledgement or the retirement comes at the tick, 0 for one that is lost (R239) -/
  | applied (back : Nat)
  /-- retired at the core; the far end of a pooled or host store has not yet acknowledged (R251) -/
  | far (tick : Nat)
  deriving DecidableEq, Repr

/-- An update in flight: a store, an atomic, a unit of a copy, a table entry. -/
structure Upd where
  /-- the issuing thread; none for the host or another device -/
  th : Option Nat := none
  core : Nat := 0
  lane : Nat := 0
  die : Nat := 0
  kind : UpdKind
  space : Nat := 0
  va : Nat := 0
  key : Nat
  bytes : Nat
  /-- poisoned source bytes carry their mark (R380) -/
  poisoned : Bool := false
  v : Bool := false
  scope : Nat := 0
  treg : Option Nat := none
  counted : Bool := false
  pc : Nat := 0
  issued : Nat := 0
  /-- STL's not-before tick (R233) -/
  notBefore : Nat := 0
  phase : UpdPhase
  /-- porch: sequence number, tick sent, replays made (R236, R239) -/
  seq : Nat := 0
  sent : Option Nat := none
  replays : Nat := 0
  /-- completion promised (c), and known at the core from a tick -/
  c : Option Nat := none
  knownAt : Option Nat := none
  /-- the return that an atomic makes (R241) -/
  ret : Option Nat := none
  /-- the transfer whose unit it writes, and the unit's number (R285) -/
  xfer : Option Nat := none
  unit : Nat := 0
  /-- its completion has been written to its time register (R230), and that promise was broken (R213) -/
  told : Bool := false
  late : Bool := false
  /-- its place in the order in which the stair released it, 0 for one that was not staged (R245) -/
  rank : Nat := 0
  /-- the frame it names was put out of use at its home since it was translated: the home refuses it (R240 code 1, R300) -/
  stale : Bool := false
  /-- it has no slot at its home's arbiter yet: no interval so far known has bytes left (R354) -/
  ungranted : Bool := false
  deriving DecidableEq, Repr

/-- A page operation in progress (R397, R399, R400). -/
inductive PageKind where
  /-- copy-on-write for a thread, or for a transfer whose next unit it holds (R397) -/
  | cow (th : Option Nat) (xfer : Option Nat)
  /-- a move to a die, to the pool, or to absent backing; the return to report to (R399) -/
  | move (target : MigTarget) (ret : Option Nat)
  /-- PAGEIN of an absent page, waiting for the host: the returns merged on it (R297, R400) -/
  | pagein (rets : List Nat)
  deriving DecidableEq, Repr

/-- Where a page operation stands. -/
inductive PagePhase where
  /-- begins at the tick -/
  | start (tick : Nat)
  /-- at the host (event 11 or 10), with no bound -/
  | host
  /-- waits for the stores translated before the sweep (R399 step 2); the new frame -/
  | drain (frame : Nat)
  /-- copying: ends at the tick; the new frame -/
  | copying (tick frame : Nat)
  deriving DecidableEq, Repr

structure PageOp where
  kind : PageKind
  tenant : Nat
  va : Nat
  /-- where the leaf stands, and the frame -/
  leaf : Leaf
  phase : PagePhase
  deriving DecidableEq, Repr

/-- A hardware barrier instance (R256, R257). -/
structure HwBar where
  level : Nat
  launch : Nat
  /-- the group, cluster, die, or 0 -/
  place : Nat
  number : Nat
  /-- the linear indices of the groups it covers -/
  members : List Nat
  arrived : List Nat := []
  /-- released at the tick; clusters still to be released, each with its rank (R258) -/
  released : Option Nat := none
  left : NMap Nat := []
  deriving DecidableEq, Repr

/-! ### Cores, clusters, dies, tenants -/

/-- A TLB entry (R393). -/
structure TlbEntry where
  tenant : Nat
  base : Nat
  size : Nat
  leaf : Leaf
  deriving DecidableEq, Repr

/-- A core (R15, R99, R373, R410). The default is a core as bring-up leaves it. -/
structure Core where
  /-- Table 21.4: LIVE at [8], FEAT at [4:0] -/
  fmask : BitVec 9 := 0x11F
  halted : Bool := false
  dbgen : Bool := false
  cullet : Bool := false
  score : Nat := 0
  passed : Nat := 0
  report : Bool := false
  /-- the number of the next beat slot that is not used, and the threads that the last used one issued (R98) -/
  slot : Nat := 0
  issued : List Nat := []
  /-- ageing counters by word index, each with the slot at which it reached 64 (R99) -/
  ages : NMap (Nat × Nat) := []
  /-- L1 lines held under lease: line to expiry (R203); those of lowest retention (Table 3.3) -/
  l1 : NMap Nat := []
  l1low : List Nat := []
  /-- the words in the instruction cache, by tenant·2^52 + address (R13, R82) -/
  icache : NMap Code := []
  tlb : List TlbEntry := []
  /-- each lane's last-page register (R208) -/
  lanePage : NMap TlbEntry := []
  deriving DecidableEq, Repr

/-- A cluster (R13, R21 to R23, R350, R354 to R359). -/
structure Cluster where
  /-- ratio in s.clk's code: 0 ½, 1 one, 2 two -/
  ratio : Nat := 1
  mhz : Nat := 1250
  ratioReq : Option Nat := none
  mhzReq : Option Nat := none
  gated : Bool := false
  /-- the tick of its last gating (R358) -/
  gatedAt : Option Nat := none
  /-- a request to run, made at a tick; by a release of BAR.GRID, with the cluster's rank in it (R359, R258) -/
  wakeReq : Option Nat := none
  wakeGrid : Bool := false
  wakeRank : Nat := 0
  /-- cycles (R350) and beat slots (R21, R98) begun before a base tick -/
  cycles : Nat := 0
  slots : Nat := 0
  cycleAt : Nat := 0
  /-- damper: grant in bytes for an interval, none for no limit; the next grant, with the interval from which it counts; lines used, in the
  interval that holds them (R354) -/
  grant : Option Nat := none
  nextGrant : Option (Nat × Nat) := none
  used : NMap Nat := []
  throttled : Bool := false
  /-- the last interval in which a booking was moved (R355) -/
  movedIn : Option Nat := none
  /-- the slots of each interval granted to bookings that were moved into it (R354) -/
  moved : NMap Nat := []
  /-- the tick of the engine's next step boundary (R321) -/
  engine : Nat := 0
  deriving DecidableEq, Repr

/-- A machine-check record (Table 21.8). -/
structure McRec where
  lost : Nat := 0
  aux : Word := 0
  who : Nat := 0
  addr : Nat := 0
  tick : Nat := 0
  sev : Nat := 0
  die : Nat := 0
  unit : Nat := 0
  cause : Nat := 0
  deriving DecidableEq, Repr

/-- A table entry that a base die's cache holds (R393): where it stands, its level, the addresses that it maps, the table that it names. -/
structure TableEntry where
  entry : Nat
  level : Nat
  va : Nat
  table : Nat
  deriving DecidableEq, Repr

/-- A die (R11). The default is a die as bring-up leaves it. -/
structure Die where
  /-- this die's copy of device time runs this many ticks ahead, or behind, of the device tick (R24, R381) -/
  ahead : Nat := 0
  behind : Nat := 0
  /-- held until the device tick reaches this (R381) -/
  heldTo : Nat := 0
  lastGood : Nat := 0
  mcq : List McRec := []
  /-- records dropped since the last one written (R382) -/
  dropped : Nat := 0
  /-- free frames of 4 KiB, 64 KiB, 2 MiB (R396) -/
  pool4k : List Nat := []
  pool64k : List Nat := []
  pool2m : List Nat := []
  /-- the cache of table entries, newest first (R393) -/
  tableCache : List TableEntry := []
  /-- next porch sequence number for each home (R236); homes seized (R239) -/
  seqs : List (Home × Nat) := []
  seized : List Home := []
  deriving DecidableEq, Repr

/-- A tenant's registers (Table 21.2, Table 24.2). -/
structure Tenant where
  root : Nat := 0
  part : List Word := [0, 0, 0, 0, 0, 0]
  cores : Nat := 0
  bytes : Nat := 0
  power : Nat := 0
  pcap : Nat := 0
  deriving DecidableEq, Repr

/-- A submission window of the host (Table 24.2); number 16 is the privileged one. -/
structure Window where
  rcd : NMap Word := []
  rootL : Word := 0
  rootH : Word := 0
  result : Word := 0
  deriving DecidableEq, Repr

/-! ### Audits -/

/-- Where an audit stands (R405, R411). -/
inductive AuditPhase where
  /-- the replay waits for a cluster since the tick -/
  | waiting (since : Nat)
  /-- the replay runs as the group, dispatched to the cluster -/
  | running (group cluster : Nat)
  /-- the replay of a held group rests, as the group, until the next segment is closed (R416) -/
  | resting (group cluster : Nat)
  /-- a tiebreak for the first of the positions left waits for a cluster since the tick: position, the digest of the replay -/
  | settling (since : Nat) (left : List RunDigest)
  /-- that tiebreak runs as the group, dispatched to the cluster -/
  | tied (group cluster : Nat) (left : List RunDigest)
  deriving DecidableEq, Repr

/-- An audit of a group or of a segment (R405, R416). -/
structure Audit where
  launch : Nat
  index : Nat
  /-- the group that a held segment belongs to (R416) -/
  segment : Option Nat := none
  kernel : Kernel := {}
  ratio : Nat := 0
  /-- the cluster that the original ran on, and its cores -/
  cluster : Nat
  cores : List Nat
  digests : List DigRec
  exits : NMap Nat
  /-- the records of earlier segments; the replay log up to the close; the threads as they started; the launch's record -/
  past : List Nat := []
  log : NMap (List LogEntry) := []
  unitLog : NMap (NMap Piece) := []
  start : NMap Thread := []
  record : Launch := {}
  /-- the replay of earlier segments, which goes on: its group and cluster (R416) -/
  resident : Option (Nat × Nat) := none
  phase : AuditPhase
  deriving DecidableEq, Repr

/-! ### The device -/

/-- The threads that the issue selector has just chosen, and how they advance. -/
structure Beat where
  core : Nat := 0
  threads : List Nat := []
  /-- 1: a word alone; 0: the first word of a pair, 2: its second word (R75) -/
  adv : Nat := 1
  /-- the status and the latch of each thread before a pair, which its second word reads (R75) -/
  pre : NMap (Word × Option Nat) := []
  deriving DecidableEq, Repr

/-- The device-wide CSRs (Table 21.2). -/
structure Csrs where
  devid : Word := 0xB0160001
  diemask : Word := 0xFFFF
  sextl : Word := 0
  sexth : Word := 0
  sextn : Word := 0
  stvec : Word := 0
  tbasel : Word := 0
  tbaseh : Word := 0
  precap : Word := 8
  audctl : Word := 0x10
  tnsel : Word := 0
  mclost : Word := 0
  deriving DecidableEq, Repr

/-- The gaffer's counters (Table 23.4). -/
structure Gaffer where
  sel : Word := 0
  pass : Word := 0
  mis : Word := 0
  una : Word := 0
  drop : Word := 0
  deriving DecidableEq, Repr

/-- The event ring of the host (R423). -/
structure Ring where
  baseL : Word := 0
  baseH : Word := 0
  size : Word := 0
  head : Word := 0
  tail : Word := 0
  lost : Word := 0
  deriving DecidableEq, Repr

/-- The management controller and the service port (R427 to R430). -/
structure Service where
  /-- bring-up stage reached, 6 when the windows are open -/
  stage : Nat := 6
  /-- the safe-state cause, 0 when not in the safe state (Table 24.5) -/
  safe : Nat := 0
  /-- dies and cores that the self-test of the last bring-up masked -/
  deadDies : List Nat := []
  deadCores : List Nat := []
  /-- the failing unit of each die that did not pass it whole (Table 21.7) -/
  failUnits : NMap Nat := []
  /-- the host port has trained as CXL, by the strap (R419); the device's number in its domain, taken at link training (R425) -/
  cxl : Bool := true
  device : Nat := 0
  /-- firmware staged for the next power cycle (R430), the fused minimum, the version that runs -/
  staged : Option Nat := none
  minVersion : Nat := 0
  version : Nat := 0
  /-- the last reply, as words; the last of the host port's DOE mailbox (R429) -/
  reply : List Word := []
  doe : List Word := []
  powered : Bool := true
  deriving DecidableEq, Repr

/-- The state of the device. -/
structure State where
  /-- device time on die 0 (R24) -/
  now : Nat := 0
  /-- all memory, sorted by key, no entry 0: an unlisted byte reads 0 (log 1) -/
  mem : List Host.Cell := []
  /-- 16-byte granules of cluster SRAM whose tag is set, by key ÷ 16 (R127) -/
  memTags : List Nat := []
  /-- poisoned bytes, by key (R214, R380) -/
  memPoison : List Nat := []
  /-- accumulator elements: (cluster·32 + slot)·4096 + element; unlisted +0 (R303), and the poisoned ones (R328) -/
  accs : NMap Word := []
  accPoison : List Nat := []
  threads : NMap Thread := []
  groups : NMap Group := []
  launches : NMap Launch := []
  graphs : NMap Work := []
  phases : NMap Work := []
  jobs : NMap Work := []
  cores : NMap Core := []
  clusters : NMap Cluster := []
  dies : NMap Die := []
  tenants : NMap Tenant := []
  csrs : Csrs := {}
  /-- the latest lease expiry of each line, by key ÷ 64 (R203) -/
  leases : NMap Nat := []
  /-- pins: line · 1024 + core (1023 for the home's cache), to the ticks from and until which PROBE holds it (R198) -/
  pins : NMap (Nat × Nat) := []
  /-- lines in a memory-side cache, which serve a read in 90 ticks (Table 9.3); at most what the cache holds beside locked lines (R31) -/
  cached : List Nat := []
  /-- the calendars of the booking points: point, tick, slots taken (R57, R205, log 89) -/
  calendars : NMap (NMap Nat) := []
  /-- what each home keeps of each porch: the home, the porch's die, the last entry that it applied, the tick (R239) -/
  applied : List (Home × Nat × Nat × Nat) := []
  rets : NMap Ret := []
  upds : NMap Upd := []
  xfers : NMap Xfer := []
  pageOps : NMap PageOp := []
  hwbars : NMap HwBar := []
  audits : NMap Audit := []
  gaffer : Gaffer := {}
  /-- path scores (R412), and promises kept through each element since its last step down -/
  pathScore : NMap Nat := []
  pathKept : NMap Nat := []
  windows : NMap Window := []
  ring : Ring := {}
  /-- domain-mode words (R426), retired links (R425) -/
  domainMode : NMap Word := []
  linksDown : List Nat := []
  service : Service := {}
  /-- the bytes that the last load of the host, or of another device, read (the model's own field: they leave the device) -/
  portData : List Byte := []
  /-- the address and the value of the table-entry port (R421) -/
  portAddr : Double := 0
  portValue : Double := 0
  /-- admissions of the slew limiter, newest first (R359) -/
  admissions : List Nat := []
  beat : Beat := {}
  /-- the next number for a return, an update, a transfer, a group, a launch's order -/
  ids : Nat := 1
  /-- the return paths that now lose acknowledgements, and the paths that lose entries (R239) -/
  lostAcks : List (Nat × Home) := []
  lostSends : List (Nat × Home) := []
  /-- the lines of host memory whose loads the host now answers with an error (R207) -/
  hostErrors : List Nat := []
  /-- the outside's acts, each with the tick from which it is due (log 6) -/
  inputs : List (Nat × Instr) := []
  /-- further ticks of the next bookings, under load (log 7) -/
  delays : List Nat := []
  /-- the counter that free values are drawn with (log 8) -/
  free : Nat := 0
  deriving DecidableEq, Repr

/-- The machine right after reset: every field at the value that the spec states (Table 21.2, R24, R396, R410, R426), or at the
one that INVENTORY.md and the log name. -/
def State.reset : State := {}

end Sys2Proof.Machine
end

