-- ==== Sys2Proof/Machine/Ops.lean ====
section
/-! DEFINITION. The named operations over the state: sparse maps, memory, registers, device time, machine-check records and
host events, translation, the killing of a group, and taking and leaving a trap (R375, R376). -/

namespace Sys2Proof.Machine

/-! ### Sparse maps and sets of numbers -/

/-- The entry of a number, if it is listed. -/
def nfind {α : Type} (m : NMap α) (k : Nat) : Option α :=
  match m with
  | [] => none
  | (j, v) :: t => if k = j then some v else nfind t k

/-- The entry of a number, or a default. -/
def nget {α : Type} (m : NMap α) (k : Nat) (d : α) : α := (nfind m k).getD d

/-- Set the entry of a number, in the order of the numbers. -/
def nset {α : Type} (m : NMap α) (k : Nat) (v : α) : NMap α :=
  match m with
  | [] => [(k, v)]
  | (j, w) :: t => if k < j then (k, v) :: (j, w) :: t else if k = j then (k, v) :: t else (j, w) :: nset t k v

/-- Remove the entry of a number. -/
def ndel {α : Type} (m : NMap α) (k : Nat) : NMap α := m.filter fun p => p.1 ≠ k

/-- Change the entry of a number, if it is listed. -/
def nmod {α : Type} (m : NMap α) (k : Nat) (f : α → α) : NMap α :=
  match m with
  | [] => []
  | (j, w) :: t => if k = j then (j, f w) :: t else (j, w) :: nmod t k f

/-- Put a number into a set, in rising order. -/
def sput (m : List Nat) (k : Nat) : List Nat :=
  match m with
  | [] => [k]
  | j :: t => if k < j then k :: j :: t else if k = j then j :: t else j :: sput t k

/-- Take a number out of a set. -/
def sdel (m : List Nat) (k : Nat) : List Nat := m.filter (· ≠ k)

/-- Take a range of numbers out of a set. -/
def sdelRange (m : List Nat) (k n : Nat) : List Nat := m.filter fun j => !(k ≤ j && j < k + n)

/-! ### Memory -/

/-- What an address reads as: 0 where nothing is listed (log 1). -/
def Memory.read (m : List Host.Cell) (a : Nat) : Byte :=
  match m with
  | [] => 0
  | (b, v) :: t => if a = b then v else Memory.read t a

/-- List a byte at its place. -/
def Memory.put (m : List Host.Cell) (a : Nat) (v : Byte) : List Host.Cell :=
  match m with
  | [] => [(a, v)]
  | (b, w) :: t => if a < b then (a, v) :: (b, w) :: t else if a = b then (a, v) :: t else (b, w) :: Memory.put t a v

/-- Write a byte: what an unlisted address reads as is not listed. -/
def Memory.write (m : List Host.Cell) (a : Nat) (v : Byte) : List Host.Cell :=
  if v = 0 then m.filter fun c => c.1 ≠ a else Memory.put m a v

/-- Write bytes at rising addresses. -/
def Memory.writes (m : List Host.Cell) (a : Nat) (bs : List Byte) : List Host.Cell :=
  match bs with
  | [] => m
  | b :: t => Memory.writes (Memory.write m a b) (a + 1) t

/-- Make a range read as 0. -/
def Memory.zero (m : List Host.Cell) (a n : Nat) : List Host.Cell := m.filter fun c => !(a ≤ c.1 && c.1 < a + n)

/-- Read bytes at rising addresses. -/
def Memory.reads (m : List Host.Cell) (a n : Nat) : List Byte := (List.range' a n).map (Memory.read m)

/-- The canonical form: addresses strictly rising, no entry 0. -/
def Memory.wf (m : List Host.Cell) : Bool :=
  match m with
  | [] => true
  | [c] => c.2 ≠ 0
  | c :: d :: t => c.2 ≠ 0 && decide (c.1 < d.1) && Memory.wf (d :: t)

/-- The number of bytes, the first lowest (R5). -/
def natOfBytes (bs : List Byte) : Nat := bs.foldr (fun b n => n * 256 + b.toNat) 0

/-- The bytes of a number, the lowest first (R5). -/
def bytesOfNat (v n : Nat) : List Byte :=
  match n with
  | 0 => []
  | n + 1 => BitVec.ofNat 8 v :: bytesOfNat (v / 256) n

/-- Whether two byte ranges meet. -/
def meets (a n b m : Nat) : Bool := a < b + m && b < a + n

/-- Read bytes at a flat key. -/
def rdBytes (s : State) (a n : Nat) : List Byte := Memory.reads s.mem a n

/-- Read a number at a flat key. -/
def rdNat (s : State) (a n : Nat) : Nat := natOfBytes (rdBytes s a n)

/-- Write bytes at a flat key. The bytes lose their poison marks, and every granule touched loses its tag (R127). -/
def wrBytes (s : State) (a : Nat) (bs : List Byte) : State :=
  { s with
    mem := Memory.writes s.mem a bs
    memPoison := sdelRange s.memPoison a bs.length
    memTags := if bs.isEmpty then s.memTags else sdelRange s.memTags (a / 16) ((a + bs.length - 1) / 16 + 1 - a / 16) }

/-- Make a range of memory zero, untagged and unpoisoned. -/
def clearMem (s : State) (a n : Nat) : State :=
  { s with
    mem := Memory.zero s.mem a n
    memPoison := sdelRange s.memPoison a n
    memTags := sdelRange s.memTags (a / 16) (n / 16) }

/-- Whether any byte of a range is poisoned. -/
def poisonedAt (s : State) (a n : Nat) : Bool := s.memPoison.any fun j => a ≤ j && j < a + n

/-- Mark bytes poisoned. -/
def poisonMem (s : State) (a n : Nat) : State :=
  { s with memPoison := (List.range' a n).foldl sput s.memPoison }

/-! ### Where a flat key lies -/

/-- The key of an offset in a cluster's SRAM (R13). -/
def sramKey (cluster off : Nat) : Nat := 2 ^ 52 + cluster * 2 ^ 22 + off % 2 ^ 22

/-- The key of an offset in a launch's die allocation on a die (R31). -/
def dieKey (launch die off : Nat) : Nat := 2 ^ 56 + (launch * 16 + die) * 2 ^ 32 + off

/-- The key of a byte of a physical pantry slot (R303). -/
def pantryKey (cluster slot byte : Nat) : Nat := 2 ^ 62 + cluster * 2 ^ 20 + slot * 8192 + byte

/-- Where the line of a key is homed (R12, R15, Table 22.1). -/
def homeOf (key : Nat) : Home :=
  if key < 2 ^ 52 then
    match key / 2 ^ 48 with
    | 0 => .die (key / 2 ^ 36 % 16)
    | 1 => .pool
    | 2 => .host
    | _ => .domain (key / 2 ^ 42 % 512)
  else if key < 2 ^ 56 then .sram ((key - 2 ^ 52) / 2 ^ 22)
  else if key < 2 ^ 62 then .die ((key - 2 ^ 56) / 2 ^ 32 % 16)
  else .sram ((key - 2 ^ 62) / 2 ^ 20)

/-- Whether a home is a die's stack. -/
def homeIsDie (h : Home) : Bool := match h with | .die _ => true | _ => false

/-! ### Parts of the state by number -/

/-- The die of a core (R7): 12 clusters of 4 cores. -/
def dieOfCore (c : Nat) : Nat := c / 48

/-- The die of a cluster. -/
def dieOfCluster (c : Nat) : Nat := c / 12

/-- The thread with a key (group number · 2048 + s.tid). -/
def State.thr (s : State) (k : Nat) : Thread := nget s.threads k {}

/-- Change a thread. -/
def State.modThr (s : State) (k : Nat) (f : Thread → Thread) : State := { s with threads := nmod s.threads k f }

/-- Put a thread. -/
def State.setThr (s : State) (k : Nat) (t : Thread) : State := { s with threads := nset s.threads k t }

/-- The group number of a thread's key. -/
def gidOf (k : Nat) : Nat := k / 2048

/-- The index of a thread in its group, s.tid. -/
def tidOf (k : Nat) : Nat := k % 2048

/-- The row of a thread. -/
def rowOf (k : Nat) : Nat := tidOf k / 32

/-- The lane of a thread. -/
def laneOf (k : Nat) : Nat := k % 32

def State.grp (s : State) (g : Nat) : Group := nget s.groups g { launch := 0, index := 0, cluster := 0 }
def State.modGrp (s : State) (g : Nat) (f : Group → Group) : State := { s with groups := nmod s.groups g f }
def State.lch (s : State) (l : Nat) : Launch := nget s.launches l {}
def State.modLch (s : State) (l : Nat) (f : Launch → Launch) : State := { s with launches := nmod s.launches l f }
def State.core (s : State) (c : Nat) : Core := nget s.cores c {}
def State.modCore (s : State) (c : Nat) (f : Core → Core) : State := { s with cores := nset s.cores c (f (s.core c)) }
def State.cluster (s : State) (c : Nat) : Cluster := nget s.clusters c {}
def State.modCluster (s : State) (c : Nat) (f : Cluster → Cluster) : State :=
  { s with clusters := nset s.clusters c (f (s.cluster c)) }
def State.die (s : State) (d : Nat) : Die := nget s.dies d {}
def State.modDie (s : State) (d : Nat) (f : Die → Die) : State := { s with dies := nset s.dies d (f (s.die d)) }
def State.tenant (s : State) (t : Nat) : Tenant := nget s.tenants t {}
def State.modTenant (s : State) (t : Nat) (f : Tenant → Tenant) : State :=
  { s with tenants := nset s.tenants t (f (s.tenant t)) }

/-- The group of a thread. -/
def State.grpOf (s : State) (k : Nat) : Group := s.grp (gidOf k)

/-- The launch of a thread. -/
def State.lchOf (s : State) (k : Nat) : Launch := s.lch (s.grpOf k).launch

/-- The kernel of a thread. -/
def State.kernOf (s : State) (k : Nat) : Kernel := (s.lchOf k).kernel

/-- The core on which a thread runs: its cluster's core number row mod 4 (R19). -/
def State.coreOf (s : State) (k : Nat) : Nat := (s.grpOf k).cluster * 4 + rowOf k % 4

/-- The slot of a thread's row (R17). -/
def State.slotOf (s : State) (k : Nat) : Nat := (s.grpOf k).slots.getD (rowOf k) 0

/-- The die on which a thread runs. -/
def State.dieOf (s : State) (k : Nat) : Nat := dieOfCore (s.coreOf k)

/-- The next number for a record. -/
def State.fresh (s : State) : State := { s with ids := s.ids + 1 }

/-- Draw a free value's counter. -/
def State.drawn (s : State) : State := { s with free := s.free + 1 }

/-- A die is live (DIEMASK, Table 21.2). -/
def State.liveDie (s : State) (d : Nat) : Bool := s.csrs.diemask.getLsbD d

/-- A core may hold groups (R374). -/
def State.liveCore (s : State) (c : Nat) : Bool :=
  c < Config.nCores && (s.core c).fmask.getLsbD 8 && s.liveDie (dieOfCore c)

/-- A core's feature mask, FEAT (Table 21.4). -/
def State.featOf (s : State) (c : Nat) : Nat := (s.core c).fmask.toNat % 32

/-! ### Cycles and beat slots (R21, R98) -/

/-- The quotient, rounded up. -/
def ceilDiv (a b : Nat) : Nat := (a + b - 1) / b

/-- The cycles of a cluster since bring-up (R350): the count at its last change of clock, and those since. -/
def cycleCount (s : State) (cluster : Nat) : Nat :=
  let c := s.cluster cluster
  c.cycles + (s.now - c.cycleAt) * c.mhz / 1250

/-- The beat slots of a cluster's cores that have begun before a tick: at ratio 1 one a cycle, at 2 two, at ½ one in two cycles. -/
def slotsBefore (s : State) (cluster tick : Nat) : Nat :=
  let c := s.cluster cluster
  c.slots + ceilDiv ((tick - c.cycleAt) * c.mhz * 2 ^ c.ratio) 2500

/-- The number of the beat slot that a core may use next. -/
def State.curSlot (s : State) (core : Nat) : Nat := max (s.core core).slot (slotsBefore s (core / 4) s.now)

/-! ### Device time (R24, R381) -/

/-- What a die's copy of device time reads when die 0's reads a tick: held while it waits for die 0 to catch up (R381). -/
def State.onDie (s : State) (d tick : Nat) : Nat :=
  let x := s.die d
  if tick < x.heldTo then x.heldTo else tick + x.ahead - x.behind

/-- Now() on a die. -/
def State.nowOn (s : State) (d : Nat) : Nat := s.onDie d s.now

/-- Now() of a thread. -/
def State.nowOf (s : State) (k : Nat) : Nat := s.nowOn (s.dieOf k)

/-- The launch's start tick (R433). -/
def State.startOf (s : State) (k : Nat) : Nat := ((s.lchOf k).startTick).getD 0

/-- Deterministic mode (R96). -/
def State.det (s : State) (k : Nat) : Bool := (s.thr k).mode.getLsbD 8

/-! ### Registers -/

/-- x[r] (R63: x0 reads as zero). -/
def Thread.x (t : Thread) (r : Nat) : Word := if r = 0 then 0 else nget t.regs r 0

/-- d[r], the low register in the low bits (R56). -/
def Thread.d (t : Thread) (r : Nat) : Double := t.x (r + 1) ++ t.x r

/-- q[r], r the lowest index. -/
def Thread.q (t : Thread) (r : Nat) : Quad := t.d (r + 2) ++ t.d r

/-- Write x[r]: a write to x0 is discarded (R63), any other clears the quad's tag (R120) and the register's poison. -/
def Thread.wr (t : Thread) (r : Nat) (v : Word) : Thread :=
  if r = 0 then t
  else { t with regs := nset t.regs r v, tags := sdel t.tags (r / 4), poison := sdel t.poison r }

/-- Write a part of x[r], the rest unchanged: the poison mark stays (log 21). -/
def Thread.wrPart (t : Thread) (r : Nat) (v : Word) : Thread :=
  if r = 0 then t else { t with regs := nset t.regs r v, tags := sdel t.tags (r / 4) }

/-- Write bit b of x[r]. -/
def Thread.wrBit (t : Thread) (r b : Nat) (v : Bool) : Thread :=
  let m : Word := 1#32 <<< b
  t.wrPart r (if v then t.x r ||| m else t.x r &&& ~~~m)

/-- Write d[r]. -/
def Thread.wrd (t : Thread) (r : Nat) (v : Double) : Thread :=
  (t.wr r (v.extractLsb' 0 32)).wr (r + 1) (v.extractLsb' 32 32)

/-- Write q[r] untagged. -/
def Thread.wrq (t : Thread) (r : Nat) (v : Quad) : Thread :=
  (t.wrd r (v.extractLsb' 0 64)).wrd (r + 2) (v.extractLsb' 64 64)

/-- Write a whole quad and its tag, r its lowest index; q0 is never tagged (R119, R120). -/
def Thread.wrCap (t : Thread) (r : Nat) (c : CapReg) : Thread :=
  let u := (((t.wr r c.w0).wr (r + 1) c.w1).wr (r + 2) c.w2).wr (r + 3) c.w3
  if c.tag && r / 4 != 0 then { u with tags := sput u.tags (r / 4) } else u

/-- Read a whole quad and its tag. -/
def Thread.cap (t : Thread) (r : Nat) : CapReg :=
  { w0 := t.x r, w1 := t.x (r + 1), w2 := t.x (r + 2), w3 := t.x (r + 3), tag := t.tags.contains (r / 4) && r / 4 != 0 }

/-- Write words at rising registers; a destination of x0 discards them all. -/
def Thread.wrWords (t : Thread) (r : Nat) (ws : List Word) : Thread :=
  if r = 0 then t
  else
    match ws with
    | [] => t
    | w :: rest => Thread.wrWords (t.wr r w) (r + 1) rest

/-- A time register (R192). -/
def Thread.t (t : Thread) (i : Nat) : TReg := nget t.treg i {}

/-- Write a time register and end its binding (R193). -/
def Thread.setT (t : Thread) (i : Nat) (v : TReg) : Thread := { t with treg := nset t.treg i v, bound := ndel t.bound i }

/-- Bind a time register to an access: it is set to zero (R193). -/
def Thread.bind (t : Thread) (i : Nat) (id : Nat) : Thread :=
  { t with treg := nset t.treg i {}, bound := nset t.bound i id }

/-- A write by an access to its time register: only while it is bound to it (R193). -/
def Thread.reportT (t : Thread) (i : Nat) (id : Nat) (v : TReg → TReg) : Thread :=
  if nfind t.bound i = some id then { t with treg := nset t.treg i (v (t.t i)) } else t

/-- The delivery of an access ends the binding (R193). -/
def Thread.unbind (t : Thread) (i : Nat) (id : Nat) : Thread :=
  if nfind t.bound i = some id then { t with bound := ndel t.bound i } else t

/-- The 64 bits of a time register (Table 9.1). -/
def TReg.bits (t : TReg) : Double :=
  BitVec.ofNat 64 (t.p.toNat * 2 ^ 63 + t.e.toNat * 2 ^ 62 + t.a.toNat * 2 ^ 61 + t.l.toNat * 2 ^ 60 + t.tick % 2 ^ 60)

/-- A time register from its 64 bits. -/
def TReg.ofBits (v : Double) : TReg :=
  { p := v.getLsbD 63, e := v.getLsbD 62, a := v.getLsbD 61, l := v.getLsbD 60, tick := v.toNat % 2 ^ 60 }

/-- A time register whose word reads it without a stall: P or E set, or unbound (R194). -/
def Thread.knownT (t : Thread) (i : Nat) : Bool := (t.t i).p || (t.t i).e || (nfind t.bound i).isNone

/-- A time register as words read it: unbound with P and E clear reads as P = 1 with TICK 0 (R194). -/
def Thread.readT (t : Thread) (i : Nat) : TReg :=
  let v := t.t i
  if !v.p && !v.e && (nfind t.bound i).isNone then { v with p := true, tick := 0 } else v

/-- Registers marked pending for an access; x0 is never pending (R196). -/
def Thread.mark (t : Thread) (r n id : Nat) : Thread :=
  if r = 0 then t else { t with pend := (List.range' r n).foldl (fun m j => nset m j id) t.pend }

/-- The marks of an access are cleared. -/
def Thread.unmark (t : Thread) (id : Nat) : Thread := { t with pend := t.pend.filter fun p => p.2 ≠ id }

/-- Mark registers poisoned (R214). -/
def Thread.markPoison (t : Thread) (r n : Nat) : Thread :=
  if r = 0 then t else { t with poison := (List.range' r n).foldl sput t.poison }

/-- Step a counter up (R252). -/
def Thread.count (t : Thread) (c : Counter) : Thread :=
  match c with
  | .none => t
  | .loads => { t with loads := t.loads + 1 }
  | .stores => { t with stores := t.stores + 1 }
  | .copies => { t with copies := t.copies + 1 }

/-- Step a counter down (R252). -/
def Thread.uncount (t : Thread) (c : Counter) : Thread :=
  match c with
  | .none => t
  | .loads => { t with loads := t.loads - 1 }
  | .stores => { t with stores := t.stores - 1 }
  | .copies => { t with copies := t.copies - 1 }

/-- Set bits of s.status (R129). -/
def Thread.setStatus (t : Thread) (m : Word) : Thread := { t with status := t.status ||| m }

/-- The bits of s.status (Table 5.10). -/
def statusNRES : Word := 1
def statusDZ : Word := 2
def statusLATE : Word := 4
def statusTHR : Word := 8

/-! ### Machine-check records and host events -/

/-- A die writes a machine-check record, or drops it when its queue is full (R382). A record of a time reload keeps the tick of the last
good comparison (R381). -/
def writeMc (s : State) (r : McRec) : State :=
  let d := s.die r.die
  if d.mcq.length < 256 then
    s.modDie r.die fun x => { x with mcq := x.mcq ++ [{ r with lost := min d.dropped 0xFFFF, tick := if r.cause = 7 then r.tick else s.nowOn r.die }], dropped := 0 }
  else
    { s.modDie r.die fun x => { x with dropped := x.dropped + 1 } with
      csrs := { s.csrs with mclost := s.csrs.mclost ||| (1#32 <<< r.die) } }

/-- The eight words of a machine-check record (Table 21.8). -/
def McRec.words (r : McRec) : List Word :=
  [BitVec.ofNat 32 (2 ^ 31 + r.sev % 4 * 2 ^ 29 + r.die % 16 * 2 ^ 24 + r.unit % 256 * 2 ^ 16 + r.cause % 256 * 2 ^ 8),
   BitVec.ofNat 32 r.tick, BitVec.ofNat 32 (r.tick / 2 ^ 32 % 2 ^ 28), BitVec.ofNat 32 r.addr,
   BitVec.ofNat 32 (r.addr / 2 ^ 32 % 2 ^ 20), BitVec.ofNat 32 (r.who % 2 ^ 20), r.aux, BitVec.ofNat 32 (r.lost % 2 ^ 16)]

/-- The bytes of words, each little-endian (R5). -/
def bytesOfWords (ws : List Word) : List Byte := ws.flatMap fun w => bytesOfNat w.toNat 4

/-- The number of entries of the event ring: its size register holds the log2 (R423). -/
def Ring.entries (r : Ring) : Nat := 2 ^ (r.size.toNat % 32)

/-- No entry is free, or no ring is set up: the head and the tail count the entries written and read (log 86). -/
def Ring.full (r : Ring) : Bool := r.size.toNat < 4 || r.entries ≤ (r.head - r.tail).toNat

/-- An event goes to the ring in host memory, or is dropped when the ring is full (R423, Table 24.3). -/
def postEvent (s : State) (code die who : Nat) (aux : Word) : State :=
  let r := s.ring
  if r.full then { s with ring := { r with lost := r.lost + 1 } }
  else
    let a := 2 * 2 ^ 48 + (r.baseH.toNat % 2 ^ 16 * 2 ^ 32 + r.baseL.toNat + 32 * (r.head.toNat % r.entries)) % 2 ^ 48
    let w := [BitVec.ofNat 32 (2 ^ 31 + die % 16 * 2 ^ 24 + code % 2 ^ 16), BitVec.ofNat 32 s.now,
      BitVec.ofNat 32 (s.now / 2 ^ 32 % 2 ^ 28), 0, 0, BitVec.ofNat 32 (who % 2 ^ 20), aux, 0]
    { wrBytes s a (bytesOfWords w) with ring := { r with head := r.head + 1 } }

/-- A record, and the event that the queue is no longer empty (R382, Table 24.3 code 12). -/
def machineCheck (s : State) (r : McRec) : State :=
  let s' := writeMc s r
  if (s.die r.die).mcq.isEmpty then postEvent s' 12 r.die r.who 0 else s'

/-! ### Translation (R385 to R393) -/

/-- The number of bytes of a page by its size code (Table 16.7). -/
def pageBytes (size : Nat) : Nat :=
  match size with
  | 0 => 2 ^ 12
  | 1 => 2 ^ 16
  | 2 => 2 ^ 21
  | 3 => 2 ^ 25
  | 4 => 2 ^ 30
  | _ => 2 ^ 34

/-- The fields of a table entry (Table 22.3). -/
def pteV (e : Double) : Bool := e.getLsbD 63
def pteState (e : Double) : Nat := (e.extractLsb' 60 3).toNat
def pteSize (e : Double) : Nat := (e.extractLsb' 57 3).toNat
def pteNoPg (e : Double) : Bool := e.getLsbD 56
def pteNoDis (e : Double) : Bool := e.getLsbD 55
def ptePin (e : Double) : Bool := e.getLsbD 54
def pteNoCow (e : Double) : Bool := e.getLsbD 53
def pteIl (e : Double) : Bool := e.getLsbD 52
/-- FRAME as a physical address -/
def pteFrame (e : Double) : Nat := (e.extractLsb' 12 40).toNat * 4096

/-- An address of HBM4E (Table 22.1). -/
def inStack (pa : Nat) : Bool := pa / 2 ^ 40 == 0

/-- A frame that meets a die's reference-count table, the top 32 MiB of its stack (R386). -/
def inCounts (pa size : Nat) : Bool := inStack pa && pa % 2 ^ 36 + size > 0xFFE000000

/-- A physical address of a range that is not reserved (Table 22.1). -/
def inMap (pa : Nat) : Bool :=
  match pa / 2 ^ 48 with
  | 0 => inStack pa
  | 1 | 2 => true
  | n => n ≥ 8 && pa / 2 ^ 42 % 512 < 288

/-- The level of a leaf size (Table 22.2). -/
def sizeLevel (size : Nat) : Nat :=
  match size with
  | 0 | 1 => 1
  | 2 | 3 => 2
  | 4 | 5 => 3
  | _ => 0

/-- An entry with V = 1 that the walk treats as not mapped (R389). -/
def pteBad (e : Double) (level : Nat) : Bool :=
  let st := pteState e
  let fr := pteFrame e
  st == 7 || (st == 6 && level == 1) || (st != 6 && level == 4) ||
    (if st == 6 then pteSize e != 0 || !inStack fr else sizeLevel (pteSize e) != level) ||
    ((st == 0 || st == 1 || st == 2 || st == 5) && (fr % pageBytes (pteSize e) != 0 || !inMap fr || inCounts fr (pageBytes (pteSize e)))) ||
    ((st == 3 || st == 4) && fr / 2 ^ 40 != 0) || (st == 3 && fr % 2 ^ 36 != 0)

/-- The address of the entry that a walk indexes in a table (Table 22.2). -/
def pteAddr (table level va : Nat) : Nat :=
  table + 8 * (va / 2 ^ (12 + 9 * (level - 1)) % (if level = 4 then 8192 else 512))

/-- What one level of a walk gives (R391). -/
inductive WalkStep where
  | down (table : Nat)
  | stop (r : WalkRes)
  deriving DecidableEq, Repr

/-- Read one level of a walk as memory stands (R391). A table page with an uncorrectable error gives not mapped (Table 21.7, unit
11). -/
def walkLevel (s : State) (table level va : Nat) : WalkStep :=
  let a := pteAddr table level va
  let e := BitVec.ofNat 64 (rdNat s a 8)
  if poisonedAt s a 8 || !pteV e || pteBad e level then .stop .notMapped
  else if pteState e = 6 then .down (pteFrame e)
  else .stop (.leaf { raw := e, entry := a, level := level })

/-- The die that homes a physical address of a table. -/
def tableDie (pa : Nat) : Nat := pa / 2 ^ 36 % 16

/-- A walk made at once: for the device's own accesses (trap slots, units of transfers, page operations; log 14). -/
def walkFrom (s : State) (fuel table level va : Nat) : WalkRes :=
  match fuel with
  | 0 => .notMapped
  | fuel + 1 =>
    match walkLevel s table level va with
    | .down t => walkFrom s fuel t (level - 1) va
    | .stop r => r

/-- A walk of a tenant's tables; a root address of 0 maps nothing (R387). -/
def walk (s : State) (tenant va : Nat) : WalkRes :=
  if (s.tenant tenant).root = 0 then .notMapped else walkFrom s 4 (s.tenant tenant).root 4 va

/-- The entry with an uncorrectable error that a walk meets (Table 21.7, unit 11). -/
def walkError (s : State) (fuel table level va : Nat) : Option Nat :=
  match fuel with
  | 0 => none
  | fuel + 1 =>
    let a := pteAddr table level va
    if poisonedAt s a 8 then some a
    else
      match walkLevel s table level va with
      | .down t => walkError s fuel t (level - 1) va
      | .stop _ => none

/-- A walk of the device's own that meets such an entry writes the record of it. -/
def noteWalk (s : State) (tenant va who : Nat) : State :=
  match (if (s.tenant tenant).root = 0 then none else walkError s 4 (s.tenant tenant).root 4 va) with
  | some a => machineCheck s { cause := 2, sev := 1, unit := 11, die := a / 2 ^ 36 % 16, addr := a, who := who }
  | none => s

/-- The size of a leaf's page. -/
def Leaf.size (l : Leaf) : Nat := pteSize l.raw

/-- The state of a leaf. -/
def Leaf.state (l : Leaf) : Nat := pteState l.raw

/-- The first of the entries of a leaf: of a page that spans 16 (R390), else its own. -/
def Leaf.base (l : Leaf) : Nat := if l.size = 1 ∨ l.size = 3 ∨ l.size = 5 then l.entry / 128 * 128 else l.entry

/-- The key that a leaf gives for an address. -/
def Leaf.key (l : Leaf) (va : Nat) : Nat := pteFrame l.raw + va % pageBytes l.size

/-- Whether a leaf serves loads: resident, shared, migrating or pool (R394). -/
def Leaf.present (l : Leaf) : Bool := l.state = 0 || l.state = 1 || l.state = 2 || l.state = 5

/-- The entry that serves a 16-entry page: the walk's own, or where the 16 differ any of them (R390, log 9). -/
def spanLeaf (s : State) (l : Leaf) : Leaf :=
  if l.size = 1 ∨ l.size = 3 ∨ l.size = 5 then
    let base := l.entry / 128 * 128
    let all := (List.range 16).map fun j => BitVec.ofNat 64 (rdNat s (base + 8 * j) 8)
    if all.all (· = l.raw) then l
    else
      let j := (Config.freeSpan s.free).val
      let e := all.getD j l.raw
      if pteV e && !pteBad e l.level && pteSize e = l.size && pteState e ≠ 6 then
        { l with raw := e, entry := base + 8 * j }
      else l
  else l

/-- Whether an entry of a TLB, or a lane's last-page register, maps an address of a tenant (R208, R393). -/
def TlbEntry.maps (e : TlbEntry) (tenant va : Nat) : Bool := e.tenant = tenant && e.base = va / pageBytes e.size * pageBytes e.size

/-- The translation that a lane's last-page register or its core's TLB holds (R208, R393). -/
def tlbFind (s : State) (core lane tenant va : Nat) : Option Leaf :=
  let c := s.core core
  match (nfind c.lanePage lane).filter fun e => e.maps tenant va with
  | some e => some e.leaf
  | none => (c.tlb.find? fun e => e.maps tenant va).map (·.leaf)

/-- A lane's last-page register holds its most recent translation (R208), if its state may be cached (R393). -/
def lanePageSet (s : State) (core lane tenant va : Nat) (l : Leaf) : State :=
  if l.present then
    s.modCore core fun c =>
      { c with lanePage := nset c.lanePage lane { tenant, base := va / pageBytes l.size * pageBytes l.size, size := l.size, leaf := l } }
  else s

/-- A walk's leaf enters the core's TLB if its state may be cached (R393). -/
def tlbFill (s : State) (core tenant va : Nat) (l : Leaf) : State :=
  if l.present then
    s.modCore core fun c =>
      { c with tlb := ({ tenant, base := va / pageBytes l.size * pageBytes l.size, size := l.size, leaf := l } :: c.tlb).take 2048 }
  else s

/-- The addresses that an entry of a level maps, as the upper bits that they share (Table 22.2). -/
def levelSpan (level va : Nat) : Nat := va / 2 ^ (12 + 9 * (level - 1))

/-- Whether a space is translated through page tables: global, private, constant (R385). -/
def translated (space : Nat) : Bool := space == 0 || space == 2 || space == 3

/-- The virtual address that the tables translate: in private space the offset in the window that the launch maps for the owner, at a free
page of its tenant's space (R385, log 10). -/
def State.tva (s : State) (k space a : Nat) : Nat :=
  if space = 2 then (Config.freeWindow (s.lchOf k).tenant (s.thr k).owner * 4096 + a) % 2 ^ 52 else a

/-- A sweep, of one address or of all, reaches what a walk in flight has read: its leaf on the way back, or the table entry by which it came down
(R364, R393). -/
def walkSwept (s : State) (va : Option Nat) (r : Ret) : Bool :=
  let a := s.tva r.th r.space r.va
  match r.phase with
  | .walk _ level _ => level < 4 && va.all fun v => levelSpan (level + 1) v = levelSpan (level + 1) a
  | .back _ (.leaf l) => va.all fun v => v / pageBytes l.size = a / pageBytes l.size
  | _ => false

/-- What a sweep does to walks: the leaves that they have brought to held words are not used any more, and those in flight that it reaches walk again
(R228, R364, R393). -/
def dropWalked (s : State) (va : Option Nat) : State :=
  { s with
    threads := s.threads.map fun p => if p.2.walked.isSome then (p.1, { p.2 with walked := none }) else p
    rets := s.rets.map fun p => if walkSwept s va p.2 then (p.1, { p.2 with swept := true }) else p }

/-- TLBINV.all on every core and base die (R364): the TLBs, every lane's register, the caches of table entries (R208, R393). -/
def sweepAll (s : State) : State :=
  dropWalked { s with
    cores := s.cores.map fun p => (p.1, { p.2 with tlb := [], lanePage := [] })
    dies := s.dies.map fun p => (p.1, { p.2 with tableCache := [] }) } none

/-- TLBINV.page: every entry, at every size and of every tenant, that maps the address, in the TLBs, every lane's register and the caches of table entries
(R208, R364, R393). -/
def sweepPage (s : State) (va : Nat) : State :=
  let keep (e : TlbEntry) : Bool := e.base ≠ va / pageBytes e.size * pageBytes e.size
  dropWalked { s with
    cores := s.cores.map fun p => (p.1, { p.2 with tlb := p.2.tlb.filter keep, lanePage := p.2.lanePage.filter fun q => keep q.2 })
    dies := s.dies.map fun p => (p.1, { p.2 with tableCache := p.2.tableCache.filter fun e => e.va ≠ levelSpan e.level va }) } (some va)

/-- The key of an address at once, for the device's own accesses: none where nothing is mapped or the page is not present. -/
def keyNow (s : State) (tenant va : Nat) : Option Nat :=
  match walk s tenant va with
  | .leaf l => if l.present then some (l.key va) else none
  | .notMapped => none

/-! ### Table entries and frame counts (R395) -/

/-- Where a die's table holds the 16-bit count of a frame (R386, R395). -/
def countKey (frame : Nat) : Nat := frame / 2 ^ 36 * 2 ^ 36 + 0xFFE000000 + 2 * (frame % 2 ^ 36 / 4096)

/-- A frame's count (R395). -/
def State.count (s : State) (frame : Nat) : Nat := rdNat s (countKey frame) 2

/-- Step a frame's count by a leaf that names it, up or down; a count at 65,535 stays (R395). -/
def countLeaf (s : State) (e : Double) (up : Bool) : State :=
  let f := pteFrame e
  if pteV e && pteState e ≤ 2 && inStack f then
    let n := s.count f
    if n = 65535 then s else wrBytes s (countKey f) (bytesOfNat (if up then n + 1 else n - 1) 2)
  else s

/-- The entry at an address that stands for its leaf in the counts: a page that spans 16 is counted once, at the first of them (R390, R395, log 33). -/
def countsAt (a : Nat) (e : Double) : Bool := ({ raw := e, entry := a, level := 0 } : Leaf).base = a

/-- Write a table entry as one update, its counts with it (R370, R395). -/
def writePte (s : State) (a : Nat) (e : Double) : State :=
  let old := BitVec.ofNat 64 (rdNat s a 8)
  let s1 := wrBytes s a (bytesOfNat e.toNat 8)
  let s2 := if countsAt a old then countLeaf s1 old false else s1
  if countsAt a e then countLeaf s2 e true else s2

/-! ### Words of code -/

/-- The address, in the launch's code, of a word; in system mode, of the system extent (R72, R360). -/
def codeAddr (s : State) (k i : Nat) : Nat :=
  if (s.thr k).sys then
    s.csrs.sexth.toNat % 2 ^ 20 * 2 ^ 32 + s.csrs.sextl.toNat + 8 * i
  else
    let c := (s.lchOf k).kcap
    (c.w1.toNat % 2 ^ 20 * 2 ^ 32 + c.w0.toNat + 64 + 8 * i) % 2 ^ 52

/-- The number of words of the extent in which a thread runs. -/
def extentOf (s : State) (k : Nat) : Nat :=
  if (s.thr k).sys then s.csrs.sextn.toNat else (s.kernOf k).extent

/-- The number by which an instruction cache knows a word: its tenant and its address. -/
def codeTag (s : State) (k i : Nat) : Nat := (s.lchOf k).tenant * 2 ^ 52 + codeAddr s k i

/-- Fetch a word: as the core's instruction cache holds it, else as memory does; none where its page is not present. A word written during
its launch may be fetched as the old or as the new one (R82): the model fetches what the cache took in when the word first issued there
(log 91). -/
def fetch (s : State) (k i : Nat) : Option Code :=
  match nfind (s.core (s.coreOf k)).icache (codeTag s k i) with
  | some w => some w
  | none =>
    match keyNow s (s.lchOf k).tenant (codeAddr s k i) with
    | some key => some (BitVec.ofNat 64 (rdNat s key 8))
    | none => none

/-- A word that a thread has fetched stands in its core's instruction cache (R98); a full one loses another word (log 91). -/
def cacheWord (s : State) (k i : Nat) : State :=
  match fetch s k i with
  | none => s
  | some w =>
    s.modCore (s.coreOf k) fun c =>
      if (nfind c.icache (codeTag s k i)).isSome then c
      else { c with icache := nset (if c.icache.length < Config.icacheWords then c.icache else c.icache.drop 1) (codeTag s k i) w }

/-- The fields of a header word (Table 3.5). -/
def hdrLen (w : Code) : Nat := (w.extractLsb' 46 10).toNat
def hdrLive (w : Code) : Nat := (w.extractLsb' 37 9).toNat
def hdrReconv (w : Code) : Int := (w.extractLsb' 21 16).toInt
def hdrPf (w : Code) : Nat := (w.extractLsb' 15 6).toNat
def hdrIdem (w : Code) : Bool := w.getLsbD 14
def hdrFeat (w : Code) : Nat := (w.extractLsb' 9 5).toNat
def hdrTl (w : Code) : Nat := (w.extractLsb' 4 5).toNat
def isHeader (w : Code) : Bool := (w.extractLsb' 56 8).toNat == 0xFF

/-- Whether word `target` is a block start: reached from block start `h` by the lengths of the headers (R72). The spec does not say what a
header of that chain is that lies on a page which is not present: the model reaches no block start through it, so that a target beyond it is
a bad target (R89), and a RECONV a bad header (log 18). -/
def blockFrom (s : State) (k fuel h target : Nat) : Bool :=
  match fuel with
  | 0 => false
  | fuel + 1 =>
    if h = target then true
    else if h > target then false
    else
      match fetch s k h with
      | some w => if isHeader w then blockFrom s k fuel (h + hdrLen w + 1) target else false
      | none => false

/-- Whether an index is a block start of the extent (R68, R72). -/
def isBlockStart (s : State) (k : Nat) (target : Nat) : Bool :=
  target < extentOf s k && blockFrom s k (target + 1) 0 target

/-- The block start at or before a word, and its header (R72). -/
def blockOf (s : State) (k fuel h i : Nat) : Option (Nat × Code) :=
  match fuel with
  | 0 => none
  | fuel + 1 =>
    match fetch s k h with
    | some w => if !isHeader w then none else if i ≤ h + hdrLen w then some (h, w) else blockOf s k fuel (h + hdrLen w + 1) i
    | none => none

/-- Whether the chain of headers up to a word meets one on a page that is not present (log 18). -/
def chainAbsent (s : State) (k fuel h i : Nat) : Bool :=
  match fuel with
  | 0 => false
  | fuel + 1 =>
    match fetch s k h with
    | some w => isHeader w && h + hdrLen w < i && chainAbsent s k fuel (h + hdrLen w + 1) i
    | none => true

/-- A thread that returned to a word finds its block: at the block's start its header is entered, elsewhere its word is issued (R376). -/
def seekBlock (s : State) (k : Nat) (t : Thread) : Thread :=
  match blockOf s k (t.pc + 1) 0 t.pc with
  | some (h, w) => { t with atHeader := h == t.pc, hdr := h, hdrWord := w, seek := false }
  | none => { t with atHeader := false, seek := chainAbsent s k (t.pc + 1) 0 t.pc }

/-- The time registers a thread may name (R63, R360). -/
def tregsOf (s : State) (k : Nat) : Nat := if (s.thr k).sys then 16 else (s.kernOf k).tregs

/-- The features that a header may declare: the kernel's (R71), in the system extent too (log 15). -/
def kfeatOf (s : State) (k : Nat) : Nat := (s.kernOf k).feat

/-- A bad header (R72): word `h` holds `w`. -/
def headerBad (s : State) (k h : Nat) (w : Code) : Bool :=
  let target := (h : Int) + hdrReconv w
  hdrLen w == 0 || h + hdrLen w + 1 > extentOf s k || hdrLive w ≥ (s.kernOf k).regs || hdrTl w > tregsOf s k ||
    w.extractLsb' 0 4 != 0 || (hdrFeat w &&& kfeatOf s k) != hdrFeat w ||
    (hdrReconv w != 0 && (target < 0 || !isBlockStart s k target.toNat))

/-! ### Killing a group (R383) -/

/-- The threads of a group, by key. -/
def threadsOf (s : State) (g : Nat) : List Nat := (s.threads.filter fun p => gidOf p.1 = g).map (·.1)

/-- A pass is stopped before a step, with an outcome, at a tick: it is granted neither that step nor a later one (R317). -/
def Pass.halt (p : Pass) (step : Nat) (o : Nat × Nat) (tick : Nat) : Pass :=
  if p.done.isNone && step < p.limit then { p with limit := step, stop := some o, stopAt := tick } else p

/-- A pass that is not yet complete is cancelled: it is granted no further step (R323). -/
def Pass.cancel (p : Pass) : Pass := if p.done.isSome then p else { p with limit := p.granted, stop := some (2, 0) }

/-- A unit of a transfer is written: both updates of one that a page border cuts (R286). -/
def Xfer.unitDone (x : Xfer) (u : Nat) : Bool := x.moved.contains u && (!x.cut.contains u || x.moved.contains (x.units + u))

/-- A transfer whose last unit is not yet applied is cancelled (R293). -/
def Xfer.cancel (x : Xfer) : Xfer :=
  if x.stop.isSome || (List.range x.units).all x.unitDone then x else { x with stop := some (2, 0) }

/-- A transfer that writes units one by one, a copy or SLOTRD: what it has started it completes (R294). -/
def Xfer.writes (x : Xfer) : Bool := match x.kind with | .copy _ | .slotOut _ => true | _ => false

/-- Kill a group: every thread stops at once, staged entries are discarded, copies, SLOTRDs and passes cancelled, loads discarded with the
transfers that they are for; what remains is freed when its stores have retired (R383, R294, R331). -/
def killGroup (s : State) (g cause who : Nat) : State :=
  match nfind s.groups g with
  | none => s
  | some gr =>
    match gr.residency with
    | .killed _ _ => s
    | _ =>
      { s with
        threads := s.threads.filter fun p => gidOf p.1 ≠ g
        rets := s.rets.filter fun p => gidOf p.2.th ≠ g
        upds := s.upds.filter fun p => !(p.2.phase == .staged && p.2.th.any fun k => gidOf k == g)
        xfers := (s.xfers.filter fun p => p.2.group ≠ g || (p.2.started && p.2.writes)).map fun p =>
          if p.2.group = g then (p.1, { p.2.cancel with threads := [] }) else p
        groups := nset s.groups g
          { gr with
            residency := .killed cause who
            stage := []
            queue := gr.queue.filter fun o => match o with | .pass _ => true | _ => false
            passes := gr.passes.map fun p => { p.cancel with threads := [] } } }

/-! ### Taking a trap (R375) and returning from one (R376) -/

/-- The causes of Table 21.6. -/
def causeIllegal : Nat := 1
def causePair : Nat := 2
def causePrivilege : Nat := 3
def causeCapability : Nat := 4
def causeMisaligned : Nat := 5
def causeNonResident : Nat := 6
def causeCow : Nat := 7
def causeCopy : Nat := 8
def causeMatrix : Nat := 9
def causeUser : Nat := 10
def causeLate : Nat := 11
def causeThrottle : Nat := 12
def causeRefused : Nat := 13
def causePoison : Nat := 14

/-- A counter as it reads: min(outstanding, 14) (R252). -/
def counterReads (n : Nat) : Nat := min n 14

/-- s.status with THR, the throttled state of its cluster (R355), which reads 0 in deterministic mode (R129, R353). -/
def statusOf (s : State) (k : Nat) (status : Word) : Word :=
  if (s.cluster (s.grpOf k).cluster).throttled && !s.det k then status ||| statusTHR else status

/-- The context image of a thread as words 0 to 579 (Table 21.3). -/
def imageWords (t : Thread) (status : Word) (regs pc : Nat) (cause : Word) (val addr : Nat) : List Word :=
  let bits (l : List Nat) (base : Nat) : Word :=
    BitVec.ofNat 32 ((List.range 32).foldl (fun n j => if l.contains (base + j) then n + 2 ^ j else n) 0)
  let r := t.refusal.getD { pc := 0, addr := 0, cause := 0 }
  [BitVec.ofNat 32 pc, BitVec.ofNat 32 (regs - 1), t.mode, status,
   BitVec.ofNat 32 (counterReads t.loads + counterReads t.stores * 2 ^ 8 + counterReads t.copies * 2 ^ 16 + counterReads t.passes * 2 ^ 24),
   BitVec.ofNat 32 t.late, cause, BitVec.ofNat 32 val, BitVec.ofNat 32 addr, BitVec.ofNat 32 (addr / 2 ^ 32 % 2 ^ 20),
   BitVec.ofNat 32 r.pc, BitVec.ofNat 32 r.addr, BitVec.ofNat 32 (r.addr / 2 ^ 32 % 2 ^ 20),
   BitVec.ofNat 32 (r.cause % 256 + min r.more (2 ^ 24 - 1) * 256),
   BitVec.ofNat 32 (t.pendLate.toNat + t.pendThrStart.toNat * 2 + t.pendThrEnd.toNat * 4 + t.refusal.isSome.toNat * 8),
   BitVec.ofNat 32 t.owner] ++
  (List.range 4).map (fun j => bits t.tags (32 * j)) ++
  (List.range 16).map (fun j => bits t.poison (32 * j)) ++
  (List.range 16).flatMap (fun i => [((t.t i).bits).extractLsb' 0 32, ((t.t i).bits).extractLsb' 32 32]) ++
  (List.range 512).map (fun r => if r < regs then t.x r else 0)

/-- The address of a thread's trap slot (R375). -/
def trapSlot (s : State) (t : Thread) : Nat :=
  (s.csrs.tbaseh.toNat % 2 ^ 20 * 2 ^ 32 + s.csrs.tbasel.toNat + 4096 * (t.owner / 2)) % 2 ^ 52

/-- The capability that q1 receives: global, LD ST, base and cursor the slot, length 4,096, that is e 7 and m 0 (R375, R120). -/
def slotCap (slot : Nat) : CapReg :=
  { w0 := BitVec.ofNat 32 slot
    w1 := BitVec.ofNat 32 (slot / 2 ^ 32 % 2 ^ 20 + 2 ^ 23 + 2 ^ 24)
    w2 := BitVec.ofNat 32 slot
    w3 := BitVec.ofNat 32 (7 * 2 ^ 26 + slot / 2 ^ 32 % 2 ^ 20)
    tag := true }

/-- The CAUSE word (Table 21.3 w6). -/
def causeWord (cause sub : Nat) (second : Bool) : Word :=
  BitVec.ofNat 32 (cause % 64 * 2 ^ 26 + sub % 64 * 2 ^ 20 + second.toNat * 2 ^ 19)

/-- A word of the extent in which a thread runs, as a reconvergence target names it: those of the system extent lie 2^40 above (R85, R360). -/
def Thread.spot (t : Thread) (i : Nat) : Nat := if t.sys then 2 ^ 40 + i else i

/-- The thread as the handler finds it (R375). DET stays, as the kernel's own bit (log 16); what is outstanding stays live. PEND and the
refusal record have gone into the image: what falls due in the handler is joined to them at SRET (log 90). The reconvergence target stays: only arrival there, or a newer one, ends it (R85); the hold ends with the thread's leaving its header (DESIGN CHOICE, log 110). -/
def Thread.enterTrap (t : Thread) (slot stvec : Nat) (cause : Word) (val addr : Nat) : Thread :=
  let z : Thread :=
    { t with
      regs := [], tags := [], poison := [], treg := [], bound := [], mode := t.mode &&& 0x100
      sys := true, pc := stvec, atHeader := true, held := false, wait := .none, acquire := none, faultWaits := false
      walking := false, walked := none, pageHold := none, cowRefused := false, freshWalk := false
      pendLate := false, pendThrStart := false, pendThrEnd := false, refusal := none }
  (((z.wr 1 cause).wr 2 (BitVec.ofNat 32 val)).wr 3 (BitVec.ofNat 32 addr)).wrCap 4 (slotCap slot)

/-- A thread ends (R94): what is in flight to its registers is discarded on arrival. -/
def endThread (s : State) (k : Nat) : State :=
  { s.modThr k fun t => { t with life := .exited, pend := [], wait := .none, held := false, reconv := none } with
    rets := s.rets.map fun p => if p.2.th = k then (p.1, { p.2 with discard := true }) else p }

/-- A thread is one of a replay (R406). -/
def replaying (s : State) (k : Nat) : Bool := (s.grpOf k).replays.isSome

/-- A replay diverges in a thread: the thread ends, and its row position counts as a mismatch (R406). -/
def diverge (s : State) (k : Nat) : State := (endThread s k).modGrp (gidOf k) fun g => { g with diverged := sput g.diverged (rowOf k % 4) }

/-- Deliver a fault or trap to the handler (R375); in a replay, which takes none that the original did not, the thread diverges (R406). A double fault, a delivery while SEXTN = 0, and one whose trap slot cannot be
written kill the group (R378, R383, log 17). `pc` is what Table 21.6 gives for the image. -/
def deliver (s : State) (k pc cause sub : Nat) (second : Bool) (val addr : Nat) : State :=
  let t := s.thr k
  let slot := trapSlot s t
  if replaying s k then diverge s k else
  match t.sys || s.csrs.sextn == 0, keyNow s (s.lchOf k).tenant slot with
  | false, some key =>
    let cw := causeWord cause sub second
    let img := bytesOfWords (imageWords t (statusOf s k t.status) (s.kernOf k).regs pc cw val addr)
    let s1 := wrBytes s key img
    let s2 := s1.modGrp (gidOf k) fun g => { g with sysSeen := true }
    s2.setThr k (t.enterTrap slot s.csrs.stvec.toNat cw val addr)
  | false, none => killGroup (noteWalk s (s.lchOf k).tenant slot t.owner) (gidOf k) 16 t.owner
  | true, _ => killGroup s (gidOf k) 16 t.owner

/-- A word of an image. -/
def imgWord (img : List Byte) (n : Nat) : Word := BitVec.ofNat 32 (natOfBytes ((img.drop (4 * n)).take 4))

/-- The numbers of the set bits of words of an image, from word `w0` on. -/
def imgBits (img : List Byte) (w0 n : Nat) : List Nat :=
  (List.range n).filter fun j => (imgWord img (w0 + j / 32)).getLsbD (j % 32)

/-- An image that may be restored: the thread's owner and register count, reserved bits zero (R365). -/
def imageValid (t : Thread) (regs : Nat) (img : List Byte) : Bool :=
  (imgWord img 15).toNat == t.owner && (imgWord img 1).toNat == regs - 1 && (imgWord img 14).toNat < 16 &&
    (imgWord img 9).toNat < 2 ^ 20 && (imgWord img 12).toNat < 2 ^ 20 && (imgWord img 6).toNat % 2 ^ 19 == 0 &&
    (imgWord img 2).toNat &&& 0xFFFFFEF0 == 0 && (imgWord img 3).toNat < 16 && (imgWord img 5).toNat < 2 ^ 16

/-- The thread that a valid image gives: registers, time registers unbound, mode but for DET, status, late counter, refusal
record, tags, poison (R365). -/
def Thread.restore (t : Thread) (regs : Nat) (img : List Byte) : Thread :=
  let xs := (List.range regs).filterMap fun r => if r = 0 then none else some (r, imgWord img (68 + r))
  let ts := (List.range 16).map fun i => (i, TReg.ofBits (imgWord img (37 + 2 * i) ++ imgWord img (36 + 2 * i)))
  { t with
    regs := xs, treg := ts, bound := []
    tags := (imgBits img 16 128).filter (· ≠ 0)
    poison := (imgBits img 20 512).filter (· ≠ 0)
    mode := (t.mode &&& 0x100) ||| (imgWord img 2 &&& 0xF)
    status := imgWord img 3 &&& 0x7
    late := (imgWord img 5).toNat
    refusal :=
      if (imgWord img 14).getLsbD 3 then
        some { pc := (imgWord img 10).toNat, addr := (imgWord img 12).toNat * 2 ^ 32 + (imgWord img 11).toNat,
               cause := (imgWord img 13).toNat % 256, more := (imgWord img 13).toNat / 256 }
      else none }

/-- Whether an update is not yet applied. -/
def Upd.unapplied (u : Upd) : Bool := match u.phase with | .applied _ | .far _ => false | _ => true

/-- The stores that a read of a thread takes before memory: its own, issued before number `before` and not yet applied (R202), and
those that its group has staged (R217). -/
def ownStore (k before id : Nat) (u : Upd) : Bool :=
  match u.th, u.kind with
  | some h, .store _ _ =>
    id < before && u.unapplied && ((h == k && u.xfer.isNone) || (gidOf h == gidOf k && u.phase == .staged))
  | _, _ => false

/-- Stores laid over bytes read at a key, in order of issue. -/
def overlay (us : NMap Upd) (key : Nat) (bs : List Byte) : List Byte :=
  us.foldl (fun acc p =>
    match p.2.kind with
    | .store data _ =>
      acc.mapIdx fun i b => if p.2.key ≤ key + i && key + i < p.2.key + p.2.bytes then data.getD (key + i - p.2.key) b else b
    | _ => acc) bs

/-- What a thread's read of bytes at a key takes from its own and its group's stores (R202, R217). -/
def overlayOwn (s : State) (k before key : Nat) (bs : List Byte) : List Byte :=
  overlay (s.upds.filter fun p => ownStore k before p.1 p.2) key bs

/-- The refusals that an image holds, and those that came while the handler ran (R240, log 90). -/
def joinRefusals (old new : Option RefRec) : Option RefRec :=
  match old, new with
  | some r, some n => some { r with more := r.more + n.more + 1 }
  | some r, none => some r
  | none, n => n

/-- Return from a trap (R376): the image in the thread's slot is read as its own load and restored, PEND with it, joined to what fell due in
the handler (R378, log 90); the thread goes back to user mode at PC. A bad image, or a PC outside the extent, is a double fault. Where a header of the
chain that leads to PC lies on an absent page, the thread waits until its block can be found (log 18). The word of a refused copy-on-write walks again (R401). -/
def returnTrap (s : State) (k : Nat) : State :=
  let t := s.thr k
  match keyNow s (s.lchOf k).tenant (trapSlot s t) with
  | none => killGroup (noteWalk s (s.lchOf k).tenant (trapSlot s t) t.owner) (gidOf k) 16 t.owner
  | some key =>
    let img := overlayOwn s k s.ids key (rdBytes s key 2320)
    let regs := (s.kernOf k).regs
    let pc := (imgWord img 0).toNat
    if !imageValid t regs img || pc ≥ (s.kernOf k).extent || poisonedAt s key 2320 then killGroup s (gidOf k) 16 t.owner
    else
      let p := imgWord img 14
      let u := { t.restore regs img with
        pendLate := p.getLsbD 0 || t.pendLate, pendThrStart := p.getLsbD 1 || t.pendThrStart
        pendThrEnd := p.getLsbD 2 || t.pendThrEnd, refusal := joinRefusals (t.restore regs img).refusal t.refusal
        freshWalk := (imgWord img 6).toNat / 2 ^ 26 = causeCow, sys := (s.lchOf k).system, pc := pc, held := false }
      let s1 := s.setThr k u
      let v := seekBlock s1 k u
      s1.setThr k (if v.atHeader && v.reconv == some (v.spot pc) then { v with reconv := none, held := true } else v)

/-! ### The replay log (R403, R404) -/

/-- The rank of a digest record: (tid, n) (R407). -/
def DigRec.rank (r : DigRec) : Nat := r.tid * 2 ^ 32 + r.n

/-- A group's log grows by some bytes and by what `put` adds; past 256 KiB the group logs no more, and keeps no log (R403). -/
def logPut (s : State) (g n : Nat) (put : Group → Group) : State :=
  s.modGrp g fun gr =>
    if !gr.selected || gr.logFull then gr
    else if gr.logBytes + n > 262144 then { gr with logFull := true, log := [], unitLog := [], start := [] }
    else put { gr with logBytes := gr.logBytes + n }

/-- Bytes that an audited group takes into its replay log. -/
def logBytes (s : State) (g n : Nat) : State := logPut s g n id

/-- An entry of a thread's log (R404). -/
def logEntry (s : State) (k n : Nat) (e : LogEntry) : State :=
  logPut s (gidOf k) n fun gr => { gr with log := nset gr.log (tidOf k) (nget gr.log (tidOf k) [] ++ [e]) }

/-- Units that a transfer of a group has read, each by its number (R404). -/
def logUnits (s : State) (g key : Nat) (ps : NMap Piece) : State :=
  logPut s g 0 fun gr => { gr with unitLog := nset gr.unitLog key (ps.foldl (fun m p => nset m p.1 p.2) (nget gr.unitLog key [])) }

/-- The last entry of a thread's log receives the values that ended the word's wait. -/
def logWords (s : State) (k : Nat) (ws : List Word) : State :=
  logPut s (gidOf k) 0 fun gr =>
    match (nget gr.log (tidOf k) []).reverse with
    | e :: r => { gr with log := nset gr.log (tidOf k) (r.reverse ++ [{ e with words := ws }]) }
    | [] => gr

/-- A word that is to be executed again leaves the log (R302). -/
def logDrop (s : State) (k : Nat) : State :=
  logPut s (gidOf k) 0 fun gr => { gr with log := nset gr.log (tidOf k) (nget gr.log (tidOf k) []).dropLast }

/-- The entries that wait for a return receive what it brings. -/
def fillEntries (id : Nat) (f : LogEntry → LogEntry) (l : NMap (List LogEntry)) : NMap (List LogEntry) :=
  l.map fun p => (p.1, p.2.map fun e => if e.wait = some id then f e else e)

/-- The registers of a replay's thread that wait for a return of the original receive what it has brought, the tag of an LD.128 with it, or the time register
what MSTAT.time has given (R406, R416, R127). -/
def Thread.replayLand (t : Thread) (id : Nat) (ws : List Word) (tag : Bool) (time : Option TReg) : Thread :=
  let rs := (t.pend.filter fun p => p.2 = id).map (·.1)
  let u := (rs.zip ws).foldl (fun u p => u.wr p.1 p.2) (t.unmark id)
  let v := if tag && rs.length = 4 then { u with tags := sput u.tags (rs.headD 0 / 4) } else u
  match time with
  | some x => (v.bound.filter fun p => p.2 = id).foldl (fun v p => v.setT p.1 x) v
  | none => v

/-- A return has landed in a thread of an original: its entry has its values, in the group's log, in the audits of its segments, and in the replay
that runs beside it (R404, R416). -/
def logLanded (s : State) (k id : Nat) (ws : List Word) (tag absent : Bool) (time : Option TReg := none) : State :=
  let g := gidOf k
  if !(s.grp g).selected then s
  else
    let f (e : LogEntry) : LogEntry := { e with words := ws, tag := tag, absent := absent, time := time, wait := none }
    let mine (a : Nat) : Bool := (nfind s.audits a).any fun x => x.segment == some g
    let s1 := s.modGrp g fun x => { x with log := fillEntries id f x.log }
    let s2 : State := { s1 with audits := s1.audits.map fun p : Nat × Audit => if mine p.1 then (p.1, { p.2 with log := fillEntries id f p.2.log }) else p }
    s2.groups.foldl (fun (x : State) (p : Nat × Group) =>
      if p.2.replays.any mine then
        (x.modGrp p.1 fun y => { y with log := fillEntries id f y.log }).modThr (p.1 * 2048 + tidOf k) fun t => t.replayLand id ws tag time
      else x) s2

end Sys2Proof.Machine
end

