-- ==== Sys2Proof/Machine/Operands.lean ====
section
/-! DEFINITION. How words read their operands: capabilities (Table 5.6, R119 to R127), the checks of an access (Table 5.8), the
keys of addresses, shift counts, immediates, and guards. -/

namespace Sys2Proof.Machine

/-! ### Capabilities -/

/-- The fields of a capability (Table 5.6). -/
def CapReg.e (c : CapReg) : Nat := (c.w3.extractLsb' 26 6).toNat
def CapReg.m (c : CapReg) : Nat := (c.w3.extractLsb' 20 6).toNat
def CapReg.space (c : CapReg) : Nat := (c.w1.extractLsb' 20 3).toNat
/-- LD, ST, AT, CL, CS, XL from bit 0 up -/
def CapReg.perms (c : CapReg) : BitVec 6 := c.w1.extractLsb' 23 6
def CapReg.cursor (c : CapReg) : Nat := (c.w1.extractLsb' 0 20).toNat * 2 ^ 32 + c.w0.toNat
/-- the owner of a private capability (R125) -/
def CapReg.ownerField (c : CapReg) : Nat := (c.w3.extractLsb' 0 20).toNat
/-- the base: for private space, base[31:0] alone (R125) -/
def CapReg.base (c : CapReg) : Nat := if c.space = 2 then c.w2.toNat else c.ownerField * 2 ^ 32 + c.w2.toNat

/-- The length (R120). -/
def CapReg.length (c : CapReg) : Nat := if c.e = 0 then c.m else (64 + c.m) * 2 ^ (c.e - 1)

/-- Permission bits. -/
def permLD : BitVec 6 := 1
def permST : BitVec 6 := 2
def permAT : BitVec 6 := 4
def permCL : BitVec 6 := 8
def permCS : BitVec 6 := 16
def permXL : BitVec 6 := 32

/-- Whether a capability has all of some permissions. -/
def CapReg.has (c : CapReg) (p : BitVec 6) : Bool := c.perms &&& p == p

/-- Enc(L): exponent and mantissa (R122). -/
def encLen (l : Nat) : Nat × Nat :=
  if l ≤ 63 then (0, l)
  else
    let e := (((List.range 64).find? fun j => l ≤ 127 * 2 ^ j).getD 63) + 1
    (e, ceilDiv l (2 ^ (e - 1)) - 64)

/-- Exact(b, L) (R122). -/
def exactLen (b l : Nat) : Bool :=
  let (e, m) := encLen l
  e == 0 || ((64 + m) * 2 ^ (e - 1) == l && b % 2 ^ (e - 1) == 0)

/-- Set the cursor. -/
def CapReg.setCursor (c : CapReg) (v : Nat) : CapReg :=
  { c with w0 := BitVec.ofNat 32 v, w1 := c.w1.extractLsb' 20 12 ++ BitVec.ofNat 20 (v / 2 ^ 32) }

/-- Set the base; a private capability keeps its owner (R125). -/
def CapReg.setBase (c : CapReg) (v : Nat) : CapReg :=
  { c with
    w2 := BitVec.ofNat 32 v
    w3 := if c.space = 2 then c.w3 else c.w3.extractLsb' 20 12 ++ BitVec.ofNat 20 (v / 2 ^ 32) }

/-- Set the length's encoding. -/
def CapReg.setLen (c : CapReg) (e m : Nat) : CapReg :=
  { c with w3 := BitVec.ofNat 6 e ++ BitVec.ofNat 6 m ++ c.w3.extractLsb' 0 20 }

/-- AND the permissions with a mask. -/
def CapReg.maskPerms (c : CapReg) (p : BitVec 6) : CapReg :=
  { c with w1 := c.w1.extractLsb' 29 3 ++ (c.perms &&& p) ++ c.w1.extractLsb' 0 23 }

/-- Build a capability from its fields. A length with no exact encoding is stated by the next one that has (R122): of a start capability the
spec does not say which; the model rounds up for cluster SRAM (log 11), and for the window of q3 too, whose `.private` size is any multiple
of 16 (R131, log 92). -/
def mkCap (space : Nat) (perms : BitVec 6) (base len cursor high : Nat) : CapReg :=
  let (e, m) := encLen len
  { w0 := BitVec.ofNat 32 cursor
    w1 := BitVec.ofNat 3 0 ++ perms ++ BitVec.ofNat 3 space ++ BitVec.ofNat 20 (cursor / 2 ^ 32)
    w2 := BitVec.ofNat 32 base
    w3 := BitVec.ofNat 6 e ++ BitVec.ofNat 6 m ++ BitVec.ofNat 20 (if space = 2 then high else base / 2 ^ 32)
    tag := true }

/-! ### Faults of a word -/

/-- A fault that a word raises: its cause and sub-code (Table 21.6), VAL and ADDR. -/
structure Flt where
  cause : Nat
  sub : Nat := 0
  val : Nat := 0
  addr : Nat := 0
  deriving DecidableEq, Repr

/-- The address of an access: (cursor + offset) mod 2^52 (R126). -/
def accessAddr (c : CapReg) (off : Nat) : Nat := (c.cursor + off) % 2 ^ 52

/-- Whether a die-space access lies within the launch's allocations (R31): the last clause of check 4. -/
def dieSpaceOk (s : State) (k a n : Nat) : Bool :=
  a / 2 ^ 36 == 0 && s.liveDie (a / 2 ^ 32) && a % 2 ^ 32 + n ≤ (s.kernOf k).dieBytes

/-- The capability checks of an access of `n` bytes at `a` in the order of Table 5.8: the first sub-code that fails, 0 if all pass.
`spaces` are those the instruction accepts. -/
def capCheck (s : State) (k : Nat) (c : CapReg) (perm : BitVec 6) (a n : Nat) (spaces : List Nat := [0, 1, 2, 3, 4]) : Nat :=
  if !c.tag then 1
  else if c.space > 4 then 2
  else if !c.has perm || (c.space == 3 && perm &&& 6 != 0) then 3
  else if !(c.base ≤ a && a + n ≤ c.base + c.length) || (c.space == 4 && !dieSpaceOk s k a n) then 4
  else if c.space == 2 && c.ownerField != (s.thr k).owner then 5
  else if !spaces.contains c.space then 6
  else 0

/-- The capability and alignment checks of an access (R196, R228): a fault, or none. -/
def accessFault (s : State) (k : Nat) (c : CapReg) (perm : BitVec 6) (a n align : Nat) (spaces : List Nat := [0, 1, 2, 3, 4]) :
    Option Flt :=
  match capCheck s k c perm a n spaces with
  | 0 => if a % align != 0 then some { cause := causeMisaligned, addr := a } else none
  | sub + 1 => some { cause := causeCapability, sub := sub + 1, addr := a }

/-- The capability that a MEM word's field A names (R69). -/
def capA (s : State) (k : Nat) (f : Fields) : CapReg := (s.thr k).cap (4 * f.a.toNat)

/-- The address that a MEM word names (R126). -/
def addrOf (s : State) (k : Nat) (f : Fields) : Nat := accessAddr (capA s k f) ((s.thr k).x f.b.toNat).toNat

/-- Whether two stretches of bytes that a thread names meet: the translated spaces name one space of addresses (R385). -/
def sameBytes (s : State) (k space a n space' b m : Nat) : Bool :=
  if translated space && translated space' then meets (s.tva k space a) n (s.tva k space' b) m else space == space' && meets a n b m

/-- The key of an address in a space that is not translated. -/
def directKey (s : State) (k space a : Nat) : Nat :=
  match space with
  | 1 => sramKey (s.grpOf k).cluster a
  | _ => dieKey (s.grpOf k).launch (a / 2 ^ 32 % 16) (a % 2 ^ 32)

/-- The key of an address for the device's own accesses, as the tables stand. -/
def keyAt (s : State) (k space a : Nat) : Option Nat :=
  if translated space then keyNow s (s.lchOf k).tenant (s.tva k space a) else some (directKey s k space a)

/-- The translation of an address of a thread that its lane's register or its core's TLB holds (R208, R393). -/
def leafOf (s : State) (k space a : Nat) : Option Leaf :=
  tlbFind s (s.coreOf k) (laneOf k) (s.lchOf k).tenant (s.tva k space a)

/-- A thread's lane keeps the translation that it has used (R208). -/
def lanePageUse (s : State) (k space a : Nat) (l : Leaf) : State :=
  lanePageSet s (s.coreOf k) (laneOf k) (s.lchOf k).tenant (s.tva k space a) l

/-! ### Guards, counts, immediates -/

/-- Whether a word executes in a thread (R62). -/
def guardPasses (t : Thread) (f : Fields) : Bool := ((t.x f.gr.toNat).getLsbD f.gb.toNat) == (f.gs == 1)

/-- A shift count: x[B], or the B field when M = 01 (R115). -/
def countOf (t : Thread) (f : Fields) : Nat := if f.m = 1 then f.b.toNat else (t.x f.b.toNat).toNat

/-- Sx(imm18). -/
def sx18 (f : Fields) : Word := f.imm18.signExtend 32

/-- The sub-operation that M selects in LOGI (Table 5.2). -/
def logiOp (m : Nat) (a b : Word) : Word :=
  match m with
  | 0 => a &&& b
  | 1 => a ||| b
  | 2 => a ^^^ b
  | _ => a &&& ~~~b

/-- POPC over the low `n` bits. -/
def popCount (v n : Nat) : Nat := (List.range n).foldl (fun c j => if v.testBit j then c + 1 else c) 0

/-- Leading zero bits of an `n`-bit value. -/
def leadingZeros (v n : Nat) : Nat := if v = 0 then n else n - 1 - Nat.log2 v

/-- The linear index, grid and thread counts of IDX (R130, Table 5.11). -/
def idxValue (s : State) (k m : Nat) : Nat :=
  let g := s.grpOf k
  let l := s.lchOf k
  match m with
  | 0 => g.index
  | 1 => g.index * (32 * l.kernel.rows) + tidOf k
  | 2 => l.gx * l.gy * l.gz
  | _ => 32 * l.kernel.rows

end Sys2Proof.Machine
end

