-- ==== Sys2Proof/Machine/Flags.lean ====
section
/-! DEFINITION. Conditions and computed bits: integer and real comparison (Tables 5.4, 6.4), exact real arithmetic and its one
rounding in every format (Table 2.7, R132 to R141, R154 to R156), and the stochastic generator (R166). -/

namespace Sys2Proof.Machine

/-! ### Comparison -/

/-- The outcome of a condition of Table 5.4 on two integers. -/
def intCond (code : Nat) (a b : Int) : Bool :=
  match code with
  | 0 => a == b
  | 1 => a != b
  | 2 => a < b
  | 3 => a ≤ b
  | 4 => b < a
  | _ => b ≤ a

/-- An outcome merged into the old bit as M selects (R117). -/
def mergeBit (m : Nat) (old new : Bool) : Bool :=
  match m with
  | 1 => old && new
  | 2 => old || new
  | _ => new

/-! ### Exact reals -/

/-- An exact real, ±∞ or NaN (R57): a finite value is ± man · 2^exp. -/
inductive Real where
  | nan
  | inf (neg : Bool)
  | fin (neg : Bool) (man : Nat) (exp : Int)
  deriving DecidableEq, Repr

/-- The constants of a format (Tables 6.1 and 7.1). -/
structure Fmt where
  /-- bits in all, fraction bits -/
  bits : Nat
  mbits : Nat
  /-- exponent of the smallest subnormal -/
  umin : Int
  /-- largest finite magnitude, the pattern of ∞ (none in E4M3), canonical NaN -/
  top : Nat
  inf : Option Nat
  nan : Nat
  deriving DecidableEq, Repr

def fp32 : Fmt := { bits := 32, mbits := 23, umin := -149, top := 0x7F7FFFFF, inf := some 0x7F800000, nan := 0x7FC00000 }
def fp16 : Fmt := { bits := 16, mbits := 10, umin := -24, top := 0x7BFF, inf := some 0x7C00, nan := 0x7E00 }
def bf16 : Fmt := { bits := 16, mbits := 7, umin := -133, top := 0x7F7F, inf := some 0x7F80, nan := 0x7FC0 }
def e4m3 : Fmt := { bits := 8, mbits := 3, umin := -9, top := 0x7E, inf := none, nan := 0x7F }
def e5m2 : Fmt := { bits := 8, mbits := 2, umin := -16, top := 0x7B, inf := some 0x7C, nan := 0x7E }

/-- The sign and magnitude bits of a pattern. -/
def Fmt.sign (F : Fmt) (b : Nat) : Bool := b.testBit (F.bits - 1)
def Fmt.mag (F : Fmt) (b : Nat) : Nat := b % 2 ^ (F.bits - 1)

/-- Whether a pattern is a NaN. -/
def Fmt.isNaN (F : Fmt) (b : Nat) : Bool := F.mag b > F.inf.getD F.top

/-- The value of a pattern (R132, R154); with `ftz` a subnormal reads as zero of its sign (R134). -/
def Fmt.read (F : Fmt) (ftz : Bool) (b : Nat) : Real :=
  let m := F.mag b
  let s := F.sign b
  if F.isNaN b then .nan
  else if F.inf = some m then .inf s
  else if m / 2 ^ F.mbits = 0 then .fin s (if ftz then 0 else m) F.umin
  else .fin s (2 ^ F.mbits + m % 2 ^ F.mbits) (F.umin + (m / 2 ^ F.mbits - 1 : Nat))

/-- A rounding (R57, R58); SR with its number of places and its draw (R137). -/
inductive Rnd where
  | rne
  | rtz
  | rup
  | rdn
  | sr (p w : Nat)
  deriving DecidableEq, Repr

/-- The exponent of the leading bit of man · 2^exp, man not 0. -/
def leadExp (man : Nat) (exp : Int) : Int := (Nat.log2 man : Int) + exp

/-- man · 2^exp rounded to a multiple of 2^u, as that multiple. -/
def roundAt (r : Rnd) (neg : Bool) (man : Nat) (exp u : Int) : Nat :=
  if exp ≥ u then man * 2 ^ (exp - u).toNat
  else
    let d := (u - exp).toNat
    let q := man / 2 ^ d
    let rem := man % 2 ^ d
    match r with
    | .rne => if 2 * rem > 2 ^ d || (2 * rem == 2 ^ d && q % 2 == 1) then q + 1 else q
    | .rtz => q
    | .rup => if rem != 0 && !neg then q + 1 else q
    | .rdn => if rem != 0 && neg then q + 1 else q
    | .sr p w => if rem * 2 ^ p / 2 ^ d + w % 2 ^ p ≥ 2 ^ p then q + 1 else q

/-- The spacing exponent of a format at a magnitude. -/
def Fmt.ulp (F : Fmt) (man : Nat) (exp : Int) : Int := max (leadExp man exp - F.mbits) F.umin

/-- The magnitude bits of a finite nonzero value after rounding, overflow not yet decided. -/
def Fmt.roundMag (F : Fmt) (r : Rnd) (neg : Bool) (man : Nat) (exp : Int) : Nat :=
  let u := F.ulp man exp
  (u - F.umin).toNat * 2 ^ F.mbits + roundAt r neg man exp u

/-- A pattern from its sign and magnitude. -/
def Fmt.make (F : Fmt) (neg : Bool) (mag : Nat) : Nat := if neg then 2 ^ (F.bits - 1) + mag else mag

/-- Whether a rounding takes an overflow to infinity for a sign (Table 2.7). -/
def overToInf (r : Rnd) (neg : Bool) : Bool :=
  match r with
  | .rne | .sr _ _ => true
  | .rtz => false
  | .rup => !neg
  | .rdn => neg

/-- A result that is subnormal is flushed under FTZ (R134). -/
def Fmt.flush (F : Fmt) (ftz : Bool) (mag : Nat) : Nat := if ftz && mag / 2 ^ F.mbits == 0 then 0 else mag

/-- Round a real to a format that has infinities (Round32, RoundH, RoundB: R57, R136). -/
def Fmt.round (F : Fmt) (r : Rnd) (ftz : Bool) (v : Real) : Nat :=
  match v with
  | .nan => F.nan
  | .inf s => F.make s (F.inf.getD F.nan)
  | .fin s 0 _ => F.make s 0
  | .fin s m e =>
    let g := F.roundMag r s m e
    if g > F.top then F.make s (if overToInf r s then F.inf.getD F.nan else F.top) else F.make s (F.flush ftz g)

/-- The sum of two reals; an exact zero of opposite signs is +0, under RDN −0 (R139). -/
def addR (rdn : Bool) (a b : Real) : Real :=
  match a, b with
  | .nan, _ | _, .nan => .nan
  | .inf s, .inf t => if s = t then .inf s else .nan
  | .inf s, _ => .inf s
  | _, .inf t => .inf t
  | .fin s m e, .fin t n g =>
    if m = 0 ∧ n = 0 then .fin (if s = t then s else rdn) 0 0
    else
      let u := min e g
      let x : Int := (if s then -1 else 1) * (m * 2 ^ (e - u).toNat : Nat) + (if t then -1 else 1) * (n * 2 ^ (g - u).toNat : Nat)
      if x = 0 then .fin rdn 0 0 else .fin (x < 0) x.natAbs u

/-- Change the sign. -/
def negR (a : Real) : Real :=
  match a with
  | .nan => .nan
  | .inf s => .inf !s
  | .fin s m e => .fin (!s) m e

/-- The product of two reals (R139). -/
def mulR (a b : Real) : Real :=
  match a, b with
  | .nan, _ | _, .nan => .nan
  | .inf s, .inf t => .inf (s != t)
  | .inf s, .fin t m _ => if m = 0 then .nan else .inf (s != t)
  | .fin s m _, .inf t => if m = 0 then .nan else .inf (s != t)
  | .fin s m e, .fin t n g => .fin (s != t) (m * n) (e + g)

/-- The quotient, with a sticky bit far below every rounding place (R174). -/
def divR (a b : Real) : Real :=
  match a, b with
  | .nan, _ | _, .nan => .nan
  | .inf _, .inf _ => .nan
  | .inf s, .fin t _ _ => .inf (s != t)
  | .fin s _ _, .inf t => .fin (s != t) 0 0
  | .fin s m e, .fin t n g =>
    if n = 0 then if m = 0 then .nan else .inf (s != t)
    else
      let q := m * 2 ^ 96 / n
      .fin (s != t) (2 * q + if m * 2 ^ 96 % n = 0 then 0 else 1) (e - g - 97)

/-- The integer square root of a number below 2^(2·bits), bit by bit. -/
def isqrt (bits n : Nat) : Nat :=
  match bits with
  | 0 => 0
  | b + 1 =>
    let r := isqrt b (n / 4)
    if (2 * r + 1) * (2 * r + 1) ≤ n then 2 * r + 1 else 2 * r

/-- The square root, with a sticky bit far below every rounding place (R174). -/
def sqrtR (a : Real) : Real :=
  match a with
  | .nan => .nan
  | .inf s => if s then .nan else .inf false
  | .fin s m e =>
    if m = 0 then .fin s 0 0
    else if s then .nan
    else
      let (n, g) := if e % 2 = 0 then (m * 2 ^ 112, e - 112) else (m * 2 ^ 113, e - 113)
      let r := isqrt 80 n
      .fin false (2 * r + if r * r = n then 0 else 1) (g / 2 - 1)

/-- Compare two reals that are no NaN; both zeros equal. -/
def cmpR (a b : Real) : Ordering :=
  match a, b with
  | .inf s, .inf t => if s = t then .eq else if s then .lt else .gt
  | .inf s, _ => if s then .lt else .gt
  | _, .inf t => if t then .gt else .lt
  | .fin s m e, .fin t n g =>
    let u := min e g
    let x : Int := (if s then -1 else 1) * (m * 2 ^ (e - u).toNat : Nat)
    let y : Int := (if t then -1 else 1) * (n * 2 ^ (g - u).toNat : Nat)
    compare x y
  | _, _ => .eq

/-- The outcome of a condition code 0 to 7 of Table 6.4. -/
def fpCond (code : Nat) (a b : Real) : Bool :=
  let un := a = .nan || b = .nan
  match code with
  | 0 => !un && cmpR a b == .eq
  | 1 => un || cmpR a b != .eq
  | 2 => !un && cmpR a b == .lt
  | 3 => !un && cmpR a b != .gt
  | 4 => !un && cmpR a b == .gt
  | 5 => !un && cmpR a b != .lt
  | 6 => un
  | _ => !un

/-- The outcome of a code of Table 6.4, merged into the old bit for codes 8 to 15 (R142). -/
def fpMerge (code : Nat) (old : Bool) (a b : Real) : Bool :=
  if code < 8 then fpCond code a b else old && fpCond (code - 8) a b

/-- The order of two patterns that are no NaN, −0 below +0 (R140). -/
def Fmt.below (F : Fmt) (a b : Nat) : Bool :=
  match F.sign a, F.sign b with
  | false, false => F.mag a < F.mag b
  | true, true => F.mag b < F.mag a
  | s, _ => s

/-- A pattern flushed as an operand (R134). -/
def Fmt.operand (F : Fmt) (ftz : Bool) (b : Nat) : Nat :=
  if ftz && F.mag b / 2 ^ F.mbits == 0 then F.make (F.sign b) 0 else b

/-- MinNum and MaxNum (R140) on operands already flushed. -/
def Fmt.minNum (F : Fmt) (greater : Bool) (a b : Nat) : Nat :=
  match F.isNaN a, F.isNaN b with
  | true, true => F.nan
  | true, false => b
  | false, true => a
  | false, false => if F.below a b != greater then a else b

/-- FMAXI and FMINI on two pairs of a value and an index, values already flushed (R141). -/
def Fmt.pick (F : Fmt) (greater : Bool) (a b : Nat × Nat) : Nat × Nat :=
  match F.isNaN a.1, F.isNaN b.1 with
  | true, true => (F.nan, min a.2 b.2)
  | true, false => b
  | false, true => a
  | false, false => if a.1 = b.1 then (a.1, min a.2 b.2) else if F.below a.1 b.1 != greater then a else b

/-- A real rounded to an integer (R145): magnitude; ±∞ and NaN answer 0. -/
def roundInt (r : Rnd) (v : Real) : Bool × Nat :=
  match v with
  | .fin s m e => (s, roundAt r s m e 0)
  | .inf s => (s, 0)
  | .nan => (false, 0)

/-- A signed integer as an exact real. -/
def realOfInt (v : Int) : Real := .fin (v < 0) v.natAbs 0

/-! ### Conversion to narrow formats (R155, R156) -/

/-- The draw of R156 for a value that is a multiple of 2^q, into a format at spacing 2^u, with share width `width`: SR with the
places that are dropped, at most the width. -/
def srPlaces (u q : Int) (width share : Nat) : Rnd :=
  if u ≤ q then .rtz else .sr (min (u - q).toNat width) (share % 2 ^ (min (u - q).toNat width))

/-- Convert an exact value, read in a format with `srcm` fraction bits and smallest exponent `srcu`, to a narrow format. -/
def Fmt.narrow (F src : Fmt) (r : Rnd) (sat ftz : Bool) (v : Real) : Nat :=
  match v with
  | .nan => F.nan
  | .inf s => if sat then F.make s F.top else match F.inf with | some i => F.make s i | none => F.nan
  | .fin s 0 _ => F.make s 0
  | .fin s m e =>
    let rr := match r with | .sr p w => srPlaces (F.ulp m e) (src.ulp m e) p w | r => r
    let g := F.roundMag rr s m e
    if g > F.top then
      if sat then F.make s F.top
      else if overToInf r s then match F.inf with | some i => F.make s i | none => F.nan
      else F.make s F.top
    else F.make s (F.flush ftz g)

/-- Convert to INT8: the rounded integer, saturated (R155). -/
def narrowI8 (r : Rnd) (v : Real) : Nat :=
  match v with
  | .nan => 0
  | .inf s => if s then 0x80 else 0x7F
  | .fin s m e =>
    let rr := match r with | .sr p w => if m = 0 then .rtz else srPlaces 0 (fp32.ulp m e) p w | r => r
    let n := roundAt rr s m e 0
    if s then (256 - min n 128) % 256 else min n 127

/-! ### Rounding modes and the generator -/

/-- The rounding that the mode register selects (Table 4.2). -/
def modeRnd (mode : Word) : Rnd :=
  match mode.toNat % 4 with
  | 0 => .rne
  | 1 => .rtz
  | 2 => .rup
  | _ => .rdn

/-- FTZ (Table 4.2). -/
def ftzOf (mode : Word) : Bool := mode.getLsbD 2

/-- One shift of the generator (R166). -/
def genShift (s : Double) : Double := (s <<< 1) ||| (BitVec.ofBool (s.getLsbD 63 ^^ s.getLsbD 62 ^^ s.getLsbD 60 ^^ s.getLsbD 59)).zeroExtend 64

/-- One step of the generator: 32 shifts (R166). -/
def genStep (s : Double) : Double := (List.range 32).foldl (fun x _ => genShift x) s

/-- Lane i's word (R166). -/
def genWord (s : Double) (lane : Nat) : Word := (s.extractLsb' 0 32).rotateLeft (5 * lane % 32)

/-- The generator's start value, which also stands for a seed of zero (R166, R168). -/
def genInit : Double := 0x5851F42D4C957F2D

/-- The generator of a thread's row. -/
def State.genOf (s : State) (k : Nat) : Double := nget (s.grpOf k).gens (rowOf k) genInit

/-- The lane's word for a thread. -/
def State.drawOf (s : State) (k : Nat) : Nat := (genWord (s.genOf k) (laneOf k)).toNat

/-- The rounding of a word whose M selects it (R58, R78); SR with `p` places of the draw shifted down by `sh` (R137). -/
def rndOf (s : State) (k : Nat) (f : Fields) (p sh : Nat) : Rnd :=
  match f.m.toNat with
  | 0 => modeRnd (s.thr k).mode
  | 1 => .rne
  | 2 => .rtz
  | _ => .sr p (s.drawOf k / 2 ^ sh % 2 ^ p)

/-- Whether the rounding is RDN, which decides the sign of an exact zero (R139); SR takes the sign that RNE gives (R137). -/
def Rnd.isRdn (r : Rnd) : Bool := r == .rdn

/-- π/2 and ln 2, times 2^512, rounded down (R175). -/
def halfPi : Nat := 0x1921fb54442d18469898cc51701b839a252049c1114cf98e804177d4c76273644a29410f31c6809bbdf2a33679a748636605614dbe4be286e9fc26adadaa3848b
def lnTwo : Nat := 0xb17217f7d1cf79abc9e3b39803f2f6af40f343267298b62d8a0d175b8baafa2be7b876206debac98559552fb4afa1b10ed2eae35c138214427573b291169b825

/-- The nearest integer to x ÷ c, and x − n·c, for a constant c · 2^512 (R175). -/
def reduceR (c : Nat) (neg : Bool) (m : Nat) (e : Int) : Int × Real :=
  let x := if e + 512 ≥ 0 then m * 2 ^ (e + 512).toNat else m / 2 ^ (-(e + 512)).toNat
  let q := x / c
  let r := x % c
  let n := if 2 * r > c || (2 * r == c && q % 2 == 1) then q + 1 else q
  let d : Int := (x : Int) - (n : Int) * c
  let z : Real := if n = 0 then .fin neg m e else if d = 0 then .fin neg 0 0 else .fin ((d < 0) != neg) d.natAbs (-512)
  (if neg then -(n : Int) else n, z)

end Sys2Proof.Machine
end

