-- ==== Sys2Proof/Machine/Issue.lean ====
section
/-! DEFINITION. How a word issues to the threads of a beat: what a thread waits for (R98), the order of traps at an issue (R377),
guards (R62), the transfer of control (R84, R85, R89), and the form that every instruction's meaning fills. -/

namespace Sys2Proof.Machine

/-! ### Block starts and transfers -/

/-- A thread stands at block start `h` (R84): its reconvergence target is cleared there and it is held (R85). A thread of a
cancelled group stops there (R32). -/
def arrive (s : State) (k h : Nat) : State :=
  let slot := s.curSlot (s.coreOf k)
  let gone := (s.grpOf k).cancelled
  let s1 := s.modThr k fun t =>
    { t with
      pc := h, atHeader := true, since := slot, stood := s.now, together := 0, faultWaits := false
      reconv := if t.reconv = some (t.spot h) then none else t.reconv
      held := t.reconv == some (t.spot h) }
  if gone then endThread s1 k else s1

/-- A thread that a DBGSTEP.step let go has issued its word: it stops again (R372). -/
def debugStop (s : State) (k : Nat) : State :=
  if (s.thr k).debugStep then s.modThr k fun u => { u with life := if u.life = .live then .stopped else u.life, debugStep := false }
  else s

/-- A thread goes on `n` words further; after its block's last word it stands at the next block start (R54). -/
def advanceBy (s : State) (k n : Nat) : State :=
  let t := s.thr k
  let s1 :=
    if n = 0 then s
    else if t.pc + n > t.hdr + hdrLen t.hdrWord then arrive s k (t.pc + n)
    else s.modThr k fun u => 
        { u with pc := u.pc + n, since := s.curSlot (s.coreOf k), stood := s.now, together := 0, faultWaits := false }
  if n ≠ 0 then debugStop s1 k else s1

/-- A thread goes on to the next word of the beat. -/
def advance (s : State) (k : Nat) : State := advanceBy s k s.beat.adv

/-- A thread that waited at a word has waited enough: it goes on to the next (R102). -/
def wakeOn (s : State) (k : Nat) : State := advanceBy (s.modThr k fun t => { t with wait := .none }) k 1

/-- A thread that waited at a word issues it again. -/
def wakeAgain (s : State) (k : Nat) : State := s.modThr k fun t => { t with wait := .none }

/-- The block start that follows a thread's block (R89). -/
def nextBlock (t : Thread) : Nat := t.hdr + hdrLen t.hdrWord + 1

/-- What a word does in a thread. -/
inductive Act where
  /-- its effect; the thread goes on to the next word -/
  | go (s : State)
  /-- its effect; the thread stands at a block start -/
  | to (s : State) (target : Nat)
  /-- its effect, which has also settled where the thread stands -/
  | set (s : State)
  /-- it has not issued; the state may have begun a walk for it -/
  | stay (s : State)
  /-- a fault of the word, with no effect -/
  | fault (f : Flt)

/-! ### What a thread waits for -/

/-- The opcode of MLOOP and of the words that a store's page check holds. -/
def isStoreOp (op : Nat) : Bool := (0xA0 ≤ op && op ≤ 0xAE) || op == 0xBA

/-- A word that accesses memory or the engine, which an acquire holds (R200). -/
def isMemoryWord (op : Nat) (f : Fields) : Bool :=
  isMem op f || op / 16 == 0xD || (0xB6 ≤ op && op ≤ 0xB9)

/-- The updates of a thread, of its own stores and of the units of its copies and SLOTRDs. -/
def updsOf (s : State) (k : Nat) : List Upd := (s.upds.filter fun p => p.2.th = some k).map (·.2)

/-- Whether the application point of a key lies off a die (R236). -/
def offDie (die key : Nat) : Bool :=
  match homeOf key with
  | .sram _ => false
  | .die d => d != die
  | _ => true

/-- The tick that an edge between two dies adds for their copies of device time (R270). -/
def dieStep (die key : Nat) : Nat := if offDie die key then 1 else 0

/-- An update counts as complete for a FENCE at a scope: applied, its completion known, and at scopes 6 and above acknowledged
by its far end (R251); from another die a tick later (R270). A staged one is complete (R244). -/
def Upd.fenced (u : Upd) (now scope : Nat) : Bool :=
  match u.phase, u.kind with
  | .staged, _ => true
  | .far _, _ => scope < 6
  | _, .bar _ _ => true
  | _, _ =>
    match u.c, u.knownAt with
    | some c, some n => c + dieStep u.die u.key ≤ now && n ≤ now && (scope < 6 || homeIsDie (homeOf u.key) || u.key ≥ 2 ^ 52)
    | _, _ => false

/-- The store half of a FENCE at a scope is met (R251). -/
def storesFenced (s : State) (k scope : Nat) : Bool :=
  (updsOf s k).all (fun u => u.fenced s.now scope) &&
    s.xfers.all (fun p => !(p.2.threads.contains k && p.2.writes) || (p.2.staged && p.2.next ≥ p.2.units))

/-- An atomic's return is staged (R244). -/
def retStaged (s : State) (id : Nat) : Bool := s.upds.any fun p => p.2.ret = some id && p.2.phase = .staged

/-- The load half of a FENCE is met (R251). -/
def loadsFenced (s : State) (k : Nat) : Bool :=
  (s.thr k).loads == 0 && s.rets.all fun p => !(p.2.th = k && p.2.kind = .atomic) || retStaged s p.1

/-- A release at a scope may leave the core (R234): every earlier load delivered, every earlier store and atomic's completion
known. -/
def releaseReady (s : State) (k scope : Nat) : Bool :=
  scope == 0 ||
    ((s.thr k).loads == 0 &&
      (updsOf s k).all fun u =>
        u.xfer.isSome ||
          (match u.phase with
           | .staged => true
           | .far _ => scope < 6
           | _ => u.knownAt.any (fun n => n ≤ s.now) && (scope < 6 || homeIsDie (homeOf u.key) || u.key ≥ 2 ^ 52)))

/-- The tile with a number. -/
def tileOf (s : State) (g n : Nat) : Option Tile := (s.grp g).tiles.find? fun t => t.num = n

/-- A tile is ready (R288). -/
def Tile.ready (t : Tile) : Bool := t.fill.isEmpty && t.drain.isEmpty

/-- Every tile of some numbers is ready or not declared. -/
def tilesReady (s : State) (g : Nat) (ns : List Nat) : Bool :=
  ns.all fun n => match tileOf s g n with | some t => t.ready | none => true

/-- The tiles that a copy's operand block names: written, read (Table 16.2). -/
def copyTiles (t : Thread) (f : Fields) (o : Nat) : List Nat × List Nat :=
  let b := f.b.toNat
  let lo (r : Nat) := (t.x r).toNat % 256
  let hi (r : Nat) := (t.x r).toNat / 256 % 256
  match o with
  | 0 => ([lo (b + 1)], [])
  | 1 => ([], [lo (b + 1)])
  | 2 => ([hi b], [lo b])
  | 4 => ([lo b], [hi b])
  | 5 => ([], [lo b, hi b])
  | _ => ([], [])

/-- The stretches of addresses that a copy reads: space, address, bytes (Table 16.2). -/
def copyReads (s : State) (k o : Nat) (f : Fields) : List (Nat × Nat × Nat) :=
  let t := s.thr k
  let b (j : Nat) : Nat := (t.x (f.b.toNat + j)).toNat
  let c := capA s k f
  let base (n : Nat) : Nat := match tileOf s (gidOf k) n with | some x => x.off | none => 0
  let rows : List (Nat × Nat × Nat) := [(1, base (b 0 / 256 % 256), 4 * b 3)]
  match o with
  | 0 => [(c.space, accessAddr c (b 0), b 3)]
  | 1 => [(1, base (b 1 % 256) + b 2, b 3)]
  | 2 => [(1, base (b 0 % 256) + b 1, b 3)]
  | 3 => [(c.space, accessAddr c (b 0), b 2)]
  | 4 =>
    rows ++ (List.range (min (b 3) 16384)).map fun j =>
      (c.space, (c.cursor + b 2 * rdNat s (sramKey (s.grpOf k).cluster (base (b 0 / 256 % 256) + 4 * j)) 4) % 2 ^ 52, b 1)
  | _ => (1, base (b 0 % 256), b 3 * b 1) :: rows

/-- The wait of a copy of scope 1 or above for the thread's earlier stores and atomics to the bytes that it reads (R287). -/
def copyOrdered (s : State) (k o : Nat) (f : Fields) : Bool :=
  f.scope == 0 ||
    s.upds.all fun p =>
      let u := p.2
      !(u.th == some k && u.xfer.isNone) || u.fenced s.now 1 ||
        (copyReads s k o f).all fun r => !sameBytes s k r.1 r.2.1 r.2.2 u.space u.va u.bytes

/-- The passes of a cluster that hold an entry of its reservation table (R321). -/
def engineEntries (s : State) (cluster : Nat) : Nat :=
  s.groups.foldl (fun n p =>
    if p.2.cluster = cluster && p.2.residency = .resident then n + (p.2.passes.filter (·.done.isNone)).length else n) 0

/-- The counter of a level of work for a launch (R264, R343): members not yet complete; none for no record. -/
def graphOpen (s : State) (g : Nat) : Nat := (s.launches.filter fun p => p.2.graph = g && !p.2.complete).length
def phaseOpen (s : State) (p : Nat) : Nat := (s.graphs.filter fun q => q.2.parent = p && graphOpen s q.1 != 0).length
def jobOpen (s : State) (j : Nat) : Nat := (s.phases.filter fun q => q.2.parent = j && phaseOpen s q.1 != 0).length

def workCount (s : State) (l level : Nat) : Nat :=
  let g := (s.lch l).graph
  let p := (nget s.graphs g {}).parent
  match level with
  | 0 => (s.lch l).open_
  | 1 => graphOpen s g
  | 2 => phaseOpen s p
  | _ => jobOpen s (nget s.phases p {}).parent

/-- The larder slot that a handle names, 0 for the thread's own launch (R344, R264). -/
def handleSlot (s : State) (k : Nat) (h : Word) : Option Nat :=
  if h = 0 then some (s.grpOf k).launch
  else
    let slot := h.toNat % 4096
    match nfind s.launches slot with
    | some l => if h.toNat / 4096 = l.gen then some slot else none
    | none => none

/-- The masked time registers of TSORT and TMIN (R219). -/
def maskedTimes (t : Thread) (f : Fields) : List Nat := (List.range 16).filter fun i => (t.x f.a.toNat).getLsbD i

/-- The access bound to a time register has delivered (R193). -/
def tDelivered (t : Thread) (i : Nat) : Bool := (nfind t.bound i).isNone

/-- A FENCE's conditions (R251). -/
def fenceReady (s : State) (k m scope : Nat) : Bool :=
  scope == 0 || ((m == 2 || storesFenced s k scope) && (m == 1 || loadsFenced s k))

/-- ADRAIN's conditions: outside deterministic mode every store and atomic of the thread has retired (R243). -/
def drainReady (s : State) (k : Nat) : Bool := (s.thr k).stores == 0

/-- An update holds an entry of its die's porch: its application point lies off the die and its acknowledgement has not arrived
(R236). -/
def Upd.inPorch (u : Upd) : Bool :=
  offDie u.die u.key && match u.phase with | .porch | .travel _ | .blocked | .lehr _ | .applied _ => true | _ => false

/-- The entries in use of a die's porch. -/
def porchCount (s : State) (die : Nat) : Nat := (s.upds.filter fun p => p.2.die = die && p.2.inPorch).length

/-- Whether an update needs a porch entry and there is none (R236). -/
def porchFull (s : State) (die key : Nat) : Bool := offDie die key && porchCount s die ≥ Config.porchEntries

/-- The key that a store would name now, if its translation is there. -/
def keyKnown (s : State) (k space va : Nat) : Option Nat :=
  if !translated space then some (directKey s k space va)
  else
    match (s.thr k).walked with
    | some (.leaf l) => some (l.key (s.tva k space va))
    | some .notMapped => none
    | none => (leafOf s k space va).map fun l => l.key (s.tva k space va)

/-- An update that its launch stages: of a deterministic one, to global or die space, or an atomic (R244). -/
def staged (s : State) (k space : Nat) (atom : Bool) : Bool := s.det k && (space == 0 || space == 4 || atom)

/-- The bytes that a store, an atomic or FLAGSET names, and the permission that it needs (R227, R260). -/
def storeForm (op m : Nat) : Nat × BitVec 6 :=
  match op with
  | 0xA0 => (1, permST)
  | 0xA1 => (2, permST)
  | 0xA3 | 0xA6 => (8, permST)
  | 0xA4 => (16, permST)
  | 0xA7 => (64, permST)
  | 0xFC => (8, permST)
  | 0xA8 => (if m = 3 then 8 else 4, permAT)
  | 0xAC => (8, permAT)
  | 0xAD => (if m ≥ 2 then 8 else 4, permAT)
  | 0xA9 | 0xAA | 0xAB | 0xAE => (4, permAT)
  | 0xBA => (4, if m = 1 then permST ||| permAT else permST)
  | _ => (4, permST)

/-- A store or an atomic has room: it needs no entry of the porch, or one is free (R236). One that faults needs none. -/
def porchRoom (s : State) (k op : Nat) (f : Fields) : Bool :=
  let c := capA s k f
  let (n, perm) := storeForm op f.m.toNat
  (accessFault s k c perm (addrOf s k f) n n).isSome || (op == 0xFC && c.space != 0) || (op != 0xFC && staged s k c.space (perm &&& permAT != 0)) ||
    !(keyKnown s k c.space (addrOf s k f)).any (porchFull s (s.dieOf k))

/-- The conditions of its own under which a word, whose operands are there, may issue. -/
def ownReady (s : State) (k op : Nat) (f : Fields) : Bool :=
  let t := s.thr k
  let g := gidOf k
  match op with
  | 0x06 => t.knownT f.tTime
  | 0x07 => t.knownT f.tTime && (!s.det k || tDelivered t f.tTime)
  | 0x70 => match nfind (s.grp g).tables f.c.toNat with | some x => !x.loading | none => true
  | 0x73 => (s.grp g).tables.all fun p => !((t.x f.a.toNat).getLsbD p.1 && p.2.loading)
  | 0x9A | 0x9B => (maskedTimes t f).all fun i => t.knownT i && (!s.det k || tDelivered t i)
  | 0x9C => !s.det k || (tDelivered t f.a.toNat && (f.m == 1 || tDelivered t f.b.toNat))
  | 0x9D => f.m == 3 || !s.det k || tDelivered t f.a.toNat
  | 0x9E =>
    if s.det k then tDelivered t f.a.toNat
    else (t.readT f.a.toNat).tick ≤ s.nowOf k + (t.x f.b.toNat).toNat && (f.m == 0 || tDelivered t f.a.toNat)
  | 0x9F => !s.det k || ((f.cond == 6 || f.cond == 8) || (tDelivered t f.a.toNat && (f.cond > 5 || tDelivered t f.b.toNat)))
  | 0xA5 | 0xA6 => releaseReady s k f.scope && porchRoom s k op f
  | 0xAF => if s.det k then !((s.grpOf k).drain ++ (s.grpOf k).draining).contains k else drainReady s k
  | 0xB0 => fenceReady s k f.m.toNat f.scope
  | 0xB1 =>
    let n := f.imm18.toNat
    let ok (c lim : Nat) := lim == 15 || counterReads c ≤ lim
    ok t.loads (n % 16) && ok t.stores (n / 16 % 16) && ok t.copies (n / 256 % 16) && ok t.passes (n / 4096 % 16)
  | 0xB2 | 0xB3 | 0xB4 | 0xB5 => fenceReady s k 0 f.scope
  | 0xB6 => fenceReady s k 0 2
  | 0xB7 => fenceReady s k 0 3
  | 0xB8 => fenceReady s k 0 4
  | 0xB9 => fenceReady s k 0 5
  | 0xC0 | 0xC1 | 0xC2 | 0xC3 | 0xC4 | 0xC5 =>
    let (w, r) := copyTiles t f (op - 0xC0)
    tilesReady s g (w ++ r) && copyOrdered s k (op - 0xC0) f
  | 0xC7 => tilesReady s g [(t.x f.a.toNat).toNat % 256]
  | 0xC9 => match tileOf s g ((t.x f.a.toNat).toNat % 256) with | some x => x.ready | none => true
  | 0xD8 | 0xD9 => engineEntries s (s.grp g).cluster < 64
  | 0xF0 | 0xF5 => t.pend.isEmpty
  | 0xFC => porchRoom s k op f
  | _ => !isStoreOp op || porchRoom s k op f

/-- What a word that is executed costs a thread in its group's replay log (Table 23.1); units of transfers, and ACCRD of a shared
accumulator, are counted where they happen. -/
def logCost (op : Nat) (f : Fields) : Nat :=
  if op / 16 == 0x9 && op ≤ 0x98 then
    match op with
    | 0x93 | 0x98 => 12
    | 0x94 => 20
    | 0x95 => 4
    | 0x96 => 0
    | _ => 8
  else if 0x99 ≤ op && op ≤ 0x9F then 8
  else if op == 0x06 || op == 0x07 then 4
  else if 0xA8 ≤ op && op ≤ 0xAE then (if f.d = 0 then 0 else if atomicPair (op - 0xA0) f.m.toNat then 12 else 8)
  else if op == 0xB3 || op == 0xB4 || op == 0xB5 || op == 0xBB then 8
  else if op == 0x3D then
    let n := f.imm18.toNat % 256
    (if (7 ≤ n && n ≤ 11) || (13 ≤ n && n ≤ 16) then 4 else 0)
  else if op == 0xBF || op == 0xC8 || op == 0xCA then 4
  else if (0xC0 ≤ op && op ≤ 0xC6) || (0xCC ≤ op && op ≤ 0xCF) then 8
  else if op == 0x71 || op == 0xD0 || op == 0xD2 || (0xD4 ≤ op && op ≤ 0xD6) || op == 0xDD || (0xE0 ≤ op && op ≤ 0xE2) || op == 0xEB || op == 0xEF then 8
  else if op / 16 == 0xE && op != 0xE5 && op != 0xEA && op != 0xED then 4
  else 0

/-- How a replay executes a word (R406). -/
inductive Replayed where
  /-- as any thread does -/
  | own
  /-- it goes on at once: a wait, a hint, or a word that acts on others -/
  | pass
  /-- its digest records, and nothing else -/
  | record
  /-- its result is the log's -/
  | log
  /-- on the group's own tables, tiles and engine state; what it takes in is the log's -/
  | engine
  deriving DecidableEq, Repr

/-- How a replay executes a word (R406): memory is neither read nor written, nothing waits on it or on other threads, engine state is local. -/
def replayed (op : Nat) (f : Fields) : Replayed :=
  if op == 0x71 || (0xC0 ≤ op && op ≤ 0xC7) || (op / 16 == 0xD && op != 0xDC) then .engine
  else if [0x0C, 0x96, 0xAF, 0xB0, 0xB1, 0xB2, 0xBD, 0xBE, 0xC9, 0xCB, 0xDC, 0xE5, 0xEA, 0xED].contains op then .pass
  else if (0xA0 ≤ op && op ≤ 0xA7) || op == 0xBA || (0xA8 ≤ op && op ≤ 0xAE && f.d == 0) then .record
  else if logCost op f != 0 || (0xB6 ≤ op && op ≤ 0xB9) || op / 16 == 0x9 || op / 16 == 0xE then .log
  else .own

/-- The accumulator that ACCRD reads is a shared one (R308, R332). -/
def accShared (s : State) (k : Nat) (f : Fields) : Bool :=
  ((nfind (s.grpOf k).accs ((s.thr k).x f.a.toNat).toNat).bind (·.share)).isSome

/-- A word has an entry in the log of each thread that executes it (Table 23.1). That of a hardware barrier, or of MLOOP, costs nothing: it keeps the number
that the barrier gave, and where the stream's units are (log 103). -/
def entersLog (s : State) (k op : Nat) (f : Fields) : Bool :=
  match replayed op f with
  | .log => true
  | .engine => op == 0xDA && accShared s k f || [0x71, 0xC0, 0xC1, 0xC2, 0xC3, 0xC4, 0xC5, 0xC6, 0xD0, 0xD2, 0xD4, 0xD5, 0xD6, 0xD9, 0xDD].contains op
  | _ => false

/-- The entries that a thread of a replay has still to take. -/
def replayLog (s : State) (k : Nat) : List LogEntry := nget (s.grpOf k).log (tidOf k) []

/-- The replay is one of a held group that goes on: what its log does not hold yet will come (R416). -/
def replayHeld (s : State) (k : Nat) : Bool := ((s.grpOf k).replays.bind (nfind s.audits)).any fun a => a.segment.isSome

/-- The replay of a group may run: it is not at rest between two segments (R416). -/
def replayRuns (s : State) (g : Nat) : Bool :=
  match (s.grp g).replays with
  | none => true
  | some a => (nfind s.audits a).any fun x => match x.phase with | .running h _ | .tied h _ _ => h == g | _ => false

/-- Whether a thread is among those that may issue at all: live, resident, not parked, not paused (R98), and not held for a walk
or a page. One that PARK's wake tick has woken and that is not ready before W stands at PARK until then: a row word after PARK does not wait for it (R101, R183;
DESIGN CHOICE, log 115). -/
def mayRun (s : State) (k : Nat) : Bool :=
  match nfind s.threads k with
  | none => false
  | some t =>
    let g := s.grpOf k
    t.life == .live && g.residency == .resident && !(t.atHeader && g.preempt) && t.wait == .none && !t.walking && t.pageHold.isNone &&
      replayRuns s (gidOf k)

/-- What a word in a replay waits for beside its registers: its group's own tables and engine (R406), and in a held one what the log does not hold yet. -/
def replayReady (s : State) (k op : Nat) (f : Fields) : Bool :=
  (!([0x70, 0x73, 0xD8, 0xD9, 0xF0, 0xF5].contains op) || ownReady s k op f) && !(op == 0xAF && (s.grpOf k).drain.contains k) &&
    !(replayHeld s k && entersLog s k op f && (replayLog s k).isEmpty)

/-- A word waits for a pending register (R98). -/
def waitsOn (op : Nat) (f : Fields) (r : Nat) : Bool := (readRegs op f).contains r || (writeRegs op f).contains r || r == f.gr.toNat

/-- No write to a register that a word names is pending, so that its checks may be made (R377, R98). -/
def landed (t : Thread) (op : Nat) (f : Fields) : Bool := t.pend.all fun p => !waitsOn op f p.1

/-- The operands of a word are there: registers and time registers (R98); and, in a thread in which its guard passes, the acquire has landed and
the word's own wait has ended (R62). -/
def operandsReady (s : State) (k op : Nat) (f : Fields) : Bool :=
  let t := s.thr k
  landed t op f &&
    (if replaying s k then !guardPasses t f || replayReady s k op f
     else
    ((waitTimes op f).all t.knownT) &&
    (!guardPasses t f || ((t.acquire.isNone || !isMemoryWord op f) && ownReady s k op f)))

/-- The words at which a thread stands next: at a header the first of its block; both words of a pair (R74, R98). -/
def nextWords (s : State) (k : Nat) : List (Nat × Fields) :=
  let t := s.thr k
  let i := if t.atHeader then t.pc + 1 else t.pc
  let word (j : Nat) : List (Nat × Fields) := match fetch s k j with | some w => [(opOf w, unpack w)] | none => []
  match fetch s k i with
  | none => []
  | some w => (opOf w, unpack w) :: (if w.getLsbD 17 then word (i + 1) else [])

/-- The promise of a return by which a thread that came to stand at its word at a tick waits: as breaks had revised it by then (R101, R213). -/
def Ret.dueAt (r : Ret) (stood : Nat) : Option Nat := ((r.redue.find? fun p => p.1 ≤ stood).map (·.2)).or r.due

/-- A thread is parked on data: its next word waits for a value whose promise lies more than some ticks ahead, or it is a TWAIT that does (R101, R222);
16 for the park itself. A promise that is broken while the thread stands there does not park it again, nor keep it parked (R102). -/
def parkedOnData (s : State) (margin k : Nat) : Bool :=
  let t := s.thr k
  let now := s.nowOf k
  t.life == .live && t.wait == .none && !t.walking && t.pageHold.isNone &&
    (nextWords s k).any fun w =>
      (t.pend.any fun p => waitsOn w.1 w.2 p.1 && (nfind s.rets p.2).any fun r => (r.dueAt t.stood).any (now + margin < ·)) ||
        (w.1 == 0x9E && (t.pend.all fun p => !waitsOn w.1 w.2 p.1) && guardPasses t w.2 && t.knownT w.2.a.toNat && !ownReady s k w.1 w.2 &&
          decide (now + margin + (t.x w.2.b.toNat).toNat < (t.readT w.2.a.toNat).tick))

/-- A thread is parked (R28, R102): in a wait, but for a PARK that its wake tick has woken, or on data. -/
def parkedNow (s : State) (k : Nat) : Bool :=
  match (s.thr k).wait with
  | .none => parkedOnData s 16 k
  | .woken _ => false
  | _ => true

/-- A thread is held at its reconvergence header while another of its row has that target (R85). -/
def isHeld (s : State) (k : Nat) : Bool :=
  let t := s.thr k
  t.held && (threadsOf s (gidOf k)).any fun j =>
    j != k && rowOf j == rowOf k && (s.thr j).life != .exited && (s.thr j).reconv == some (t.spot t.pc)

/-- A thread has paused, or has ended (R104). One that the debugger has stopped is not paused, even at a block start: the spec does not say whether it
counts, and the save waits until it goes on (log 99). -/
def pausedOrGone (t : Thread) : Bool := t.life == .exited || (t.life == .live && t.atHeader && t.wait == .none)

/-- LIVE and TL of the header at which a thread has paused. Where it has paused at a block start that holds no header, or past its extent, the spec names none:
the model takes the bits of those fields of the word that stands there, and waits while its page is absent (DESIGN CHOICE, log 108). -/
def savedCounts (s : State) (k : Nat) : Option (Nat × Nat) := (fetch s k (s.thr k).pc).map fun w => (hdrLive w, hdrTl w)

/-- No general register of a thread that is to be saved is still to be written (R105). -/
def liveLanded (s : State) (k : Nat) : Bool :=
  (s.thr k).life == .exited || ((savedCounts s k).any fun c => (s.thr k).pend.all fun p => p.1 > c.1)

/-- A group is being saved: it is marked, every thread of it has paused or ended, and what R105 waits for in their general registers has landed, a pass that
MSTAT.wait or ACCRD has such a register wait for with it (R104 step 5, R329, log 64). -/
def saving (s : State) (g : Nat) : Bool :=
  (s.grp g).preempt && (threadsOf s g).all fun k => pausedOrGone (s.thr k) && liveLanded s k

/-! ### The order of traps at an issue (R377) -/

/-- The words at which the deferred store-refused trap is raised (R240). -/
def refusalWord (op : Nat) (f : Fields) : Bool :=
  op == 0xB0 || (op == 0xB1 && f.imm18.toNat / 16 % 16 < 15) || op == 0xA5 || op == 0xA6 || op == 0xBA ||
    (0xB2 ≤ op && op ≤ 0xB9) || op == 0xE0 || op == 0xE1 || op == 0xAF || op == 0x0A

/-- The deferred store-refused trap is due at a word: ADRAIN raises it once its wait has ended (R240, R243, R377 item 3). -/
def refusalDue (s : State) (k op : Nat) (f : Fields) : Bool :=
  (s.thr k).refusal.isSome && refusalWord op f && (op != 0xAF || s.det k || drainReady s k)

/-- The register counts and features against which a thread's words are checked (R63, R71, R360). -/
def causeOf (s : State) (k op : Nat) (f : Fields) : Nat :=
  wordCause op f (s.kernOf k).regs (tregsOf s k) (hdrFeat (s.thr k).hdrWord)

/-- The uncorrectable-data machine check: a register that the word reads is poisoned, its guard register first (R377 item 5). -/
def poisonFault (t : Thread) (op : Nat) (f : Fields) : Bool :=
  t.poison.contains f.gr.toNat || (guardPasses t f && (readRegs op f).any t.poison.contains)

/-- The asynchronous traps that a thread takes before any word, in the order of R377 items 1 and 2; system mode keeps them pending
(R378). -/
def asyncDue (t : Thread) : Option Flt :=
  if t.pendThrStart && !t.sys then some { cause := causeThrottle, val := 1 }
  else if t.pendThrEnd && !t.sys then some { cause := causeThrottle, val := 2 }
  else if t.pendLate && !t.sys then some { cause := causeLate }
  else none

/-- A CRV that a thread executes on an empty table: the only fault of a word that may stand in a pair, beside those of its encoding and
of poison (R80, R172). -/
def curveFault (s : State) (k op : Nat) (f : Fields) : Bool :=
  op == 0x70 && guardPasses (s.thr k) f && (nfind (s.grpOf k).tables (f.c.toNat % 8)).isNone

/-- The traps of R377 that come before the word's remaining faults, in their order: the first that is due; those that registers decide, once these have landed. -/
def trapDue (s : State) (k op : Nat) (f : Fields) : Option Flt :=
  let t := s.thr k
  if (asyncDue t).isSome then asyncDue t
  else if refusalDue s k op f then some { cause := causeRefused }
  else if causeOf s k op f != 0 then some { cause := causeIllegal, sub := causeOf s k op f }
  else if privileged op && !t.sys then some { cause := causePrivilege }
  else if !landed t op f then none
  else if poisonFault t op f then some { cause := causePoison }
  else if curveFault s k op f then some { cause := causeIllegal, sub := 12 }
  else none

/-! ### What a thread meets where it stands -/

/-- What a thread meets next. -/
inductive Look where
  /-- a header or a word that faults the thread with cause 1; the thread as it stands there -/
  | fault (t : Thread) (sub : Nat)
  /-- the page of the word is not present: the word is not there to fetch (R98) -/
  | absent
  /-- a word, and the word that is paired with it; the thread as it stands there, its block entered -/
  | word (t : Thread) (w : Code) (second : Option Code)

/-- A thread enters a block: the header is read, its reconvergence target replaces an earlier one, and the thread stands at the block's
first word (R70, R85). -/
def enterBlock (t : Thread) (h : Nat) (w : Code) : Thread :=
  { t with
    hdr := h, hdrWord := w, pc := h + 1, atHeader := false, held := false
    reconv := if hdrReconv w = 0 then t.reconv else some (t.spot (h + hdrReconv w).toNat) }

/-- The pair bit of a word (R74). -/
def pairBit (w : Code) : Bool := w.getLsbD 17

/-- The word at which a thread stands in a block. The spec does not say what the second word is when P is set in a block's last word and the word after it
lies beyond the extent, or on an absent page: the model takes what memory holds there, or 0 (log 101). -/
def wordAt (s : State) (k : Nat) (t : Thread) : Look :=
  match fetch s k t.pc with
  | none => .absent
  | some w =>
    if isHeader w then .fault t 4
    else if !pairBit w then .word t w none
    else if t.pc ≥ t.hdr + hdrLen t.hdrWord then .word t w (some ((fetch s k (t.pc + 1)).getD 0))
    else
      match fetch s k (t.pc + 1) with
      | none => .absent
      | some v => .word t w (some v)

/-- What a thread meets: at a block start its header first, which may be missing, bad, or beyond the extent (R54, R72, R73). One that returned to a word
whose block is not known finds it once its headers are there (R376, log 18). -/
def look (s : State) (k : Nat) : Look :=
  let t := if (s.thr k).seek then seekBlock s k (s.thr k) else s.thr k
  if t.seek then .absent
  else if !t.atHeader then wordAt s k t
  else if t.pc ≥ extentOf s k then .fault t 6
  else
    match fetch s k t.pc with
    | none => .absent
    | some w =>
      if !isHeader w then .fault t 5
      else if headerBad s k t.pc w then .fault t 10
      else wordAt s k (enterBlock t t.pc w)

/-! ### Traps of a pair (R75, R80, R377) -/

/-- The trap or fault of a pair in a thread, in the order of R377, and whether its second word raised it. -/
def pairDue (s : State) (k : Nat) (w1 w2 : Code) : Option (Flt × Bool) :=
  let t := s.thr k
  let (o1, f1) := (opOf w1, unpack w1)
  let (o2, f2) := (opOf w2, unpack w2)
  let p := pairCause o1 f1 o2 f2 (t.pc ≥ t.hdr + hdrLen t.hdrWord)
  let c1 := causeOf s k o1 f1
  let c2 := causeOf s k o2 f2
  if refusalDue s k o1 f1 then some ({ cause := causeRefused }, false)
  else if refusalDue s k o2 f2 then some ({ cause := causeRefused }, true)
  else if p != 0 then some ({ cause := causePair, sub := p }, false)
  else if c1 != 0 && (c2 == 0 || c1 ≤ c2) then some ({ cause := causeIllegal, sub := c1 }, false)
  else if c2 != 0 then some ({ cause := causeIllegal, sub := c2 }, true)
  else if !(landed t o1 f1 && landed t o2 f2) then none
  else if poisonFault t o1 f1 then some ({ cause := causePoison }, false)
  else if poisonFault t o2 f2 then some ({ cause := causePoison }, true)
  else if curveFault s k o1 f1 then some ({ cause := causeIllegal, sub := 12 }, false)
  else if curveFault s k o2 f2 then some ({ cause := causeIllegal, sub := 12 }, true)
  else none

/-- A thread meets a header that faults it, or a pair that does (R73, R80). -/
def meetsFault (s : State) (k : Nat) : Bool :=
  match look s k with
  | .fault _ _ => true
  | .word u w (some v) => (pairDue (s.modThr k fun _ => u) k w v).isSome
  | _ => false

/-- The pc that an image holds (Table 21.6, R107): the word; in a block with IDEM = 1, for the faults that restart it, its header. -/
def imagePc (t : Thread) (cause : Nat) : Nat :=
  if !t.atHeader && hdrIdem t.hdrWord && [3, 4, 5, 6, 7, 8, 9, 14].contains cause then t.hdr else t.pc

/-- Take a trap at a word: the pending asynchronous trap that is taken is no longer pending. While a write to the thread's
registers is pending the delivery waits (R375). -/
def takeFlt (s : State) (k : Nat) (x : Flt) (second : Bool := false) : State :=
  let t := s.thr k
  if replaying s k then diverge s k
  else if !t.pend.isEmpty && !t.sys then s.modThr k fun t => { t with faultWaits := true }
  else
    let t' :=
      if x.cause = causeThrottle then if x.val = 1 then { t with pendThrStart := false } else { t with pendThrEnd := false }
      else if x.cause = causeLate then { t with pendLate := false }
      else t
    deliver (s.modThr k fun _ => t') k (imagePc t x.cause) x.cause x.sub second x.val x.addr

/-! ### Issuing -/

/-- Look at each thread of the beat in turn: one that waits stays, one with a trap due takes it, one whose guard fails goes on;
the others execute the word. At a row word a thread that takes a trap is an inactive lane, and the rest of its row issues without it: R183 does not name
it (log 100). -/
def screen (op : Nat) (f : Fields) : List Nat → State → State × List Nat
  | [], s => (s, [])
  | k :: ks, s =>
    if !mayRun s k then screen op f ks s
    else
      match trapDue s k op f with
      | some x => screen op f ks (takeFlt s k x)
      | none =>
        if !(operandsReady s k op f) then screen op f ks s
        else if !guardPasses (s.thr k) f then screen op f ks (advance s k)
        else
          let r := screen op f ks s
          (r.1, k :: r.2)

/-- Settle what a word did in a thread. -/
def settle (s : State) (k : Nat) (a : Act) : State :=
  match a with
  | .go s' => advance s' k
  | .to s' h => debugStop (arrive s' k h) k
  | .set s' => s'
  | .stay s' => s'
  | .fault x => takeFlt s k x

/-- The state that a word's effect leaves. -/
def Act.state (s : State) (a : Act) : State := match a with | .go x | .to x _ | .set x | .stay x => x | .fault _ => s

/-- Where the units that a word has begun to read stand in its group's unit log, and the words of its index tile. -/
def unitsOf (s0 s1 : State) (k op : Nat) : Option Nat × List Nat :=
  if op == 0xD9 then (some (2 ^ 48 + (s1.grpOf k).passCount * 2 ^ 16), [])
  else
    match s1.xfers.find? fun p => s0.ids ≤ p.1 && p.2.group == gidOf k with
    | some p => (some p.1, p.2.idx)
    | none => (none, [])

/-- A thread has executed a word: what it took in enters its group's log (R404). -/
def noteWord (op : Nat) (f : Fields) (s0 : State) (k : Nat) (taken : Option Nat) (s1 : State) : State :=
  if !(s0.grpOf k).selected then s1
  else if entersLog s0 k op f then
    let t := s1.thr k
    let ws := writeRegs op f
    let (units, idx) := unitsOf s0 s1 k op
    logEntry s1 k (if op == 0xDA then 8 else logCost op f)
      { pc := (s0.thr k).pc, words := ws.map t.x, taken := taken, time := (timeDst op f).map t.t
        wait := (ws.findSome? (nfind t.pend)).or ((timeDst op f).bind (nfind t.bound)), units := units, idx := idx }
  else s1

/-- What a replay keeps of an update that it does not make: the digest records (R406). -/
def keepRecords (s s' : State) (k : Nat) : State :=
  (s.modThr k fun t => { t with digestN := (s'.thr k).digestN }).modGrp (gidOf k) fun g => { g with digests := (s'.grpOf k).digests }

/-- What a replay keeps of a word on engine state: its effect, but none of the returns that it has started for the log to bring. -/
def dropRets (s s' : State) (k : Nat) : State :=
  let mine (p : Nat × Ret) : Bool := s.ids ≤ p.1 && p.2.th == k && (match p.2.kind with | .part _ _ => false | _ => true)
  let u := s.thr k
  { s' with rets := s'.rets.filter fun p => !mine p }.modThr k fun t =>
    { t with
      pend := t.pend.filter fun p => p.2 < s.ids, bound := t.bound.filter fun p => p.2 < s.ids
      loads := u.loads, stores := u.stores, copies := u.copies }

/-- A thread of a replay takes its next entry of the log: the values go to the word's registers, or are still to come; the branch goes where it went. An entry of
another word, or none, diverges (R406). `s'` holds what the word has done beside. -/
def takeEntry (op : Nat) (f : Fields) (s s' : State) (k : Nat) : State :=
  match replayLog s k with
  | [] => diverge s k
  | e :: rest =>
    if e.pc ≠ (s.thr k).pc then diverge s k
    else
      let s1 := s'.modGrp (gidOf k) fun g => { g with log := nset g.log (tidOf k) rest }
      let s2 := s1.modThr k fun t =>
        match e.wait with
        | some id =>
          { t with
            pend := (writeRegs op f).foldl (fun m r => nset m r id) t.pend
            bound := (timeDst op f).toList.foldl (fun m i => nset m i id) t.bound }
        | none =>
          let u := ((writeRegs op f).zip e.words).foldl (fun u p => u.wr p.1 p.2) t
          let v := if e.tag then { u with tags := sput u.tags (f.d.toNat / 4) } else u
          match timeDst op f, e.time with
          | some i, some x => v.setT i x
          | _, _ => v
      match e.taken with
      | some h => arrive s2 k h
      | none => advance s2 k

/-- A word on engine state has acted in a thread of a replay. -/
def engineDone (op : Nat) (f : Fields) (s s' : State) (k : Nat) : State :=
  if entersLog s k op f then takeEntry op f s (dropRets s s' k) k else advance s' k

/-- One thread's turn in a replay (R406). A fault that the state of a page gives is none of the replay's. -/
def replayTurn (op : Nat) (f : Fields) (body : Nat → State → Act) (s : State) (k : Nat) : State :=
  let a := body k s
  match replayed op f, a with
  | .own, .fault _ | .engine, .fault _ => diverge s k
  | .own, .stay s' | .engine, .stay s' => s'
  | .own, a => settle s k a
  | .engine, a => engineDone op f s (a.state s) k
  | .pass, .fault x => if x.cause = causeNonResident || x.cause = causeCow then advance s k else diverge s k
  | .pass, _ => if op = 0xAF && replayHeld s k then s.modGrp (gidOf k) fun g => { g with drain := sput g.drain k } else advance s k
  | .record, .fault _ => diverge s k
  | .record, a => advance (keepRecords s (a.state s) k) k
  | .log, .fault x => if x.cause = causeNonResident || x.cause = causeCow then takeEntry op f s s k else diverge s k
  | .log, a => takeEntry op f s (keepRecords s (a.state s) k) k

/-- One thread's turn. -/
def turn (op : Nat) (f : Fields) (body : Nat → State → Act) (s : State) (k : Nat) : State :=
  match nfind s.threads k with
  | none => s
  | some _ =>
    if replaying s k then replayTurn op f body s k
    else
      match body k s with
      | .stay s' => s'
      | .fault x => takeFlt s k x
      | .to s' h => noteWord op f s k (some h) (settle s k (.to s' h))
      | a => noteWord op f s k none (settle s k a)

/-- The words that draw from the row's generator (R166). -/
def draws (op : Nat) (f : Fields) : Bool :=
  if op = 0x6B then f.m == 0
  else
    f.m == 3 &&
      (op / 16 == 4 || op / 16 == 5 || op == 0x60 || op == 0x61 || op == 0x66 || op == 0x68 || op == 0x69 || op == 0x6E ||
        op == 0x70 || op == 0x74 || op == 0x75 || op == 0x76)

/-- The rows of some threads, each as the key of a thread of lane 0. -/
def rowKeys (ks : List Nat) : List Nat := (ks.map fun k => k / 32 * 32).dedup

/-- Step the generator of a row once (R166). -/
def stepRow (s : State) (k : Nat) : State :=
  let g := genStep (s.genOf k)
  s.modGrp (gidOf k) fun gr => { gr with gens := nset gr.gens (rowOf k) g }

/-- Each row that executed a drawing word takes one step. -/
def stepRows (op : Nat) (f : Fields) (ks : List Nat) (s : State) : State :=
  if draws op f then (rowKeys ks).foldl stepRow s else s

/-- The form of a word that acts separately in each thread, in ascending lane order. -/
def issue (op : Nat) (f : Fields) (body : Nat → State → Act) (s : State) : Host.Outcome State Fault Refusal :=
  let r := screen op f s.beat.threads s
  .next (stepRows op f r.2 (r.2.foldl (turn op f body) r.1))

/-- Go on in each of some threads. -/
def advanceAll (s : State) (ks : List Nat) : State := ks.foldl advance s

/-- A thread executes a word, or passes over it, in the beat. -/
def executes (s : State) (op : Nat) (f : Fields) (k : Nat) : Bool := mayRun s k && (trapDue s k op f).isNone && operandsReady s k op f

/-- The active set of a row word, a bit for each lane. -/
def activeSet (ks : List Nat) : Nat := ks.foldl (fun m k => m ||| 2 ^ laneOf k) 0

/-- A row word on the active threads of a row: each notes the active set in its log, one of them for the cost (R191, R404). -/
def rowIssue (body : List Nat → State → State) (ks : List Nat) (s : State) : State :=
  (ks.zipIdx).foldl (fun x p => logEntry x p.1 (if p.2 = 0 then 4 else 0) { pc := (s.thr p.1).pc, mask := activeSet ks })
    (advanceAll (body ks s) ks)

/-- A row word in a replay: the threads whose next entry is of this word (R191, R406). -/
def rowReplay (body : List Nat → State → State) (ks : List Nat) (s : State) : State :=
  let fits (k : Nat) : Bool := match replayLog s k with | e :: _ => e.pc == (s.thr k).pc | [] => false
  let s1 := (ks.filter fun k => !fits k).foldl diverge s
  let on := ks.filter fits
  if on.isEmpty then s1
  else
    let s2 := on.foldl (fun x k => x.modGrp (gidOf k) fun g => { g with log := nset g.log (tidOf k) (nget g.log (tidOf k) []).tail }) s1
    advanceAll (body on s2) on

/-- The form of a word of class 0x8: it acts once for each row, on the active threads (R183, R184). A row issue without any has its cost in the log too
(Table 23.1). -/
def issueRow (op : Nat) (f : Fields) (body : List Nat → State → State) (s : State) : Host.Outcome State Fault Refusal :=
  let r := screen op f s.beat.threads s
  let rows := rowKeys r.2
  let idle := (rowKeys (s.beat.threads.filter (executes s op f))).filter fun row => !rows.contains row
  let s1 := idle.foldl (fun x row => if replaying x row then x else logBytes x (gidOf row) 4) r.1
  .next (rows.foldl (fun s' row =>
    let ks := r.2.filter fun k => k / 32 * 32 = row
    if replaying s' row then rowReplay body ks s' else rowIssue body ks s') s1)

/-- The form of a word that acts once for each row with a guard-passing thread in the beat, waits for no mates and enters no log (R168). -/
def issueSeed (op : Nat) (f : Fields) (body : List Nat → State → State) (s : State) : Host.Outcome State Fault Refusal :=
  let r := screen op f s.beat.threads s
  .next ((rowKeys r.2).foldl (fun s' row =>
    let ks := r.2.filter fun k => k / 32 * 32 = row
    advanceAll (body ks s') ks) r.1)

/-- The groups of some threads. -/
def groupKeys (ks : List Nat) : List Nat := (ks.map gidOf).dedup

/-- The thread with the lowest s.tid. -/
def leaderOf (ks : List Nat) : Nat := ks.foldl (fun m k => if tidOf k < tidOf m then k else m) (ks.headD 0)

/-- The form of a word that acts once per beat for each group, with the operands of the guard-passing thread of the lowest s.tid
(R171, R306): a fault is taken by every thread that would act. -/
def issueGroup (op : Nat) (f : Fields) (body : List Nat → Nat → State → Act) (s : State) : Host.Outcome State Fault Refusal :=
  let r := screen op f s.beat.threads s
  .next ((groupKeys r.2).foldl (fun s' g =>
    let ks := r.2.filter fun k => gidOf k = g
    if (s'.grp g).replays.isSome then
      match body ks (leaderOf ks) s' with
      | .fault _ => ks.foldl diverge s'
      | .stay s'' => s''
      | a => ks.foldl (fun x k => engineDone op f s' x k) (a.state s')
    else
    match body ks (leaderOf ks) s' with
    | .go s'' => ks.foldl (fun x k => noteWord op f s' k none x) (advanceAll s'' ks)
    | .to s'' h => ks.foldl (fun x k => arrive x k h) s''
    | .set s'' => s''
    | .stay s'' => s''
    | .fault x => ks.foldl (fun y k => if (nfind y.threads k).isSome then takeFlt y k x else y) s') r.1)

/-- A meaning that only writes a thread's registers: it computes the thread's new registers from the thread. -/
def regs (f : Nat → State → Thread → Thread) : Nat → State → Act := fun k s => .go (s.modThr k (f k s))

end Sys2Proof.Machine
end

