-- ==== Sys2Proof/Machine/Capability.lean ====
section
/-! DEFINITION. The capability words of class 0x3 (spec/05, R121 to R124). -/

namespace Sys2Proof.Machine

/-- CINC: the cursor moved by Sx(x[B]), or set to base + Zx(x[B]) (R121). -/
def capInc (m : Nat) (c : CapReg) (b : Word) : CapReg :=
  if m = 0 then c.setCursor (((c.cursor : Int) + b.toInt) % 2 ^ 52).toNat else c.setCursor ((c.base + b.toNat) % 2 ^ 52)

/-- CSETB: bounds of x[B] bytes at the cursor; the tag stays only if they are exact and lie inside the old ones (R121). -/
def capSetB (c : CapReg) (b : Word) : CapReg :=
  let l := b.toNat
  let nb := c.cursor
  let ok := exactLen nb l && c.base ≤ nb && nb + l ≤ c.base + c.length
  let (e, m) := encLen l
  { (c.setBase nb).setLen e m with tag := c.tag && ok }

/-- CPERM: the permissions ANDed with x[B][5:0] (R121). -/
def capPerm (c : CapReg) (b : Word) : CapReg := c.maskPerms (b.extractLsb' 0 6)

/-- A derivation of q[D] from q[A] and x[B]: the whole quad with its tag (R120, R121). -/
def derive (f : Fields) (g : CapReg → Word → CapReg) : Nat → State → Act :=
  regs fun _ _ t => t.wrCap f.d.toNat (g (t.cap f.a.toNat) (t.x f.b.toNat))

/-- CINC (R121). -/
def execCinc (f : Fields) (s : State) : Host.Outcome State Fault Refusal := issue 0x37 f (derive f (capInc f.m.toNat)) s

/-- CSETB (R121). -/
def execCsetb (f : Fields) (s : State) : Host.Outcome State Fault Refusal := issue 0x38 f (derive f capSetB) s

/-- CPERM (R121). -/
def execCperm (f : Fields) (s : State) : Host.Outcome State Fault Refusal := issue 0x39 f (derive f capPerm) s

/-- CGET's value (Table 5.7). -/
def capGet (m : Nat) (c : CapReg) : Word :=
  match m with
  | 0 => BitVec.ofNat 32 (((c.cursor : Int) - c.base) % 2 ^ 32).toNat
  | 1 => BitVec.ofNat 32 (min c.length 0xFFFFFFFF)
  | 2 => BitVec.ofNat 32 (c.tag.toNat * 2 ^ 31 + c.space * 2 ^ 8 + c.perms.toNat)
  | _ => c.w2

/-- CGET.what (R124). -/
def execCget (f : Fields) (s : State) : Host.Outcome State Fault Refusal :=
  issue 0x3A f (regs fun _ _ t => t.wr f.d.toNat (capGet f.m.toNat (t.cap f.a.toNat))) s

/-- Whether the access that CTEST names would pass R126; .tag tests tag and space alone (Table 5.7). -/
def capTest (s : State) (k m size : Nat) (c : CapReg) (off : Word) : Bool :=
  match m with
  | 0 => capCheck s k c permLD (accessAddr c off.toNat) (2 ^ size) == 0
  | 1 => capCheck s k c permST (accessAddr c off.toNat) (2 ^ size) == 0
  | 2 => capCheck s k c permAT (accessAddr c off.toNat) (2 ^ size) == 0
  | _ => c.tag && c.space ≤ 4

/-- CTEST.need (R124): merged into bit b. -/
def execCtest (f : Fields) (s : State) : Host.Outcome State Fault Refusal :=
  issue 0x3B f (regs fun k s t =>
    t.wrBit f.d.toNat f.bit (capTest s k f.m.toNat f.cond (t.cap f.a.toNat) (t.x f.b.toNat))) s

/-- CADDR: the cursor (R124). -/
def execCaddr (f : Fields) (s : State) : Host.Outcome State Fault Refusal :=
  issue 0x3C f (regs fun _ _ t => t.wrd f.d.toNat (BitVec.ofNat 64 (t.cap f.a.toNat).cursor)) s

/-- CRANGE: the padded length, or the alignment mask, of Enc(x[A]) (R123). -/
def capRange (m : Nat) (a : Word) : Word :=
  let (e, mm) := encLen a.toNat
  if m = 0 then if e = 0 then a else BitVec.ofNat 32 ((64 + mm) * 2 ^ (e - 1))
  else if e = 0 then 0xFFFFFFFF else ~~~(BitVec.ofNat 32 (2 ^ (e - 1) - 1))

/-- CRANGE (R123). -/
def execCrange (f : Fields) (s : State) : Host.Outcome State Fault Refusal :=
  issue 0x3E f (regs fun _ _ t => t.wr f.d.toNat (capRange f.m.toNat (t.x f.a.toNat))) s

end Sys2Proof.Machine
end

