-- ==== Sys2Proof/Machine/Control.lean ====
section
/-! DEFINITION. Class 0x0: branches, calls, waiting and ending, the mode register (spec/04, R88 to R97). -/

namespace Sys2Proof.Machine

/-- Take a transfer with the state that its writes give: a target that is no block start of the extent is a bad target, and then
nothing has been written (R68, R89). -/
def transfer (s : State) (k : Nat) (target : Int) (s' : State) : Act :=
  if 0 ≤ target && isBlockStart s k target.toNat then .to s' target.toNat
  else .fault { cause := causeIllegal, sub := 6 }

/-- pc plus a J or T offset (R68). -/
def branchTarget (t : Thread) (off : Int) : Int := (t.pc : Int) + off

/-- NOP (R88). -/
def execNop (f : Fields) (s : State) : Host.Outcome State Fault Refusal := issue 0x00 f (fun _ s => .go s) s

/-- BRA (R89). -/
def execBra (f : Fields) (s : State) : Host.Outcome State Fault Refusal :=
  issue 0x01 f (fun k s => transfer s k (branchTarget (s.thr k) f.imm27.toInt) s) s

/-- BRX (R89). -/
def execBrx (f : Fields) (s : State) : Host.Outcome State Fault Refusal :=
  issue 0x02 f (fun k s => transfer s k ((s.thr k).x f.a.toNat).toNat s) s

/-- A call: x[D] receives the block start after this block (R89). -/
def link (s : State) (k : Nat) (f : Fields) : State :=
  s.modThr k fun t => t.wr f.d.toNat (BitVec.ofNat 32 (nextBlock t))

/-- CALL (R89). -/
def execCall (f : Fields) (s : State) : Host.Outcome State Fault Refusal :=
  issue 0x03 f (fun k s => transfer s k (branchTarget (s.thr k) f.imm27.toInt) (link s k f)) s

/-- CALLX: x[A] is read before anything is written (R89). -/
def execCallx (f : Fields) (s : State) : Host.Outcome State Fault Refusal :=
  issue 0x04 f (fun k s => transfer s k ((s.thr k).x f.a.toNat).toNat (link s k f)) s

/-- RET: as BRX; the mark for the fetch predictor never changes a result (R90). -/
def execRet (f : Fields) (s : State) : Host.Outcome State Fault Refusal :=
  issue 0x05 f (fun k s => transfer s k ((s.thr k).x f.a.toNat).toNat s) s

/-- Whether a time register is due within x[D] ticks (R91). -/
def isDue (s : State) (k : Nat) (f : Fields) : Bool :=
  let t := s.thr k
  (t.readT f.tTime).tick ≤ s.nowOf k + (t.x f.d.toNat).toNat

/-- BRT.LATE: in deterministic mode never taken (R91). -/
def execBrtLate (f : Fields) (s : State) : Host.Outcome State Fault Refusal :=
  issue 0x06 f (fun k s =>
    if !s.det k && !isDue s k f then transfer s k (branchTarget (s.thr k) f.off23.toInt) s else .go s) s

/-- BRT.DUE: in deterministic mode taken, once the access has delivered (R91). -/
def execBrtDue (f : Fields) (s : State) : Host.Outcome State Fault Refusal :=
  issue 0x07 f (fun k s =>
    if s.det k || isDue s k f then transfer s k (branchTarget (s.thr k) f.off23.toInt) s else .go s) s

/-- YIELD: not ready in the core's next 8 beat slots (R92). -/
def execYield (f : Fields) (s : State) : Host.Outcome State Fault Refusal :=
  issue 0x08 f (fun k s => .go (s.modThr k fun t => { t with yieldBar := s.curSlot (s.coreOf k) + 8 })) s

/-- Park at the word until a tick, unless it is at most 16 ahead (R93, R263, R371). -/
def parkUntil (s : State) (k w : Nat) (wait : Wait) : Act :=
  if w ≤ s.nowOf k + 16 then .go s else .set (s.modThr k fun t => { t with wait := wait })

/-- PARK: until the tick in d[A][59:0] (R93). -/
def execPark (f : Fields) (s : State) : Host.Outcome State Fault Refusal :=
  issue 0x09 f (fun k s =>
    let w := ((s.thr k).d f.a.toNat).toNat % 2 ^ 60
    parkUntil s k w (.park w)) s

/-- The threads of a thread's row that have not exited. -/
def liveRow (s : State) (k : Nat) : List Nat := (threadsOf s (gidOf k)).filter fun j => rowOf j = rowOf k && (s.thr j).life != .exited

/-- Every thread of a row that has not exited waits in ROWSYNC (R262). -/
def rowWaits (s : State) (k : Nat) : Bool := !(liveRow s k).isEmpty && (liveRow s k).all fun j => (s.thr j).wait == .row

/-- ROWSYNC's release: every thread of a row that has not exited waits in it; they go on, and issue their next word together (R262). -/
def rowRelease (s : State) (k : Nat) : State :=
  if rowWaits s k then
    let n := s.ids
    (liveRow s k).foldl (fun x j => (wakeOn x j).modThr j fun t => { t with together := n }) s.fresh
  else s

/-- EXIT (R94); the exit is counted for the audit (R407), and may release the row from ROWSYNC (R262). -/
def execExit (f : Fields) (s : State) : Host.Outcome State Fault Refusal :=
  issue 0x0A f (fun k s =>
    let j := rowOf k % 4
    .set (rowRelease ((endThread s k).modGrp (gidOf k) fun g => { g with exits := nset g.exits j (nget g.exits j 0 + 1) }) k)) s

/-- TRAP: the user trap with code imm27, the saved pc after the word (R95); a thread that DBGSTEP has let issue it stops in the handler (R372). -/
def execTrap (f : Fields) (s : State) : Host.Outcome State Fault Refusal :=
  issue 0x0B f (fun k s =>
    let t := s.thr k
    if !t.pend.isEmpty && !t.sys then .stay (s.modThr k fun t => { t with faultWaits := true })
    else .set (debugStop (deliver s k (t.pc + 1) causeUser 0 false f.imm27.toNat 0) k)) s

/-- BKPT: stops the thread when its core's DBGEN is set, else nothing (R95). -/
def execBkpt (f : Fields) (s : State) : Host.Outcome State Fault Refusal :=
  issue 0x0C f (fun k s =>
    if (s.core (s.coreOf k)).dbgen then .go (s.modThr k fun t => { t with life := .stopped }) else .go s) s

/-- The mode register with bits [3:0] written under a mask (R97). -/
def modeSet (mode : Word) (n : Nat) : Word :=
  let mask := BitVec.ofNat 32 (n / 256 % 16)
  (mode &&& ~~~mask) ||| (BitVec.ofNat 32 (n % 16) &&& mask)

/-- SETMODE (R97). -/
def execSetmode (f : Fields) (s : State) : Host.Outcome State Fault Refusal :=
  issue 0x0D f (regs fun _ _ t => { t with mode := modeSet t.mode f.imm18.toNat }) s

/-- GETMODE (R96). -/
def execGetmode (f : Fields) (s : State) : Host.Outcome State Fault Refusal :=
  issue 0x0E f (regs fun _ _ t => t.wr f.d.toNat t.mode) s

/-- LOOPN (R89): an exhausted count falls through unwritten, the last pass writes 0 and falls through. -/
def execLoopn (f : Fields) (s : State) : Host.Outcome State Fault Refusal :=
  issue 0x0F f (fun k s =>
    let t := s.thr k
    let x := t.x f.d.toNat
    let s' := s.modThr k fun t => t.wr f.d.toNat (x - 1)
    if x = 0 then .go s
    else if x = 1 then .go s'
    else transfer s k (branchTarget t f.imm27.toInt) s') s

end Sys2Proof.Machine
end

