-- ==== Sys2Proof/Machine/Float.lean ====
section
/-! DEFINITION. Class 0x4: FP32 arithmetic (spec/06, R138 to R145). -/

namespace Sys2Proof.Machine

/-- F(x[r]): read as FP32, flushed under R134. -/
def fpIn (t : Thread) (r : Nat) : Real := fp32.read (ftzOf t.mode) (t.x r).toNat

/-- The pattern of x[r] as an FP32 operand, flushed under R134. -/
def fpBits (t : Thread) (r : Nat) : Nat := fp32.operand (ftzOf t.mode) (t.x r).toNat

/-- Round32 of an exact result (R57, R134). -/
def fpOut (t : Thread) (r : Rnd) (v : Real) : Word := BitVec.ofNat 32 (fp32.round r (ftzOf t.mode) v)

/-- x[D] from an exact result, rounded once as M selects (R139). -/
def fpArith (f : Fields) (g : Thread → Rnd → Real) : Nat → State → Act :=
  regs fun k s t => let r := rndOf s k f 32 0; t.wr f.d.toNat (fpOut t r (g t r))

/-- FADD (R139). -/
def execFadd (f : Fields) (s : State) : Host.Outcome State Fault Refusal :=
  issue 0x40 f (fpArith f fun t r => addR r.isRdn (fpIn t f.a.toNat) (fpIn t f.b.toNat)) s

/-- FSUB (R139). -/
def execFsub (f : Fields) (s : State) : Host.Outcome State Fault Refusal :=
  issue 0x41 f (fpArith f fun t r => addR r.isRdn (fpIn t f.a.toNat) (negR (fpIn t f.b.toNat))) s

/-- FMUL (R139). -/
def execFmul (f : Fields) (s : State) : Host.Outcome State Fault Refusal :=
  issue 0x42 f (fpArith f fun t _ => mulR (fpIn t f.a.toNat) (fpIn t f.b.toNat)) s

/-- FFMA: one rounding, no intermediate (R139). -/
def execFfma (f : Fields) (s : State) : Host.Outcome State Fault Refusal :=
  issue 0x43 f (fpArith f fun t r =>
    addR r.isRdn (mulR (fpIn t f.a.toNat) (fpIn t f.b.toNat)) (fpIn t f.c.toNat)) s

/-- The lesser or the greater of two FP32 registers (R140). -/
def fpMinMax (f : Fields) (greater : Bool) : Nat → State → Act :=
  regs fun _ _ t => t.wr f.d.toNat (BitVec.ofNat 32 (fp32.minNum greater (fpBits t f.a.toNat) (fpBits t f.b.toNat)))

/-- FMIN (R140). -/
def execFmin (f : Fields) (s : State) : Host.Outcome State Fault Refusal := issue 0x44 f (fpMinMax f false) s

/-- FMAX (R140). -/
def execFmax (f : Fields) (s : State) : Host.Outcome State Fault Refusal := issue 0x45 f (fpMinMax f true) s

/-- FADDMIN: the rounded sum, then MinNum with c, which is not rounded again (R139). -/
def execFaddmin (f : Fields) (s : State) : Host.Outcome State Fault Refusal :=
  issue 0x46 f (regs fun k s t =>
    let r := rndOf s k f 32 0
    let v := fpOut t r (addR r.isRdn (fpIn t f.a.toNat) (fpIn t f.b.toNat))
    t.wr f.d.toNat (BitVec.ofNat 32 (fp32.minNum false v.toNat (fpBits t f.c.toNat)))) s

/-- FCMP: the outcome into bit b of x[D] (R142). -/
def execFcmp (f : Fields) (s : State) : Host.Outcome State Fault Refusal :=
  issue 0x47 f (regs fun _ _ t =>
    let d := f.d.toNat
    t.wrBit d f.bit (fpMerge f.cond ((t.x d).getLsbD f.bit) (fpIn t f.a.toNat) (fpIn t f.b.toNat))) s

/-- The sign that FSGN gives (Table 6.5). -/
def signOf (code : Nat) (a b : Bool) : Bool :=
  match code with
  | 0 => b
  | 1 => !b
  | 2 => a != b
  | 3 => false
  | _ => !a

/-- FSGN: bit 31 of x[A], after R134, and nothing else (R144). -/
def execFsgn (f : Fields) (s : State) : Host.Outcome State Fault Refusal :=
  issue 0x48 f (regs fun _ _ t =>
    let a : Word := BitVec.ofNat 32 (fpBits t f.a.toNat)
    t.wr f.d.toNat (BitVec.ofBool (signOf f.c.toNat a.msb (t.x f.b.toNat).msb) ++ a.extractLsb' 0 31)) s

/-- The class of an FP32 pattern (Table 6.5). -/
def fpClass (b : Nat) : Nat :=
  let m := fp32.mag b
  let n := fp32.sign b
  if m > 0x7F800000 then if m.testBit 22 then 9 else 8
  else if m = 0x7F800000 then if n then 0 else 7
  else if m = 0 then if n then 3 else 4
  else if m < 0x800000 then if n then 2 else 5
  else if n then 1 else 6

/-- FCLASS: the one-hot class of F(x[A]) (R144). -/
def execFclass (f : Fields) (s : State) : Host.Outcome State Fault Refusal :=
  issue 0x49 f (regs fun _ _ t => t.wr f.d.toNat (BitVec.ofNat 32 (2 ^ fpClass (fpBits t f.a.toNat)))) s

/-- A real rounded to an integral real of the same sign (R145). -/
def integral (r : Rnd) (v : Real) : Real :=
  match v with
  | .fin n m e => .fin n (roundInt r (.fin n m e)).2 0
  | v => v

/-- FRND (R145). -/
def execFrnd (f : Fields) (s : State) : Host.Outcome State Fault Refusal :=
  issue 0x4A f (fpArith f fun t r => integral r (fpIn t f.a.toNat)) s

/-- A real rounded and saturated to .s32 (code 0) or .n32 (R145). -/
def intOf (code : Nat) (r : Rnd) (v : Real) : Word :=
  let lo : Int := if code = 0 then -0x80000000 else 0
  let hi : Int := if code = 0 then 0x7FFFFFFF else 0xFFFFFFFF
  match v with
  | .nan => 0
  | .inf n => BitVec.ofInt 32 (if n then lo else hi)
  | v =>
    let (n, m) := roundInt r v
    BitVec.ofInt 32 (max lo (min hi (if n then -(m : Int) else m)))

/-- FCVTI.ty (R145). -/
def execFcvti (f : Fields) (s : State) : Host.Outcome State Fault Refusal :=
  issue 0x4B f (regs fun k s t => t.wr f.d.toNat (intOf f.b.toNat (rndOf s k f 32 0) (fpIn t f.a.toNat))) s

/-- ITOF.ty (R145). -/
def execItof (f : Fields) (s : State) : Host.Outcome State Fault Refusal :=
  issue 0x4C f (fpArith f fun t _ =>
    let a := t.x f.a.toNat
    realOfInt (if f.b = 0 then a.toInt else a.toNat)) s

/-- a · 2^n. Beyond ±1,000 the exponent decides nothing further about a binary32 result. -/
def scaleR (a : Real) (n : Int) : Real :=
  match a with
  | .fin s m e => .fin s m (e + max (-1000) (min n 1000))
  | a => a

/-- FSCALE (R139). -/
def execFscale (f : Fields) (s : State) : Host.Outcome State Fault Refusal :=
  issue 0x4D f (fpArith f fun t _ => scaleR (fpIn t f.a.toNat) (t.x f.b.toNat).toInt) s

/-- The choice between two value-index pairs (R141). -/
def fpPick (f : Fields) (greater : Bool) : Nat → State → Act :=
  regs fun _ _ t =>
    let a := f.a.toNat
    let b := f.b.toNat
    let p := fp32.pick greater (fpBits t a, (t.x (a + 1)).toNat) (fpBits t b, (t.x (b + 1)).toNat)
    t.wrd f.d.toNat (BitVec.ofNat 32 p.2 ++ BitVec.ofNat 32 p.1)

/-- FMAXI (R141). -/
def execFmaxi (f : Fields) (s : State) : Host.Outcome State Fault Refusal := issue 0x4E f (fpPick f true) s

/-- FMINI (R141). -/
def execFmini (f : Fields) (s : State) : Host.Outcome State Fault Refusal := issue 0x4F f (fpPick f false) s

end Sys2Proof.Machine
end

