-- ==== Sys2Proof/Machine/Access.lean ====
section
/-! DEFINITION. The paths of reads and updates: where a read is served and when (Table 9.3), the damper (R354), the porch's
forwarding (R237), leases (R203), tiles (R292), the course of an update to its home (R230 to R245), and the records of the audit's
digest (R407). Ticks are kept on die 0's copy of device time; a tick that a thread sees is stated on its own die's copy. The figures
are the unloaded ones of Tables 9.3 and 11.2, to which `State.delays` adds (log 7). -/

namespace Sys2Proof.Machine

/-! ### The damper (R354, R355) and the throttle trap (R356) -/

/-- A thread in PARK or SLEEP is woken (R356). -/
def wakeParked (s : State) (k : Nat) : State := match (s.thr k).wait with | .park _ | .woken _ | .tick _ => wakeOn s k | _ => s

/-- An armed edge raises the trap in the live threads of a group's lowest row that has any; those in PARK or SLEEP wake (R356). -/
def raiseThrottle (s : State) (g : Nat) (start : Bool) : State :=
  let live := (threadsOf s g).filter fun k => (s.thr k).life != .exited
  let row := live.foldl (fun m k => min m (rowOf k)) 64
  (live.filter fun k => rowOf k = row).foldl (fun x k =>
    (wakeParked x k).modThr k fun t =>
      { t with pendThrStart := t.pendThrStart || start, pendThrEnd := t.pendThrEnd || !start }) s

/-- A throttle edge on a cluster: each resident group counts it, and takes the trap if armed (R356), but for a deterministic launch
(R353). -/
def throttleEdge (s : State) (cluster : Nat) (start : Bool) : State :=
  s.groups.foldl (fun x p =>
    if p.2.cluster = cluster && p.2.residency = .resident then
      let y := x.modGrp p.1 fun g => { g with edges := g.edges + 1 }
      if (if start then p.2.armStart else p.2.armEnd) && !(s.lch p.2.launch).kernel.det then
        raiseThrottle (y.modGrp p.1 fun g =>
          if start then { g with armStart := false, firedStart := true } else { g with armEnd := false, firedEnd := true }) p.1 start
      else y
    else x) s

/-- A cluster's grant in an interval, as far as it is set: none for no limit (R354). -/
def grantIn (c : Cluster) (i : Nat) : Option Nat :=
  match c.nextGrant with
  | some (j, g) => if j ≤ i then some g else c.grant
  | none => c.grant

/-- An interval has bytes for one more line. -/
def bytesLeft (c : Cluster) (i : Nat) : Bool := (grantIn c i).all fun g => nget c.used i 0 < g / 64

/-- The first interval from one on, among `fuel`, that has bytes left and a slot for a booking that is moved into it: such slots are granted one per
tick (R354). -/
def freeInterval (c : Cluster) (fuel i : Nat) : Option Nat :=
  match fuel with
  | 0 => none
  | fuel + 1 => if bytesLeft c i && nget c.moved i 0 < 1024 then some i else freeInterval c fuel (i + 1)

/-- The tick of die 0's copy at which another die's copy has reached a tick. -/
def tickOn (s : State) (die w : Nat) : Nat := if w ≤ (s.die die).heldTo then 0 else w + (s.die die).behind - (s.die die).ahead

/-- The interval of 1,024 ticks that holds a tick (R354). -/
def intervalOf (tick : Nat) : Nat := tick / 1024

/-- Charge a line to the interval of its slot at the arbiter of a die, on that die's copy of device time (R26); a booking that exceeds the
grant moves to the first tick of the first later interval with bytes left, one per tick in request order, and throttles the cluster (R354, R355).
Answers the ticks by which it moved; none where no interval has bytes under the grants set so far. -/
def charge (s : State) (cluster die slot : Nat) : Option (State × Nat) :=
  let c := s.cluster cluster
  let at_ := s.onDie die slot
  let i := intervalOf at_
  if (grantIn c i).isNone then some (s, 0)
  else if bytesLeft c i then some (s.modCluster cluster fun x => { x with used := nset x.used i (nget x.used i 0 + 1) }, 0)
  else
    (freeInterval c (c.used.length + c.moved.length + (c.nextGrant.map (·.1 - i)).getD 0 + 1) (i + 1)).map fun j =>
      let n := nget c.moved j 0
      let s1 := s.modCluster cluster fun x =>
        { x with used := nset x.used j (nget x.used j 0 + 1), moved := nset x.moved j (n + 1)
                 movedIn := some (intervalOf (s.nowOn (dieOfCluster cluster))), throttled := true }
      (if c.throttled then s1 else throttleEdge s1 cluster true, j * 1024 + n - at_)

/-- The tick at which the interval after that of a tick begins: a booking that no interval has bytes for asks again then (R354). -/
def nextBoundary (tick : Nat) : Nat := (intervalOf tick + 1) * 1024

/-- The further ticks of the next booking, under load (log 7). -/
def takeDelay (s : State) : State × Nat := ({ s with delays := s.delays.drop 1 }, s.delays.headD 0)

/-! ### Calendars (R57, R205) -/

/-- The booking points of Table 9.3, by number: the L1 port of a core, the crossbar port of a cluster, the links of a die up to its base die
and back, its cache banks, its porch's read port, its slots on the package path out and back, the ports of the pool, of the host and of the
domain's links, and the calendar of a pseudo-channel. -/
def pointL1 (core : Nat) : Nat := core
def pointSram (cluster : Nat) : Nat := 1024 + cluster
def pointUp (die : Nat) : Nat := 2048 + die
def pointDown (die : Nat) : Nat := 2064 + die
def pointBank (die : Nat) : Nat := 2080 + die
def pointPorch (die : Nat) : Nat := 2096 + die
def pointOut (die : Nat) : Nat := 2112 + die
def pointBack (die : Nat) : Nat := 2128 + die
def pointPool : Nat := 2144
def pointHost : Nat := 2145
def pointLink (device : Nat) : Nat := 2160 + device % 18
def pointChannel (die channel : Nat) : Nat := 4096 + die * 64 + channel

/-- A booking point has a slot at a tick. -/
def slotFree (s : State) (point tick : Nat) : Bool :=
  let n := nget (nget s.calendars point []) tick 0
  n = 0 || n < Config.slotWidth point

/-- The first tick from one on at which a point has a slot, looking `fuel` ticks ahead. -/
def firstSlot (s : State) (point fuel tick : Nat) : Option Nat :=
  match fuel with
  | 0 => none
  | fuel + 1 => if slotFree s point tick then some tick else firstSlot s point fuel (tick + 1)

/-- Reserve a slot; slots of past ticks are forgotten. -/
def reserve (s : State) (point tick : Nat) : State :=
  let c := (nget s.calendars point []).filter fun p => s.now ≤ p.1
  { s with calendars := nset s.calendars point (nset c tick (nget c tick 0 + 1)) }

/-- What a path meets, with the ticks after its start at which it does so on an idle machine. -/
inductive Stop where
  | slot (point off : Nat)
  /-- the memory-side arbiter of a die (R354) -/
  | arbiter (die off : Nat)
  /-- the read point, not before a tick (R203, R266): the slot of a point, where the source has one (R201) -/
  | read (point : Option Nat) (off after : Nat)
  deriving DecidableEq, Repr

/-- Reserve a slot at every point of a path, in path order (R57): each stop moves those after it. Answers the read point and the ticks by which
the path's end moves; none where a calendar has no free slot within its horizon of 4,096 ticks (R205), or the damper none (R354). -/
def bookStops (s : State) (cluster base : Nat) : List Stop → Nat → Nat → Option (State × Nat × Nat)
  | [], shift, read => some (s, read, shift)
  | .slot p o :: rest, shift, read =>
    let want := base + o + shift
    match firstSlot s p (s.now + 4096 - want) want with
    | some t => bookStops (reserve s p t) cluster base rest (shift + (t - want)) read
    | none => none
  | .arbiter d o :: rest, shift, read =>
    match charge s cluster d (base + o + shift) with
    | some (s1, moved) => bookStops s1 cluster base rest (shift + moved) read
    | none => none
  | .read p o after :: rest, shift, _ =>
    let want := base + o + shift
    let from_ := max want after
    match p with
    | none => bookStops s cluster base rest (shift + (from_ - want)) from_
    | some p =>
      match firstSlot s p (s.now + 4096 - from_) from_ with
      | some t => bookStops (reserve s p t) cluster base rest (shift + (t - want)) t
      | none => none

/-! ### The porch, seen by a read (R237) -/

/-- The porch entries of a die that meet a read's bytes, in sequence order, but for the reader's own (R237). An ef entry that is
applied serves no longer (R15). -/
def porchMeets (s : State) (die : Nat) (k : Option Nat) (key n : Nat) : NMap Upd :=
  s.upds.filter fun p =>
    let u := p.2
    u.die == die && u.inPorch && meets u.key u.bytes key n && !(k.isSome && u.th == k) &&
      (u.v || u.unapplied || (match u.kind with | .store _ _ => false | _ => true))

/-- The younger of two entries to one home (R236). -/
def younger (a b : Upd) : Upd := if a.seq ≤ b.seq then b else a

/-- The youngest entry of some. -/
def youngest (us : List Upd) : Option Upd :=
  us.foldl (fun m u => match m with | none => some u | some v => some (younger v u)) none

/-- An entry that may serve a read early: an ef store, never an atomic (R237). -/
def Upd.forwards (u : Upd) : Bool := !u.v && (match u.kind with | .store _ _ => true | _ => false)

/-- What a read does with the porch of its die (Table 11.3): it goes to the home, it waits for entries, or entries serve it. -/
inductive PorchSays where
  | home
  | wait (entries : List Nat)
  | forward (entries : List Nat)
  deriving DecidableEq, Repr

/-- The entries of a die's porch that meet some bytes, applied ones too, but for a thread's own. -/
def porchOverlaps (s : State) (die : Nat) (k : Option Nat) (key n : Nat) : List Nat :=
  (s.upds.filter fun p => p.2.die == die && p.2.inPorch && meets p.2.key p.2.bytes key n && !(k.isSome && p.2.th == k)).map (·.1)

/-- Table 11.3 for a read of `n` bytes at a key. An ef entry that is applied serves no longer (R15), nor is it the
youngest: a read that overlaps it and an older ga entry that is not acknowledged waits for the ga entry (DESIGN CHOICE, log 118). -/
def porchSays (s : State) (die : Nat) (k : Option Nat) (key n : Nat) : PorchSays :=
  let us := porchMeets s die k key n
  let l := us.map (·.2)
  match youngest l with
  | none => .home
  | some u =>
    if !u.forwards then .wait ((us.filter fun p => p.2 = u).map (·.1))
    else if (List.range n).all fun i =>
        match youngest (l.filter fun v => v.key ≤ key + i && key + i < v.key + v.bytes) with
        | some v => v.forwards
        | none => false
      then .forward (us.map (·.1))
    else .wait (porchOverlaps s die k key n)

/-- Whether any of some entries still waits for its acknowledgement. -/
def entriesOpen (s : State) (ids : List Nat) : Bool :=
  ids.any fun i => match nfind s.upds i with | some u => u.inPorch | none => false

/-- Entries that serve a read, laid over the bytes at its home; one that its home has applied serves no more (R15, R237). -/
def forwarded (s : State) (entries : List Nat) (key : Nat) (bs : List Byte) : List Byte :=
  overlay (s.upds.filter fun p => entries.contains p.1 && p.2.unapplied && p.2.forwards) key bs

/-! ### Where a read is served -/

/-- The line of a key. -/
def lineOf (key : Nat) : Nat := key / 64

/-- Whether bytes meet a tile that some copy fills (R292). -/
def inFilling (s : State) (key n : Nat) : Bool :=
  s.groups.any fun p => p.2.residency ≠ .saved && p.2.tiles.any fun t => !t.fill.isEmpty && meets key n (sramKey p.2.cluster t.off) t.len

/-- Whether bytes meet a tile that is filling or draining (R292). -/
def inBusyTile (s : State) (key n : Nat) : Bool :=
  s.groups.any fun p => p.2.residency ≠ .saved && p.2.tiles.any fun t => !t.ready && meets key n (sramKey p.2.cluster t.off) t.len

/-- The latest tick until which a home's lehr holds an update to a line, which a read waits for (R203). -/
def lehrHolds (s : State) (line : Nat) : Nat :=
  s.upds.foldl (fun m p => match p.2.phase with | .lehr c => if lineOf p.2.key = line then max m c else m | _ => m) 0

/-- The paths of a read (Table 9.3). -/
inductive Src where
  | own
  | l1
  | sram
  | cache
  | stack
  | porch
  | remote
  | pool
  | host
  | domain (bounded : Bool)
  deriving DecidableEq, Repr

/-- A path's figures, as ticks after its start: PROBE's source code (R198), when the promise is known, the landing; whether it gives an
estimate only. Another die's stack is promised 299 ticks on and a tick for each of its two changes of die (R205): Table 10.3's 301. -/
structure Path where
  code : Nat
  known : Nat
  land : Nat
  est : Bool := false
  deriving DecidableEq, Repr

def Src.path (x : Src) : Path :=
  match x with
  | .own => { code := 7, known := 2, land := 28 }
  | .l1 => { code := 0, known := 2, land := 28 }
  | .sram => { code := 1, known := 2, land := 40 }
  | .cache => { code := 2, known := 24, land := 90 }
  | .stack => { code := 3, known := 24, land := 180 }
  | .porch => { code := 7, known := 24, land := 60 }
  | .remote => { code := 4, known := 70, land := 301 }
  | .pool => { code := 5, known := 24, land := 24, est := true }
  | .host => { code := 5, known := 24, land := 24, est := true }
  | .domain bounded => { code := 6, known := 0, land := 850, est := !bounded }

/-- A path to another device runs in bounded mode (R426). -/
def boundedPath (s : State) (device : Nat) : Bool := (nget s.domainMode (device / 32) 0).getLsbD (device % 32)

/-- The bytes of die space lie in lines that each live die locks in its memory-side cache (R30, R31). -/
def lockedLine (key : Nat) : Bool := 2 ^ 56 ≤ key && key < 2 ^ 62

/-- A line that a home's memory-side cache holds. -/
def inCache (s : State) (key : Nat) : Bool := lockedLine key || s.cached.contains (lineOf key)

/-- The tick until which a core's L1 holds a line: under lease (R203), or pinned by PROBE (R198); none where it does not. -/
def l1Till (s : State) (core line : Nat) : Option Nat :=
  let pin := (nfind s.pins (line * 1024 + core)).bind fun e => if e.1 ≤ s.now && s.now ≤ e.2 then some e.2 else none
  match nfind (s.core core).l1 line, pin with
  | some e, some p => some (max e p)
  | some e, none => some e
  | none, p => p

/-- Whether a thread's own stores, and those its group has staged, cover a read (R202, R217). -/
def coveredOwn (s : State) (k before key n : Nat) : Bool :=
  let us := s.upds.filter fun p => ownStore k before p.1 p.2
  (List.range n).all fun i => us.any fun p => p.2.key ≤ key + i && key + i < p.2.key + p.2.bytes

/-- Whether they hold any of its bytes. -/
def meetsOwn (s : State) (k before key n : Nat) : Bool :=
  s.upds.any fun p => ownStore k before p.1 p.2 && meets p.2.key p.2.bytes key n

/-- A read of a line that the device keeps in L1 looks there first, but for one with the hint bypass (Table 3.3). -/
def looksInL1 (r : Ret) : Bool := r.hint ≠ 2

/-- The path of a read to its home when L1 does not serve it. -/
def missPath (s : State) (core key : Nat) : Src :=
  match homeOf key with
  | .sram _ => .sram
  | .die d => if d != dieOfCore core then .remote else if inCache s key then .cache else .stack
  | .pool => .pool
  | .host => .host
  | .domain d => .domain (boundedPath s d)

/-- The path of a read to its home. -/
def homePath (s : State) (r : Ret) (key : Nat) : Src :=
  if looksInL1 r && homeOf key == .die (dieOfCore r.core) && (l1Till s r.core (lineOf key)).isSome then .l1
  else missPath s r.core key

/-- The stretch of bytes that a return reads: PROBE the 64-byte line (R198). -/
def spanOf (r : Ret) (key : Nat) : Nat × Nat := if r.kind = .probe then (key / 64 * 64, 64) else (key, r.bytes)

/-- An earlier read, or atomic, of the same thread to some of the same bytes. -/
def earlierOf (s : State) (id : Nat) (r : Ret) (p : Nat × Ret) : Bool :=
  p.1 < id && p.2.th == r.th && p.2.bytes > 0 && sameBytes s r.th p.2.space p.2.va p.2.bytes r.space r.va r.bytes

/-- An atomic of the thread to some of a read's bytes that is on its way to its application point: its own update is visible to the thread
from its issue on (Table 13.1), so that a later read follows it. One that is staged is not part of the thread's view (R244). -/
def ownAtomic (id : Nat) (r : Ret) (key : Nat) (p : Nat × Upd) : Bool :=
  p.1 < id && p.2.th == some r.th && (match p.2.kind with | .atomic _ _ _ => true | _ => false) && meets p.2.key p.2.bytes key r.bytes &&
    p.2.unapplied && p.2.phase != .staged

/-- The address of a row of GATH or SCAT (Table 16.2). -/
def Xfer.rowVa (x : Xfer) (u : Nat) : Nat := (x.va + x.stride * x.idx.getD (16 * u / x.row) 0) % 2 ^ 52

/-- The address of a unit on the copy's first memory side. -/
def Xfer.unitVa (x : Xfer) (u : Nat) : Nat :=
  match x.kind with
  | .copy 4 | .copy 5 => (x.rowVa u + 16 * u % x.row) % 2 ^ 52
  | _ => (x.va + 16 * u) % 2 ^ 52

/-- A copy has still to read some bytes of memory; of a tile it reads what stood there at its admission (R292). -/
def Xfer.unread (x : Xfer) (s : State) (k space va n : Nat) : Bool :=
  x.stop.isNone &&
    match x.kind with
    | .copy 0 | .copy 3 => x.next < x.units && sameBytes s k x.space (x.va + 16 * x.next) (16 * (x.units - x.next)) space va n
    | .copy 4 => (List.range' x.next (x.units - x.next)).any fun u => sameBytes s k x.space (x.unitVa u) 16 space va n
    | _ => false

/-- An earlier read of the same thread to some of the same bytes that is not yet booked, of a copy not yet made, or an own atomic that has not
arrived: the later read is booked after it (R266). -/
def waitsForRead (s : State) (id : Nat) (r : Ret) (key : Nat) : Bool :=
  (s.rets.any fun p =>
    earlierOf s id r p &&
      (match p.2.phase with
       | .walk _ _ _ | .back _ _ | .retry _ _ | .blocked => true
       | .await => p.2.kind = .atomic && !retStaged s p.1
       | _ => false)) ||
    (s.xfers.any fun p => p.1 < id && p.2.threads.contains r.th && r.bytes > 0 && p.2.unread s r.th r.space r.va r.bytes) ||
    s.upds.any fun p => ownAtomic id r key p && (match p.2.phase with | .lehr _ => false | _ => true)

/-- What a read that is translated does now. -/
inductive Serve where
  /-- it waits, and is taken up again (R266, R292) -/
  | later
  /-- it waits for entries of the porch (R237) -/
  | wait (entries : List Nat)
  /-- it is booked along a path; entries of the porch serve it -/
  | go (x : Src) (entries : List Nat)
  deriving DecidableEq, Repr

/-- Where a read that is translated is served now (R237, R292, R266). Once it has waited for the entries that it found it goes to the home. -/
def serveOf (s : State) (id : Nat) (r : Ret) (key : Nat) : Serve :=
  let (a, n) := spanOf r key
  if waitsForRead s id r key || inFilling s a n then .later
  else if coveredOwn s r.th id a n then .go .own []
  else
    let home : Src := if meetsOwn s r.th id a n then .own else homePath s r key
    if r.met then (if entriesOpen s r.after then .later else .go home [])
    else
      match porchSays s (dieOfCore r.core) (some r.th) a n with
      | .home => .go home []
      | .forward es => .go (if home = .own then .own else .porch) es
      | .wait es => .wait es

/-- The latest read point of the earlier reads of the same thread to some of the same bytes, and application of its own atomics (R266). -/
def earlierRead (s : State) (id : Nat) (r : Ret) (key : Nat) : Nat :=
  let m := s.rets.foldl (fun m p =>
    if earlierOf s id r p then
      match p.2.phase with
      | .probe _ x _ => max m x
      | .booked x _ => max m x
      | _ => m
    else m) 0
  s.upds.foldl (fun m p => if ownAtomic id r key p then match p.2.phase with | .lehr c => max m c | _ => m else m) m

/-- Change a return. -/
def State.modRet (s : State) (id : Nat) (f : Ret → Ret) : State := { s with rets := nmod s.rets id f }

/-- Change an update. -/
def State.modUpd (s : State) (id : Nat) (f : Upd → Upd) : State := { s with upds := nmod s.upds id f }

/-- Change a transfer. -/
def State.modXfer (s : State) (id : Nat) (f : Xfer → Xfer) : State := { s with xfers := nmod s.xfers id f }

/-- The dies on the package path between two, along the line first and then along the column (R10, log 89). -/
def routeDies (a b : Nat) : List Nat :=
  let step (x y : Nat) : List Nat := if x ≤ y then List.range' x (y + 1 - x) else (List.range' y (x + 1 - y)).reverse
  (step (a % 4) (b % 4)).map (fun c => a / 4 * 4 + c) ++ ((step (a / 4) (b / 4)).drop 1).map fun r => r * 4 + b % 4

/-- The live links. -/
def liveLinks (s : State) : List Nat := (List.range 18).filter fun l => !s.linksDown.contains l

/-- The link that carries the traffic of a line (R425, log 28). -/
def linkOf (s : State) (line : Nat) : Nat := (liveLinks s).getD (Config.freeHash line % (liveLinks s).length) 0

/-- The pseudo-channel of a key on a die, as the number of its path element (R412). -/
def channelElement (die key : Nat) : Nat := 64 * die + (Config.freeChannel (lineOf key)).val

/-- The path elements that an access from a die to a home passes (R412, Table 9.3): the pseudo-channel where a stack serves it, the network share of
each die of the package path, the link to another device. -/
def pathElements (s : State) (die key : Nat) (stack : Bool) : List Nat :=
  match homeOf key with
  | .die d => (if stack then [channelElement d key] else []) ++ (if d = die then [] else (routeDies die d).map (1024 + ·))
  | .domain _ => [1040 + linkOf s (lineOf key)]
  | _ => []

/-- The point at a home that grants a read its slot: the home's cache, or the calendar of the line's pseudo-channel. -/
def homePoint (s : State) (d key : Nat) : Nat :=
  if inCache s key then pointBank d else pointChannel d (Config.freeChannel (lineOf key)).val

/-- The stops of a path (Table 9.3), the read point not before a tick: at the source's own booked slot (R201). -/
def Src.stops (x : Src) (s : State) (core key after : Nat) : List Stop :=
  let die := dieOfCore core
  match x with
  | .own => [.read none 2 after]
  | .l1 => [.read (some (pointL1 core)) 2 after]
  | .sram => [.read (some (pointSram (core / 4))) 2 after]
  | .cache => [.slot (pointUp die) 12, .arbiter die 24, .read (some (pointBank die)) 24 after, .slot (pointDown die) 66]
  | .stack =>
    [.slot (pointUp die) 12, .arbiter die 24, .read (some (homePoint s die key)) 104 after, .slot (pointBank die) 140, .slot (pointDown die) 156]
  | .porch => [.arbiter die 24, .read (some (pointPorch die)) 24 after, .slot (pointDown die) 36]
  | .remote =>
    let d := match homeOf key with | .die d => d | _ => die
    let ds := routeDies die d
    (ds.mapIdx fun i e => .slot (pointOut e) (24 + 8 * i)) ++ [.arbiter d 100, .read (some (homePoint s d key)) 190 after] ++
      (ds.reverse.mapIdx fun i e => .slot (pointBack e) (196 + 8 * i)) ++ [.slot (pointDown die) 277]
  | .pool => [.arbiter die 24, .slot pointPool 24, .read none 24 after]
  | .host => [.arbiter die 24, .slot pointHost 24, .read none 24 after]
  | .domain _ =>
    let d := match homeOf key with | .domain d => d | _ => 0
    [.arbiter die 24, .slot (pointLink d) 24, .read none 450 after]

/-- The return of an atomic's old value from its application point to its core, as ticks after the application; the slots that it books (R241,
Table 9.3). -/
def returnLeg (die key : Nat) : Nat :=
  match homeOf key with
  | .sram _ => 38
  | .die d => if d = die then 76 else 156
  | _ => 24

def returnStops (die key : Nat) : List Stop :=
  match homeOf key with
  | .die d =>
    if d = die then [.slot (pointDown die) 52]
    else ((routeDies die d).reverse.mapIdx fun i e => Stop.slot (pointBack e) (51 + 8 * i)) ++ [.slot (pointDown die) 132]
  | _ => []

/-- Book a read along a path from now on (R205): its slots, moved by the damper and by load (log 7). None where a calendar has no free slot
within its horizon. Answers the read point and the landing. -/
def bookPath (s : State) (id : Nat) (r : Ret) (key : Nat) (x : Src) : Option (State × Nat × Nat) :=
  let p := x.path
  let (s1, extra) := if x = .own then (s, 0) else takeDelay s
  if extra ≥ 4096 then none
  else
    let (s2, more) := if p.est then (s1.drawn, Config.freeEstimate s1.free) else (s1, 0)
    let hold := match x, homeOf key with
      | .own, _ | .l1, _ | .porch, _ => 0
      | _, .die _ => lehrHolds s (lineOf key) + 2
      | _, _ => 0
    let after := max hold (earlierRead s id r key)
    (bookStops s2 (r.core / 4) (s.now + extra) (x.stops s2 r.core key after) 0 0).map fun b =>
      (b.1, b.2.1 + more, s.now + extra + p.land + b.2.2 + more)

/-- The path of a return from the source code that it was booked with. -/
def srcOf (r : Ret) (key : Nat) : Src :=
  match r.source with
  | 0 => .l1
  | 1 => .sram
  | 2 => .cache
  | 3 => .stack
  | 4 => .remote
  | 5 => if homeOf key == .host then .host else .pool
  | 6 => .domain r.bounded
  | _ => .own

/-- The part of a path that remains: from its read point on, or after it. -/
def restOf (read : Bool) : List Stop → List Stop
  | [] => []
  | .read p o a :: rest => if read then rest else .read p o a :: rest
  | _ :: rest => restOf read rest

/-- Book a return anew along the part of its path that remains, so as to land at a tick or as soon after it as the slots allow, its read point not before
another (R213, R205). Answers the read point and the landing; a calendar that is full gives no slot (log 89). -/
def rebook (s : State) (r : Ret) (key again after : Nat) : State × Nat × Nat :=
  let isRead := match r.phase with | .read _ => true | _ => false
  let (len, stops) : Nat × List Stop :=
    if r.kind = .atomic then (returnLeg (dieOfCore r.core) key, returnStops (dieOfCore r.core) key)
    else ((srcOf r key).path.land, restOf isRead ((srcOf r key).stops s r.core key after))
  let base := again - len
  match bookStops s (r.core / 4) base stops 0 after with
  | some (s1, read, shift) => (s1, read, base + len + shift)
  | none => (s, after, again)

/-- A return has found a full calendar: it tries again at the next tick (R205). -/
def retryRet (s : State) (id key : Nat) : State :=
  { s.modRet id fun r => { r with key := some key, phase := .retry (s.now + 1) (s.delays.headD 0 - 1) } with delays := s.delays.drop 1 }

/-- Book a read along a path; a lookup in L1 is a hit only when the delivery that it books lies at or before the line's expiry (R203), else a
miss. -/
def bookOn (s : State) (id : Nat) (r : Ret) (key : Nat) (x : Src) (entries : List Nat) : State :=
  let put (x : Src) (b : State × Nat × Nat) : State :=
    b.1.modRet id fun r =>
      { r with
        key := some key, source := x.path.code, est := (match x with | .domain _ => true | _ => x.path.est), fwd := entries, issued := s.now
        bounded := x == .domain true, stack := x == .stack || x == .remote && !inCache s key
        phase := .probe (s.now + x.path.known) b.2.1 b.2.2 }
  let first := (bookPath s id r key x).filter fun b => x != .l1 || (l1Till s r.core (lineOf key)).any (b.2.2 ≤ ·)
  match first with
  | some b => put x b
  | none =>
    let y := if x = .l1 then missPath s r.core key else x
    match (if x = .l1 then bookPath s id r key y else none) with
    | some b => put y b
    | none => retryRet s id key

/-- Book a read that is translated, or leave it waiting. -/
def bookRet (s : State) (id : Nat) (key : Nat) : State :=
  match nfind s.rets id with
  | none => s
  | some r =>
    match serveOf s id r key with
    | .go x es => bookOn s id r key x es
    | .wait es => s.modRet id fun r => { r with key := some key, phase := .blocked, met := true, after := es }
    | .later => s.modRet id fun r => { r with key := some key, phase := .blocked }

/-- Whether a read that waits may be booked now. -/
def servedNow (s : State) (id : Nat) (r : Ret) (key : Nat) : Bool := match serveOf s id r key with | .go _ _ => true | _ => false

/-! ### Walks (R391, Table 22.5) -/

/-- The ticks of one leg of a walk between a core's die and a table's die. -/
def walkLeg (a b : Nat) : Nat := if a = b then 24 else 70

/-- The table that a base die's cache has for the entry that a walk indexes in a table (R393). -/
def cachedTable (s : State) (table level va : Nat) : Option Nat :=
  let a := pteAddr table level va
  ((s.die (tableDie a)).tableCache.find? fun e => e.entry = a && e.level = level && e.va = levelSpan level va).map (·.table)

/-- One level of a walk: from the cache of table entries of the die that homes it, which keeps an entry until a sweep (R392), else as memory stands. -/
def readLevel (s : State) (table level va : Nat) : WalkStep :=
  match cachedTable s table level va with
  | some t => .down t
  | none => walkLevel s table level va

/-- The ticks of one level: its entry is in that cache, in the memory-side cache, or in DRAM (Table 22.5). -/
def levelTicks (s : State) (table level va : Nat) : Nat :=
  if (cachedTable s table level va).isSome then 8 else if inCache s (pteAddr table level va) then 30 else 130

/-- The first phase of a walk. -/
def walkPhase (s : State) (core tenant va : Nat) : RetPhase :=
  let root := (s.tenant tenant).root
  .walk (s.now + walkLeg (dieOfCore core) (tableDie root) + levelTicks s root 4 va) 4 root

/-! ### Starting a return -/

/-- Start a return of a thread: its registers pending, its time register bound, its counter stepped (R193, R196). -/
def startRet (s : State) (k : Nat) (r : Ret) : State :=
  let id := s.ids
  let s1 := { s with ids := id + 1, rets := nset s.rets id r }
  s1.modThr k fun t =>
    let u := (t.mark r.dst r.n id).count r.counter
    match r.treg with
    | some i => u.bind i id
    | none => u

/-- Start a read of an address: translated by the core's TLB, by a walk, or not at all (R208). -/
def startRead (s : State) (k : Nat) (r : Ret) : State :=
  let id := s.ids
  let core := s.coreOf k
  let tenant := (s.lchOf k).tenant
  let r := { r with core := core, issued := s.now, pc := (s.thr k).pc }
  let s1 := startRet s k { r with phase := walkPhase s core tenant (s.tva k r.space r.va) }
  if translated r.space then
    match leafOf s k r.space r.va with
    | some l => bookRet (lanePageUse s1 k r.space r.va l) id (l.key (s.tva k r.space r.va))
    | none => s1
  else bookRet s1 id (directKey s k r.space r.va)

/-! ### Updates -/

/-- The ticks from the issuing core to an application point, and back (Table 11.2). -/
def legOf (die key : Nat) : Nat :=
  match homeOf key with
  | .sram _ => 2
  | .die d => if d = die then 12 else 140
  | _ => 24

/-- When the completion of an update that arrived at home becomes known at its core, local homes alone (Table 11.2). -/
def knownLeg (die key : Nat) : Nat :=
  match homeOf key with
  | .sram _ => 2
  | _ => if offDie die key then 280 else 24

/-- The next porch sequence number toward a home (R236). -/
def nextSeq (s : State) (die : Nat) (h : Home) : Nat := (((s.die die).seqs.find? fun p => p.1 = h).map (·.2)).getD 0

/-- Step a porch's sequence number toward a home. -/
def bumpSeq (s : State) (die : Nat) (h : Home) : State :=
  s.modDie die fun d => { d with seqs := (h, nextSeq s die h + 1) :: d.seqs.filter fun p => p.1 ≠ h }

/-- An update of some bytes at its home fires the monitors of the flags that wait on them; an ef entry of a porch those of its die (R261). -/
def fireFlags (s : State) (key n : Nat) (die : Option Nat) : State :=
  { s with
    threads := s.threads.map fun p =>
      match p.2.wait with
      | .flag (some a) sp va 0 _ rd f =>
        if meets key n a 4 && die.all (· == s.dieOf p.1) then (p.1, { p.2 with wait := .flag (some a) sp va 0 true rd f }) else p
      | _ => p }

/-- The die whose home keeps an update's completion, on whose copy of device time it is stated, and at whose arbiter its line is charged (R26, R354); beyond
a port the issuer's. -/
def keeper (u : Upd) : Nat := match homeOf u.key with | .die d => d | .sram c => dieOfCluster c | _ => u.die

/-- An update is on its way, and meets the memory-side arbiter at a tick (R354); where no interval has bytes for its line under the grants set so far it asks
again when the next begins. -/
def grantUpd (s : State) (id : Nat) (u : Upd) (tick : Nat) : State :=
  match charge s (u.core / 4) (keeper u) tick with
  | some (s1, moved) => s1.modUpd id fun x => { x with phase := .travel (tick + moved), ungranted := false }
  | none => s.modUpd id fun x => { x with phase := .travel (nextBoundary tick), ungranted := true }

/-- Send an update toward its application point: through the porch if that lies off the die (R236), else at once. The damper charges
its line (R354). -/
def sendUpd (s : State) (id : Nat) : State :=
  match nfind s.upds id with
  | none => s
  | some u =>
    let h := homeOf u.key
    if offDie u.die u.key then
      let s1 := (bumpSeq s u.die h).modUpd id fun u => { u with phase := .porch, seq := nextSeq s u.die h }
      if u.v then s1 else fireFlags s1 u.key u.bytes (some u.die)
    else
      let (s1, extra) := takeDelay s
      let want := s.now + legOf u.die u.key + extra
      match h with
      | .sram c =>
        let t := (firstSlot s1 (pointSram c) (s.now + 4096 - want) want).getD want
        (reserve s1 (pointSram c) t).modUpd id fun u => { u with phase := .travel t }
      | _ => grantUpd s1 id u want

/-- What the check of a store's page gives (R228 item 3). -/
inductive Resolved where
  | key (s : State) (key : Nat)
  | hold (s : State)
  | fault (x : Flt)
  deriving DecidableEq, Repr

/-- The page operation that moves the page of a leaf. -/
def moveOf (s : State) (l : Leaf) : Option Nat :=
  (s.pageOps.find? fun p => (match p.2.kind with | .move _ _ => true | _ => false) && p.2.leaf.entry = l.entry).map (·.1)

/-- Hold a thread for a walk: a record that walks for it. -/
def startWalk (s : State) (k space va : Nat) : State :=
  let core := s.coreOf k
  let s1 := { s with
    ids := s.ids + 1
    rets := nset s.rets s.ids
      { th := k, kind := .word, space := space, va := va, core := core, issued := s.now, pc := (s.thr k).pc
        phase := walkPhase s core (s.lchOf k).tenant (s.tva k space va) } }
  s1.modThr k fun t => { t with walking := true, walked := none, freshWalk := false }

/-- Hold a thread for copy-on-write of the page of a leaf (R397). -/
def startCow (s : State) (k va : Nat) (l : Leaf) (th xfer : Option Nat) : State :=
  { s with
    ids := s.ids + 1
    pageOps := nset s.pageOps s.ids
      { kind := .cow th xfer, tenant := (s.lchOf k).tenant, va := va, leaf := l, phase := .start (s.now + 40) } }

/-- What a leaf gives a store (R228, Table 22.6). -/
def leafStore (s : State) (k space va : Nat) (l : Leaf) : Resolved :=
  match l.state with
  | 0 | 5 => .key s (l.key (s.tva k space va))
  | 1 => .hold ((startCow s k (s.tva k space va) l (some k) none).modThr k fun t => { t with pageHold := some s.ids })
  | 2 =>
    match moveOf s l with
    | some id => .hold (s.modThr k fun t => { t with pageHold := some id })
    | none => .hold (startWalk s k space va)
  | _ => .fault { cause := causeNonResident, addr := va }

/-- The key that a store or atomic names, or why it may not issue yet (R228). In a replay, which writes no memory, any key of the cluster does (R406). -/
def resolve (s : State) (k space va : Nat) : Resolved :=
  let t := s.thr k
  if replaying s k then .key s (sramKey (s.grpOf k).cluster 0)
  else if !translated space then .key s (directKey s k space va)
  else if t.cowRefused then .fault { cause := causeCow, addr := va }
  else
    match t.walked with
    | some .notMapped => .fault { cause := causeNonResident, addr := va }
    | some (.leaf l) => leafStore (lanePageUse (s.modThr k fun t => { t with walked := none }) k space va l) k space va l
    | none =>
      match (if t.freshWalk then none else leafOf s k space va) with
      | some l => leafStore (lanePageUse s k space va l) k space va l
      | none => .hold (startWalk s k space va)

/-- One above the latest completion among a thread's earlier stores and atomics (R234), a tick more for each change of die on the way from
their homes to this one (R270). Copies are not among them (Table 13.2). -/
def notBeforeOf (s : State) (k key : Nat) : Nat :=
  let d := s.dieOf k
  let m := ((updsOf s k).filter fun u => u.xfer.isNone).foldl (fun m u =>
    max m (u.c.getD 0 + (if offDie d u.key then 1 else 0))) 0
  m + 1 + (if offDie d key then 1 else 0)

/-! ### Barrier objects -/

/-- The generation of a barrier object (Table 12.2). -/
def barGen (s : State) (key : Nat) : Word := BitVec.ofNat 32 (rdNat s (key + 8) 4)

/-- A ticket is released by a generation that lies ahead of it (R255). -/
def barPast (gen ticket : Word) : Bool := 0 < (gen - ticket).toNat && (gen - ticket).toNat < 2 ^ 31

/-- The waiters of a barrier object whose ticket has been passed go on; BAR.WAIT reports the tick (R255, R249). -/
def wakeBars (s : State) (key : Nat) : State :=
  s.threads.foldl (fun x p =>
    match p.2.wait with
    | .barrier a (some ticket) treg from_ =>
      if a = key && from_ ≤ s.now && barPast (barGen s a) ticket then
        let y := match treg with
          | some i => x.modThr p.1 fun t => t.setT i { p := true, tick := s.nowOf p.1 }
          | none => x
        wakeOn y p.1
      else x
    | _ => x) s

/-- BAR.INIT: expected arrivals, no arrivals, the reserved word; the generation stays (R255). -/
def barInit (s : State) (key : Nat) (n : Word) : State :=
  wrBytes (wrBytes s key (bytesOfWords [n, 0])) (key + 12) (bytesOfWords [0])

/-- An arrival: its ticket, and the object after it (R255). -/
def barArrive (s : State) (key : Nat) : Word × State :=
  let exp : Word := BitVec.ofNat 32 (rdNat s key 4)
  let arr : Word := BitVec.ofNat 32 (rdNat s (key + 4) 4) + 1
  let gen := barGen s key
  (gen,
   if exp.toNat ≤ arr.toNat then wakeBars (wrBytes s (key + 4) (bytesOfWords [0, gen + 1])) key
   else wrBytes s (key + 4) (bytesOfWords [arr]))

/-! ### Frames put out of use (R240 code 1) -/

/-- Updates to some bytes that are not yet applied name a frame that its home has put out of use. -/
def markStale (s : State) (a n : Nat) : State :=
  { s with upds := s.upds.map fun p => if p.2.unapplied && meets p.2.key p.2.bytes a n then (p.1, { p.2 with stale := true }) else p }

/-- Write a table entry (R370); where it makes a page that could be written discarded, absent, read-only or not mapped, the stores translated before are
refused (R240). -/
def putPte (s : State) (a : Nat) (e : Double) : State :=
  let old := BitVec.ofNat 64 (rdNat s a 8)
  let s1 := writePte s a e
  let s1 := if pteV old && !(pteV e && pteFrame e = pteFrame old) then fireFlags s1 (pteFrame old) (pageBytes (pteSize old)) none else s1
  if pteV old && (pteState old = 0 || pteState old = 5) && !(pteV e && (pteState e = 0 || pteState e = 2 || pteState e = 5)) then
    markStale s1 (pteFrame old) (pageBytes (pteSize old))
  else s1

/-! ### Digest records (R407, Table 23.2) -/

/-- Records added to the group's digest stream under the thread's next numbers (R181, R407). -/
def digest (s : State) (k : Nat) (rs : List DigRec) : State :=
  let n := (s.thr k).digestN
  (s.modThr k fun t => { t with digestN := n + rs.length }).modGrp (gidOf k) fun g =>
    { g with digests := g.digests ++ rs.mapIdx fun i r => { r with tid := tidOf k, n := n + i } }

/-- Bytes of a write at an address, as one record for each 16-byte unit that they meet, in ascending order. -/
def unitRecs (kind space a : Nat) (data : List Byte) (opx : Nat) : List DigRec :=
  let n := data.length
  let u0 := a / 16
  (List.range' u0 ((a + n - 1) / 16 + 1 - u0)).map fun u =>
    let off j : Nat := 16 * u + j
    let sel := (List.range 16).filter fun j => a ≤ off j && off j < a + n
    { tid := 0, n := 0, space := space, addr := 16 * u % 2 ^ 52, kind := kind, opx := opx
      mask := sel.foldl (fun m j => m + 2 ^ j) 0
      data := BitVec.ofNat 128 (sel.foldl (fun m j => m + (data.getD (off j - a) 0).toNat * 2 ^ (8 * j)) 0) }

/-- The bytes that mark an atomic in the digest: its operands, low word first. -/
def atomicRec (space a bytes op m : Nat) (args : List Word) : DigRec :=
  { tid := 0, n := 0, space := space, addr := a / 16 * 16, kind := 2, opx := op * 4 + m
    mask := (List.range bytes).foldl (fun x j => x + 2 ^ (a % 16 + j)) 0
    data := BitVec.ofNat 128 (natOfBytes (bytesOfWords args)) }

/-- The records of an update. -/
def updRecs (u : Upd) : List DigRec :=
  match u.kind with
  | .store data tag => unitRecs 1 u.space u.va data (if tag then 32768 else 0)
  | .atomic op m args => [atomicRec u.space u.va u.bytes op m args]
  | .pte _ | .bar _ _ => []

/-- Start an update of a thread (R230): staged in a deterministic launch (R244), else sent. `ret` is the return that an atomic
makes. -/
def startUpd (s : State) (k : Nat) (u : Upd) : State :=
  let id := s.ids
  let t := s.thr k
  let atom := match u.kind with | .atomic _ _ _ => true | _ => false
  let stage := staged s k u.space atom
  let u := { u with th := some k, core := s.coreOf k, lane := laneOf k, die := s.dieOf k, pc := t.pc, issued := s.now }
  let s1 := digest { s with ids := id + 1 } k (updRecs u)
  if stage then
    let s2 := { s1 with upds := nset s1.upds id { u with phase := .staged, counted := false } }
    let s3 := s2.modGrp (gidOf k) fun g => { g with stage := g.stage ++ [{ row := rowOf k, lane := laneOf k, prog := t.prog, upd := id }] }
    s3.modThr k fun t =>
      let v := { t with prog := t.prog + 1 }
      match u.treg with
      | some i => if u.ret.isSome then v else v.setT i { p := true, tick := s.startOf k }
      | none => v
  else
    let s2 := { s1 with upds := nset s1.upds id { u with counted := true } }
    let s3 := s2.modThr k fun t =>
      let v := t.count .stores
      match u.treg with
      | some i => if u.ret.isSome then v else v.bind i id
      | none => v
    sendUpd s3 id

end Sys2Proof.Machine
end

