-- ==== Sys2Proof/Machine/Loads.lean ====
section
/-! DEFINITION. The loads of class 0x9 (spec/09, R196 to R200). -/

namespace Sys2Proof.Machine

/-- The number of registers that a load of some bytes writes; none when D is x0 (R196). -/
def loadRegs (f : Fields) (bytes : Nat) : Nat := if f.d = 0 then 0 else max 1 (bytes / 4)

/-- LD.n and LDA.n: the checks, then the load starts with its cache hint (R196, R200, Table 3.3). An LD.128 in cluster space through CL, at an aligned address,
brings the tag (R127). -/
def load (f : Fields) (bytes : Nat) (acq : Bool) (k : Nat) (s : State) : Act :=
  let c := capA s k f
  let a := addrOf s k f
  match accessFault s k c permLD a bytes bytes with
  | some x => .fault x
  | none =>
    let id := s.ids
    let tagged := bytes == 16 && c.space == 1 && c.has permCL
    let s1 := startRead s k
      { th := k, kind := .load acq tagged, dst := f.d.toNat, n := loadRegs f bytes, treg := some f.time, counter := .loads
        space := c.space, va := a, bytes := bytes, hint := f.m.toNat }
    .go (if acq then s1.modThr k fun t => { t with acquire := some id } else s1)

/-- LD.8 (R196). -/
def execLd8 (f : Fields) (s : State) : Host.Outcome State Fault Refusal := issue 0x90 f (load f 1 false) s

/-- LD.16 (R196). -/
def execLd16 (f : Fields) (s : State) : Host.Outcome State Fault Refusal := issue 0x91 f (load f 2 false) s

/-- LD.32 (R196). -/
def execLd32 (f : Fields) (s : State) : Host.Outcome State Fault Refusal := issue 0x92 f (load f 4 false) s

/-- LD.64 (R196). -/
def execLd64 (f : Fields) (s : State) : Host.Outcome State Fault Refusal := issue 0x93 f (load f 8 false) s

/-- LD.128 (R196). -/
def execLd128 (f : Fields) (s : State) : Host.Outcome State Fault Refusal := issue 0x94 f (load f 16 false) s

/-- PROBE: checks as LD.8, and books the line's delivery, with its cache hint (R198, Table 3.3). -/
def probe (f : Fields) (k : Nat) (s : State) : Act :=
  let c := capA s k f
  let a := addrOf s k f
  match accessFault s k c permLD a 1 1 with
  | some x => .fault x
  | none =>
    .go (startRead s k
      { th := k, kind := .probe, dst := f.d.toNat, n := if f.d = 0 then 0 else 1, treg := some f.time, counter := .loads
        space := c.space, va := a, bytes := 1, hint := f.m.toNat })

/-- PROBE (R198). -/
def execProbe (f : Fields) (s : State) : Host.Outcome State Fault Refusal := issue 0x95 f (probe f) s

/-- PREF: a hint that the device may drop; it never faults (R199). -/
def execPref (f : Fields) (s : State) : Host.Outcome State Fault Refusal := issue 0x96 f (fun _ s => .go s) s

/-- LDA.32 (R200). -/
def execLda32 (f : Fields) (s : State) : Host.Outcome State Fault Refusal := issue 0x97 f (load f 4 true) s

/-- LDA.64 (R200). -/
def execLda64 (f : Fields) (s : State) : Host.Outcome State Fault Refusal := issue 0x98 f (load f 8 true) s

end Sys2Proof.Machine
end

