-- ==== Sys2Proof/Machine/Integer.lean ====
section
/-! DEFINITION. Classes 0x1, 0x2 and the wide and move words of class 0x3: integer arithmetic, logic, bit fields, compares,
constants, special registers and indices (spec/05, R109 to R118, R128 to R130). -/

namespace Sys2Proof.Machine

/-- x[D] from x[A] and x[B]. -/
def of2 (f : Fields) (g : Word → Word → Word) : Nat → State → Act :=
  regs fun _ _ t => t.wr f.d.toNat (g (t.x f.a.toNat) (t.x f.b.toNat))

/-- x[D] from x[A]. -/
def of1 (f : Fields) (g : Word → Word) : Nat → State → Act := regs fun _ _ t => t.wr f.d.toNat (g (t.x f.a.toNat))

/-- x[D] from x[A], x[B] and x[C]. -/
def of3 (f : Fields) (g : Word → Word → Word → Word) : Nat → State → Act :=
  regs fun _ _ t => t.wr f.d.toNat (g (t.x f.a.toNat) (t.x f.b.toNat) (t.x f.c.toNat))

/-- d[D] from d[A] and d[B]. -/
def ofD2 (f : Fields) (g : Double → Double → Double) : Nat → State → Act :=
  regs fun _ _ t => t.wrd f.d.toNat (g (t.d f.a.toNat) (t.d f.b.toNat))

/-! ### Class 0x1 (Table 5.1) -/

/-- ADD: x[A] + x[B], modulo 2^32 (R111). -/
def execAdd (f : Fields) (s : State) : Host.Outcome State Fault Refusal := issue 0x10 f (of2 f fun a b => a + b) s

/-- ADDI: x[A] + Sx(imm18) (R111). -/
def execAddi (f : Fields) (s : State) : Host.Outcome State Fault Refusal := issue 0x11 f (of1 f fun a => a + sx18 f) s

/-- SUB (R111). -/
def execSub (f : Fields) (s : State) : Host.Outcome State Fault Refusal := issue 0x12 f (of2 f fun a b => a - b) s

/-- MUL: the low 32 bits (R111). -/
def execMul (f : Fields) (s : State) : Host.Outcome State Fault Refusal := issue 0x13 f (of2 f fun a b => a * b) s

/-- MULHI.s32: bits [63:32] of the signed product (R111). -/
def execMulhiS32 (f : Fields) (s : State) : Host.Outcome State Fault Refusal :=
  issue 0x14 f (of2 f fun a b => (a.signExtend 64 * b.signExtend 64).extractLsb' 32 32) s

/-- MULHI.n32: bits [63:32] of the natural product (R111). -/
def execMulhiN32 (f : Fields) (s : State) : Host.Outcome State Fault Refusal :=
  issue 0x15 f (of2 f fun a b => (a.zeroExtend 64 * b.zeroExtend 64).extractLsb' 32 32) s

/-- MAD (R111). -/
def execMad (f : Fields) (s : State) : Host.Outcome State Fault Refusal := issue 0x16 f (of3 f fun a b c => a * b + c) s

/-- MADW.s32: the signed product plus d[C], modulo 2^64 (R111). -/
def execMadwS32 (f : Fields) (s : State) : Host.Outcome State Fault Refusal :=
  issue 0x17 f (regs fun _ _ t =>
    t.wrd f.d.toNat ((t.x f.a.toNat).signExtend 64 * (t.x f.b.toNat).signExtend 64 + t.d f.c.toNat)) s

/-- MADW.n32: the natural product plus d[C], modulo 2^64 (R111). -/
def execMadwN32 (f : Fields) (s : State) : Host.Outcome State Fault Refusal :=
  issue 0x18 f (regs fun _ _ t =>
    t.wrd f.d.toNat ((t.x f.a.toNat).zeroExtend 64 * (t.x f.b.toNat).zeroExtend 64 + t.d f.c.toNat)) s

/-- The signed lesser, the signed greater, the natural lesser, the natural greater. -/
def minS (a b : Word) : Word := if a.toInt ≤ b.toInt then a else b
def maxS (a b : Word) : Word := if a.toInt ≤ b.toInt then b else a
def minN (a b : Word) : Word := if a.toNat ≤ b.toNat then a else b
def maxN (a b : Word) : Word := if a.toNat ≤ b.toNat then b else a

/-- MIN.s32 (R111). -/
def execMinS32 (f : Fields) (s : State) : Host.Outcome State Fault Refusal := issue 0x19 f (of2 f minS) s

/-- MAX.s32 (R111). -/
def execMaxS32 (f : Fields) (s : State) : Host.Outcome State Fault Refusal := issue 0x1A f (of2 f maxS) s

/-- MIN.n32 (R111). -/
def execMinN32 (f : Fields) (s : State) : Host.Outcome State Fault Refusal := issue 0x1B f (of2 f minN) s

/-- MAX.n32 (R111). -/
def execMaxN32 (f : Fields) (s : State) : Host.Outcome State Fault Refusal := issue 0x1C f (of2 f maxN) s

/-- An integer saturated to the range of .s32. -/
def satS32 (v : Int) : Word := BitVec.ofInt 32 (max (-0x80000000) (min v 0x7FFFFFFF))

/-- ADDMIN: the saturated signed sum, then the minimum (R112). -/
def addMin (a b c : Word) : Word := minS (satS32 (a.toInt + b.toInt)) c

/-- ADDMIN.s32 (R112). -/
def execAddminS32 (f : Fields) (s : State) : Host.Outcome State Fault Refusal := issue 0x1D f (of3 f addMin) s

/-- The signed quotient, with its fixed results (R113). -/
def divS (a b : Word) : Word :=
  if b = 0 then if a.toInt ≥ 0 then 0x7FFFFFFF else 0x80000000
  else if a = 0x80000000 ∧ b = 0xFFFFFFFF then 0x80000000
  else BitVec.ofInt 32 (Int.tdiv a.toInt b.toInt)

/-- The natural quotient, with its fixed result (R113). -/
def divN (a b : Word) : Word := if b = 0 then 0xFFFFFFFF else BitVec.ofNat 32 (a.toNat / b.toNat)

/-- A division: the quotient, and DZ for a zero divisor (R113). -/
def divide (f : Fields) (g : Word → Word → Word) : Nat → State → Act :=
  regs fun _ _ t =>
    let b := t.x f.b.toNat
    let u := t.wr f.d.toNat (g (t.x f.a.toNat) b)
    if b = 0 then u.setStatus statusDZ else u

/-- DIV.s32 (R113). -/
def execDivS32 (f : Fields) (s : State) : Host.Outcome State Fault Refusal := issue 0x1E f (divide f divS) s

/-- DIV.n32 (R113). -/
def execDivN32 (f : Fields) (s : State) : Host.Outcome State Fault Refusal := issue 0x1F f (divide f divN) s

/-! ### Class 0x2 (Table 5.3) -/

/-- AND (R114). -/
def execAnd (f : Fields) (s : State) : Host.Outcome State Fault Refusal := issue 0x20 f (of2 f fun a b => a &&& b) s

/-- OR (R114). -/
def execOr (f : Fields) (s : State) : Host.Outcome State Fault Refusal := issue 0x21 f (of2 f fun a b => a ||| b) s

/-- XOR (R114). -/
def execXor (f : Fields) (s : State) : Host.Outcome State Fault Refusal := issue 0x22 f (of2 f fun a b => a ^^^ b) s

/-- ANDN (R114). -/
def execAndn (f : Fields) (s : State) : Host.Outcome State Fault Refusal := issue 0x23 f (of2 f fun a b => a &&& ~~~b) s

/-- LOGI.op (Table 5.2). -/
def execLogi (f : Fields) (s : State) : Host.Outcome State Fault Refusal :=
  issue 0x24 f (of1 f fun a => logiOp f.m.toNat a (sx18 f)) s

/-- x[D] from x[A] and a count (R115). -/
def ofCount (f : Fields) (g : Word → Nat → Word) : Nat → State → Act :=
  regs fun _ _ t => t.wr f.d.toNat (g (t.x f.a.toNat) (countOf t f))

/-- Shifts of 32 bits (R115): counts are never reduced. -/
def shlW (a : Word) (n : Nat) : Word := if n ≥ 32 then 0 else a <<< n
def shrW (a : Word) (n : Nat) : Word := if n ≥ 32 then 0 else a >>> n
def sarW (a : Word) (n : Nat) : Word := if n ≥ 32 then (if a.msb then 0xFFFFFFFF else 0) else a.sshiftRight n

/-- SHL (R115). -/
def execShl (f : Fields) (s : State) : Host.Outcome State Fault Refusal := issue 0x25 f (ofCount f shlW) s

/-- SHR.n32 (R115). -/
def execShrN32 (f : Fields) (s : State) : Host.Outcome State Fault Refusal := issue 0x26 f (ofCount f shrW) s

/-- SHR.s32 (R115). -/
def execShrS32 (f : Fields) (s : State) : Host.Outcome State Fault Refusal := issue 0x27 f (ofCount f sarW) s

/-- ROTL: by the count modulo 32 (R115). -/
def execRotl (f : Fields) (s : State) : Host.Outcome State Fault Refusal :=
  issue 0x28 f (ofCount f fun a n => a.rotateLeft (n % 32)) s

/-- POPC (R114). -/
def execPopc (f : Fields) (s : State) : Host.Outcome State Fault Refusal :=
  issue 0x29 f (of1 f fun a => BitVec.ofNat 32 (popCount a.toNat 32)) s

/-- CLZ (R114). -/
def execClz (f : Fields) (s : State) : Host.Outcome State Fault Refusal :=
  issue 0x2A f (of1 f fun a => BitVec.ofNat 32 (leadingZeros a.toNat 32)) s

/-- The position and the width of a bit field (R116). -/
def fieldPos (b : Word) : Nat := b.toNat % 32
def fieldWidth (b : Word) : Nat := min (b.toNat / 256 % 64) 32

/-- The mask of a bit field: bits beyond 31 drop (R116). -/
def fieldMask (b : Word) : Word := BitVec.ofNat 32 ((2 ^ fieldWidth b - 1) * 2 ^ fieldPos b)

/-- BFX (R116). -/
def extractField (sign : Bool) (a b : Word) : Word :=
  let w := fieldWidth b
  let v := (a &&& fieldMask b) >>> fieldPos b
  if sign && w > 0 && v.getLsbD (w - 1) then v ||| ~~~(BitVec.ofNat 32 (2 ^ w - 1)) else v

/-- BFX.ext (R116). -/
def execBfx (f : Fields) (s : State) : Host.Outcome State Fault Refusal :=
  issue 0x2B f (of2 f (extractField (f.m == 1))) s

/-- BFI (R116). -/
def insertField (a b c : Word) : Word := (c &&& ~~~(fieldMask b)) ||| ((a <<< fieldPos b) &&& fieldMask b)

/-- BFI (R116). -/
def execBfi (f : Fields) (s : State) : Host.Outcome State Fault Refusal := issue 0x2C f (of3 f insertField) s

/-- SEL (R114). -/
def execSel (f : Fields) (s : State) : Host.Outcome State Fault Refusal :=
  issue 0x2D f (of3 f fun a b c => (a &&& c) ||| (b &&& ~~~c)) s

/-- A compare into bit b of x[D], merged as M selects (R117). -/
def compareInto (f : Fields) (g : Word → Word → Bool) : Nat → State → Act :=
  regs fun _ _ t =>
    let d := f.d.toNat
    t.wrBit d f.bit (mergeBit f.m.toNat ((t.x d).getLsbD f.bit) (g (t.x f.a.toNat) (t.x f.b.toNat)))

/-- CMP.s32 (R117). -/
def execCmpS32 (f : Fields) (s : State) : Host.Outcome State Fault Refusal :=
  issue 0x2E f (compareInto f fun a b => intCond f.cond a.toInt b.toInt) s

/-- CMP.n32 (R117). -/
def execCmpN32 (f : Fields) (s : State) : Host.Outcome State Fault Refusal :=
  issue 0x2F f (compareInto f fun a b => intCond f.cond a.toNat b.toNat) s

/-! ### Class 0x3, but for capabilities (Table 5.5) -/

/-- ADD.64 (R118). -/
def execAdd64 (f : Fields) (s : State) : Host.Outcome State Fault Refusal := issue 0x30 f (ofD2 f fun a b => a + b) s

/-- SUB.64 (R118). -/
def execSub64 (f : Fields) (s : State) : Host.Outcome State Fault Refusal := issue 0x31 f (ofD2 f fun a b => a - b) s

/-- SHL.64: 0 from 64 on (R118). -/
def execShl64 (f : Fields) (s : State) : Host.Outcome State Fault Refusal :=
  issue 0x32 f (regs fun _ _ t =>
    t.wrd f.d.toNat (if countOf t f ≥ 64 then 0 else t.d f.a.toNat <<< countOf t f)) s

/-- SHR.64: 0 from 64 on (R118). -/
def execShr64 (f : Fields) (s : State) : Host.Outcome State Fault Refusal :=
  issue 0x33 f (regs fun _ _ t =>
    t.wrd f.d.toNat (if countOf t f ≥ 64 then 0 else t.d f.a.toNat >>> countOf t f)) s

/-- MOVI: Sx(imm27) (R118). -/
def execMovi (f : Fields) (s : State) : Host.Outcome State Fault Refusal :=
  issue 0x34 f (regs fun _ _ t => t.wr f.d.toNat (f.imm27.signExtend 32)) s

/-- MOVH: imm18[15:0] above x[A][15:0] (R118). -/
def execMovh (f : Fields) (s : State) : Host.Outcome State Fault Refusal :=
  issue 0x35 f (of1 f fun a => f.imm18.extractLsb' 0 16 ++ a.extractLsb' 0 16) s

/-- MOV (R118). -/
def execMov (f : Fields) (s : State) : Host.Outcome State Fault Refusal := issue 0x36 f (of1 f id) s

/-- The status and the latch that a word reads: in the second word of a pair, those before the pair (R75). -/
def preOf (s : State) (k : Nat) : Word × Option Nat :=
  if s.beat.adv = 2 then nget s.beat.pre k ((s.thr k).status, (s.thr k).latch) else ((s.thr k).status, (s.thr k).latch)

/-- s.budget: lines left in the interval, and the grant in lines, each saturated at 65,535 (R349); 0xFFFF_FFFF in deterministic
mode (Table 20.7). A cluster with no limit reads the saturated values (log 4). -/
def budgetWord (s : State) (k : Nat) : Word :=
  let c := s.cluster (s.grpOf k).cluster
  match s.det k, c.grant with
  | true, _ | _, none => 0xFFFFFFFF
  | false, some g =>
    let lines := g / 64
    let left := lines - nget c.used (s.nowOf k / 1024) 0
    BitVec.ofNat 32 (min lines 65535 * 65536 + min left 65535)

/-- The value of a special register that is neither s.now.hi nor s.status (Table 5.9). A replay's threads have the slot of their owner identity (R406,
log 103). -/
def special (s : State) (k n : Nat) : Word :=
  let g := s.grpOf k
  let l := s.lchOf k
  match n with
  | 0 => BitVec.ofNat 32 (laneOf k)
  | 1 => BitVec.ofNat 32 (if replaying s k then (s.thr k).owner / 2 % 16 else s.slotOf k)
  | 2 => BitVec.ofNat 32 (rowOf k)
  | 3 => BitVec.ofNat 32 (tidOf k)
  | 4 => BitVec.ofNat 32 (g.index % l.gx)
  | 5 => BitVec.ofNat 32 (g.index / l.gx % l.gy)
  | 6 => BitVec.ofNat 32 (g.index / l.gx / l.gy)
  | 7 => BitVec.ofNat 32 g.cluster
  | 8 => BitVec.ofNat 32 (dieOfCluster g.cluster)
  | 9 => BitVec.ofNat 32 (s.coreOf k)
  | 12 => (s.thr k).mode
  | 14 => BitVec.ofNat 32 (s.featOf (s.coreOf k))
  | 15 => BitVec.ofNat 32 (s.cluster g.cluster).ratio
  | _ => budgetWord s k

/-- Now() as SREAD gives it: the launch's start tick in deterministic mode (R128). -/
def sreadNow (s : State) (k : Nat) : Nat := if s.det k then s.startOf k else s.nowOf k

/-- SREAD (R128, R129). The high half that a read of s.now.lo latches is held until the next such read, or a pre-emption: a read of s.now.hi does not end it (DESIGN
CHOICE, log 113). -/
def sread (f : Fields) (k : Nat) (s : State) : Act :=
  let n := f.imm18.toNat % 256
  let clr := f.imm18.toNat / 256 % 2 == 1
  let d := f.d.toNat
  let (status, latch) := preOf s k
  match n with
  | 10 => .go (s.modThr k fun t => { t.wr d (BitVec.ofNat 32 (sreadNow s k)) with latch := some (sreadNow s k / 2 ^ 32) })
  | 11 => .go (s.modThr k fun t => t.wr d (BitVec.ofNat 32 (latch.getD (sreadNow s k / 2 ^ 32))))
  | 13 =>
    let v := statusOf s k status
    .go (s.modThr k fun t => { t.wr d v with status := if clr then t.status &&& ~~~status else t.status })
  | _ => .go (s.modThr k fun t => t.wr d (special s k n))

/-- SREAD (R128). -/
def execSread (f : Fields) (s : State) : Host.Outcome State Fault Refusal := issue 0x3D f (sread f) s

/-- IDX.what (R130). -/
def execIdx (f : Fields) (s : State) : Host.Outcome State Fault Refusal :=
  issue 0x3F f (regs fun k s t => t.wr f.d.toNat (BitVec.ofNat 32 (idxValue s k f.m.toNat))) s

end Sys2Proof.Machine
end

