-- ==== Sys2Proof/Machine/Packed.lean ====
section
/-! DEFINITION. Class 0x5: packed FP16 and BF16 (spec/06, R146 to R151). -/

namespace Sys2Proof.Machine

/-- Element i of a packed register (R146). -/
def half (v : Word) (i : Nat) : Nat := v.toNat / 2 ^ (16 * i) % 65536

/-- Two elements packed (R146). -/
def packed (e0 e1 : Nat) : Word := BitVec.ofNat 32 (e0 % 65536 + e1 % 65536 * 65536)

/-- Element i of x[r] as a real, after R134. -/
def halfIn (F : Fmt) (t : Thread) (r i : Nat) : Real := F.read (ftzOf t.mode) (half (t.x r) i)

/-- Element i of x[r] as a pattern, after R134. -/
def halfBits (F : Fmt) (t : Thread) (r i : Nat) : Nat := F.operand (ftzOf t.mode) (half (t.x r) i)

/-- x[D] from two exact elements, each rounded once (R146, R147). -/
def halfArith (F : Fmt) (f : Fields) (g : Thread → Rnd → Nat → Real) : Nat → State → Act :=
  regs fun k s t =>
    let e i := let r := rndOf s k f 16 (16 * i); F.round r (ftzOf t.mode) (g t r i)
    t.wr f.d.toNat (packed (e 0) (e 1))

/-- Round(ai + bi). -/
def halfAdd (F : Fmt) (f : Fields) : Nat → State → Act :=
  halfArith F f fun t r i => addR r.isRdn (halfIn F t f.a.toNat i) (halfIn F t f.b.toNat i)

/-- Round(ai · bi). -/
def halfMul (F : Fmt) (f : Fields) : Nat → State → Act :=
  halfArith F f fun t _ i => mulR (halfIn F t f.a.toNat i) (halfIn F t f.b.toNat i)

/-- Round(ai · bi + ci), one rounding. -/
def halfFma (F : Fmt) (f : Fields) : Nat → State → Act :=
  halfArith F f fun t r i =>
    addR r.isRdn (mulR (halfIn F t f.a.toNat i) (halfIn F t f.b.toNat i)) (halfIn F t f.c.toNat i)

/-- MinNum or MaxNum of each element (R140). -/
def halfMinMax (F : Fmt) (f : Fields) (greater : Bool) : Nat → State → Act :=
  regs fun _ _ t =>
    let e i := F.minNum greater (halfBits F t f.a.toNat i) (halfBits F t f.b.toNat i)
    t.wr f.d.toNat (packed (e 0) (e 1))

/-- The dot product of two pairs and an FP32 addend, rounded once to FP32 (R150). -/
def halfDot (F : Fmt) (f : Fields) : Nat → State → Act :=
  fpArith f fun t r =>
    let p i := mulR (halfIn F t f.a.toNat i) (halfIn F t f.b.toNat i)
    addR r.isRdn (addR r.isRdn (p 0) (p 1)) (fpIn t f.c.toNat)

/-- Conversion between FP32 and a packed format (R151). -/
def halfCvt (F : Fmt) (f : Fields) : Nat → State → Act :=
  regs fun k s t =>
    let z := ftzOf t.mode
    match f.c.toNat with
    | 0 => t.wr f.d.toNat (packed (F.round (rndOf s k f 16 0) z (fpIn t f.a.toNat)) (F.round (rndOf s k f 16 16) z (fpIn t f.b.toNat)))
    | 1 => t.wr f.d.toNat (fpOut t .rne (halfIn F t f.a.toNat 0))
    | _ => t.wr f.d.toNat (fpOut t .rne (halfIn F t f.a.toNat 1))

/-- HADD2 (R147). -/
def execHadd2 (f : Fields) (s : State) : Host.Outcome State Fault Refusal := issue 0x50 f (halfAdd fp16 f) s

/-- HMUL2 (R147). -/
def execHmul2 (f : Fields) (s : State) : Host.Outcome State Fault Refusal := issue 0x51 f (halfMul fp16 f) s

/-- HFMA2 (R147). -/
def execHfma2 (f : Fields) (s : State) : Host.Outcome State Fault Refusal := issue 0x52 f (halfFma fp16 f) s

/-- HMIN2 (R147). -/
def execHmin2 (f : Fields) (s : State) : Host.Outcome State Fault Refusal := issue 0x53 f (halfMinMax fp16 f false) s

/-- HMAX2 (R147). -/
def execHmax2 (f : Fields) (s : State) : Host.Outcome State Fault Refusal := issue 0x54 f (halfMinMax fp16 f true) s

/-- HCMP2: element 0's outcome into bit b, element 1's into bit b + 1 (R149). -/
def execHcmp2 (f : Fields) (s : State) : Host.Outcome State Fault Refusal :=
  issue 0x55 f (regs fun _ _ t =>
    let d := f.d.toNat
    let o i := fpMerge f.cond ((t.x d).getLsbD (f.bit + i)) (halfIn fp16 t f.a.toNat i) (halfIn fp16 t f.b.toNat i)
    (t.wrBit d f.bit (o 0)).wrBit d (f.bit + 1) (o 1)) s

/-- BADD2 (R147). -/
def execBadd2 (f : Fields) (s : State) : Host.Outcome State Fault Refusal := issue 0x56 f (halfAdd bf16 f) s

/-- BMUL2 (R147). -/
def execBmul2 (f : Fields) (s : State) : Host.Outcome State Fault Refusal := issue 0x57 f (halfMul bf16 f) s

/-- BFMA2 (R147). -/
def execBfma2 (f : Fields) (s : State) : Host.Outcome State Fault Refusal := issue 0x58 f (halfFma bf16 f) s

/-- BMIN2 (R147). -/
def execBmin2 (f : Fields) (s : State) : Host.Outcome State Fault Refusal := issue 0x59 f (halfMinMax bf16 f false) s

/-- BMAX2 (R147). -/
def execBmax2 (f : Fields) (s : State) : Host.Outcome State Fault Refusal := issue 0x5A f (halfMinMax bf16 f true) s

/-- HMAXI: FP16 values in [15:0], 16-bit indices in [31:16] (R148). -/
def execHmaxi (f : Fields) (s : State) : Host.Outcome State Fault Refusal :=
  issue 0x5B f (regs fun _ _ t =>
    let p r := (halfBits fp16 t r 0, half (t.x r) 1)
    let c := fp16.pick true (p f.a.toNat) (p f.b.toNat)
    t.wr f.d.toNat (packed c.1 c.2)) s

/-- HDOT2 (R150). -/
def execHdot2 (f : Fields) (s : State) : Host.Outcome State Fault Refusal := issue 0x5C f (halfDot fp16 f) s

/-- BDOT2 (R150). -/
def execBdot2 (f : Fields) (s : State) : Host.Outcome State Fault Refusal := issue 0x5D f (halfDot bf16 f) s

/-- HCVT.op (R151). -/
def execHcvt (f : Fields) (s : State) : Host.Outcome State Fault Refusal := issue 0x5E f (halfCvt fp16 f) s

/-- BCVT.op (R151). -/
def execBcvt (f : Fields) (s : State) : Host.Outcome State Fault Refusal := issue 0x5F f (halfCvt bf16 f) s

end Sys2Proof.Machine
end

