-- ==== Sys2Proof/Machine/Narrow.lean ====
section
/-! DEFINITION. Class 0x6: narrow formats, conversion and the stochastic generator (spec/07, R153 to R169). -/

namespace Sys2Proof.Machine

/-- One half of x[D] written, the other kept (R157). -/
def mergeHalf (t : Thread) (d : Nat) (high : Bool) (v : Nat) : Thread :=
  let x := t.x d
  t.wrPart d (if high then BitVec.ofNat 16 v ++ x.extractLsb' 0 16 else x.extractLsb' 16 16 ++ BitVec.ofNat 16 v)

/-- Two FP32 values converted into one half of x[D] (R157): the share of an element is its half of the draw (R156). -/
def cvtHalf (f : Fields) (conv : Rnd → Bool → Real → Nat) : Nat → State → Act :=
  regs fun k s t =>
    let z := ftzOf t.mode
    let c0 := conv (rndOf s k f 16 0) z (fpIn t f.a.toNat)
    let c1 := conv (rndOf s k f 16 16) z (fpIn t f.b.toNat)
    mergeHalf t f.d.toNat (f.c.getLsbD 0) (c1 * 256 + c0)

/-- CVT.E4 (R157). -/
def execCvtE4 (f : Fields) (s : State) : Host.Outcome State Fault Refusal :=
  issue 0x60 f (cvtHalf f fun r z v => e4m3.narrow fp32 r (f.c.getLsbD 1) z v) s

/-- CVT.E5 (R157). -/
def execCvtE5 (f : Fields) (s : State) : Host.Outcome State Fault Refusal :=
  issue 0x61 f (cvtHalf f fun r z v => e5m2.narrow fp32 r (f.c.getLsbD 1) z v) s

/-- The byte of a word that a code selects. -/
def byteAt (v : Word) (i : Nat) : Nat := v.toNat / 2 ^ (8 * i) % 256

/-- An 8-bit format widened exactly (R158). -/
def unpack8 (F : Fmt) (f : Fields) : Nat → State → Act :=
  regs fun _ _ t => t.wr f.d.toNat (fpOut t .rne (F.read (ftzOf t.mode) (byteAt (t.x f.a.toNat) (f.c.toNat % 4))))

/-- UNPK.E4 (R158). -/
def execUnpkE4 (f : Fields) (s : State) : Host.Outcome State Fault Refusal := issue 0x62 f (unpack8 e4m3 f) s

/-- UNPK.E5 (R158). -/
def execUnpkE5 (f : Fields) (s : State) : Host.Outcome State Fault Refusal := issue 0x63 f (unpack8 e5m2 f) s

/-- A codebook of 16 BF16 entries in an octet of registers (R159). -/
def bookOf (t : Thread) (b : Nat) : List Nat := (List.range 16).map fun j => half (t.x (b + j / 2)) (j % 2)

/-- How far an entry lies from a value: none for an infinite distance. -/
def distance (a e : Real) : Option (Nat × Int) :=
  match addR false a (negR e) with
  | .fin _ m x => some (m, x)
  | _ => none

/-- Whether one distance is less than another. -/
def nearer (a b : Option (Nat × Int)) : Bool :=
  match a, b with
  | some (m, e), some (n, g) => cmpR (.fin false m e) (.fin false n g) == .lt
  | some _, none => true
  | none, _ => false

/-- The lowest code among candidates that none of the others beats. -/
def bestCode (beats : Real → Real → Bool) (l : List (Nat × Real)) : Nat :=
  match l with
  | [] => 0
  | h :: t => (t.foldl (fun m p => if beats p.2 m.2 then p else m) h).1

/-- The code that QNT.C4 gives (R159). -/
def quantize (book : List Real) (a : Real) : Nat :=
  let codes := (List.range 16).map fun j => (j, book.getD j .nan)
  let nums := codes.filter fun p => p.2 != .nan
  match a with
  | .nan => ((codes.find? fun p => p.2 == .nan).map (·.1)).getD 0
  | .inf n =>
    match nums.find? fun p => p.2 == .inf n with
    | some p => p.1
    | none => bestCode (fun x y => cmpR x y == if n then .lt else .gt) nums
  | .fin _ _ _ => bestCode (fun x y => nearer (distance a x) (distance a y)) nums

/-- QNT.C4: one nibble of x[D] (R159). -/
def execQntC4 (f : Fields) (s : State) : Host.Outcome State Fault Refusal :=
  issue 0x64 f (regs fun _ _ t =>
    let d := f.d.toNat
    let book := (bookOf t f.b.toNat).map (bf16.read (ftzOf t.mode))
    let sh := 4 * (f.c.toNat % 8)
    let code : Word := BitVec.ofNat 32 (quantize book (fpIn t f.a.toNat))
    t.wrPart d ((t.x d &&& ~~~((0xF : Word) <<< sh)) ||| (code <<< sh))) s

/-- DQ.C4: the entry that a nibble of x[A] indexes, widened exactly (R160). -/
def execDqC4 (f : Fields) (s : State) : Host.Outcome State Fault Refusal :=
  issue 0x65 f (regs fun _ _ t =>
    let j := (t.x f.a.toNat).toNat / 2 ^ (4 * (f.c.toNat % 8)) % 16
    t.wr f.d.toNat (fpOut t .rne (bf16.read (ftzOf t.mode) ((bookOf t f.b.toNat).getD j 0)))) s

/-- CVT.I8: always saturates (R155, R157). -/
def execCvtI8 (f : Fields) (s : State) : Host.Outcome State Fault Refusal :=
  issue 0x66 f (cvtHalf f fun r _ v => narrowI8 r v) s

/-- UNPK.I8 (R158). -/
def execUnpkI8 (f : Fields) (s : State) : Host.Outcome State Fault Refusal :=
  issue 0x67 f (regs fun _ _ t =>
    t.wr f.d.toNat (fpOut t .rne (realOfInt (BitVec.ofNat 8 (byteAt (t.x f.a.toNat) (f.c.toNat % 4))).toInt))) s

/-- Each 16-bit element converted to the other 16-bit format (R161). -/
def cvt16 (src dst : Fmt) (f : Fields) : Nat → State → Act :=
  regs fun k s t =>
    let e i := dst.narrow src (rndOf s k f 16 (16 * i)) false (ftzOf t.mode) (halfIn src t f.a.toNat i)
    t.wr f.d.toNat (packed (e 0) (e 1))

/-- CVT.BF (R161). -/
def execCvtBf (f : Fields) (s : State) : Host.Outcome State Fault Refusal := issue 0x68 f (cvt16 fp16 bf16 f) s

/-- CVT.HF (R161). -/
def execCvtHf (f : Fields) (s : State) : Host.Outcome State Fault Refusal := issue 0x69 f (cvt16 bf16 fp16 f) s

/-- SRSEED: each row's generator from its lowest guard-passing thread (R168). -/
def seedRow (f : Fields) (ks : List Nat) (s : State) : State :=
  let k := leaderOf ks
  let v := (s.thr k).d f.a.toNat
  s.modGrp (gidOf k) fun g => { g with gens := nset g.gens (rowOf k) (if v = 0 then genInit else v) }

/-- SRSEED (R168). -/
def execSrseed (f : Fields) (s : State) : Host.Outcome State Fault Refusal := issueSeed 0x6A f (seedRow f) s

/-- SRDRAW: the lane's word; the row steps but for .peek (R169). -/
def execSrdraw (f : Fields) (s : State) : Host.Outcome State Fault Refusal :=
  issue 0x6B f (regs fun k s t => t.wr f.d.toNat (BitVec.ofNat 32 (s.drawOf k))) s

/-- An element that PACK makes (R162). -/
def packElem (code : Nat) (v : Word) : Nat :=
  match code with
  | 0 => v.toNat % 65536
  | 1 => (BitVec.ofInt 16 (max (-32768) (min v.toInt 32767))).toNat
  | _ => min v.toNat 65535

/-- PACK.op (R162). -/
def execPack (f : Fields) (s : State) : Host.Outcome State Fault Refusal :=
  issue 0x6C f (regs fun _ _ t =>
    t.wr f.d.toNat (packed (packElem f.c.toNat (t.x f.a.toNat)) (packElem f.c.toNat (t.x f.b.toNat)))) s

/-- The element that UNPK extracts (R163). -/
def unpackElem (code : Nat) (v : Word) : Word :=
  let n := if code / 8 % 2 = 1 then 8 else 16
  let e := v.toNat / 2 ^ (n * (code % 4)) % 2 ^ n
  if code / 4 % 2 = 1 && e.testBit (n - 1) then BitVec.ofInt 32 ((e : Int) - 2 ^ n) else BitVec.ofNat 32 e

/-- UNPK.op (R163). -/
def execUnpk (f : Fields) (s : State) : Host.Outcome State Fault Refusal :=
  issue 0x6D f (of1 f (unpackElem f.c.toNat)) s

/-- SCALE.E8: times an E8M0 scale, or its inverse (R164). -/
def execScaleE8 (f : Fields) (s : State) : Host.Outcome State Fault Refusal :=
  issue 0x6E f (fpArith f fun t _ =>
    let e := byteAt (t.x f.b.toNat) (f.c.toNat % 4)
    let n : Int := (e : Int) - 127
    if e = 255 then .nan else scaleR (fpIn t f.a.toNat) (if f.c.getLsbD 2 then -n else n)) s

/-- The E8M0 byte of a block's largest magnitude (R165). -/
def blockExp (code : Nat) (a : Real) : Nat :=
  let emax : Int := match code with | 0 => 8 | 1 => 15 | _ => 6
  match a with
  | .fin _ 0 _ => 0
  | .fin _ m e => (max 0 (min (leadExp m e - emax + 127) 254)).toNat
  | _ => 255

/-- BLKEXP.fmt (R165). -/
def execBlkexp (f : Fields) (s : State) : Host.Outcome State Fault Refusal :=
  issue 0x6F f (regs fun _ _ t => t.wr f.d.toNat (BitVec.ofNat 32 (blockExp f.c.toNat (fpIn t f.a.toNat)))) s

end Sys2Proof.Machine
end

