-- ==== Sys2Proof/Machine/Curve.lean ====
section
/-! DEFINITION. Class 0x7 but for CRVLD: the curve unit, division, square root, reduction, bit and hash utilities (spec/07, R170 to
R181). -/

namespace Sys2Proof.Machine

/-- A value of a segment of a group: 0 the breakpoint, 1 to 4 the coefficients (R170). -/
def segOf (g : Group) (j field : Nat) : Word := nget g.segs (5 * j + field) 0

/-- A value of a segment as an FP32 operand. -/
def segReal (g : Group) (z : Bool) (j field : Nat) : Real := fp32.read z (segOf g j field).toNat

/-- The segment that CRV uses: the highest of the table whose breakpoint is at most x, or the first (R172). -/
def segFor (g : Group) (z : Bool) (c : CrvTable) (x : Real) : Nat :=
  ((List.range' c.f c.n).foldl (fun m j => if fpCond 3 (segReal g z j 0) x then some j else m) none).getD c.f

/-- CRV of a real through a ready table (R172). -/
def curve (g : Group) (z : Bool) (r : Rnd) (c : CrvTable) (x : Real) : Nat :=
  if x = .nan then fp32.nan
  else
    let j := segFor g z c x
    let rd v := fp32.read z v
    let u := rd (fp32.round .rne z (addR false x (negR (segReal g z j 0))))
    let fma y i := fp32.round r z (addR r.isRdn (mulR y u) (segReal g z j i))
    let y := rd (fma (segReal g z j 4) 3)
    let y := rd (fma y 2)
    fma y 1

/-- CRV: an empty table is illegal, sub-code 12 (R172). -/
def execCrv (f : Fields) (s : State) : Host.Outcome State Fault Refusal :=
  issue 0x70 f (fun k s =>
    let t := s.thr k
    let g := s.grpOf k
    match nfind g.tables (f.c.toNat % 8) with
    | none => .fault { cause := causeIllegal, sub := 12 }
    | some c =>
      let v := curve g (ftzOf t.mode) (rndOf s k f 32 0) c (fpIn t f.a.toNat)
      .go (s.modThr k fun t => t.wr f.d.toNat (BitVec.ofNat 32 v))) s

/-- What CRVRD reads (R173). -/
def curveRead (m : Nat) (g : Group) (a : Word) : Word :=
  if m = 0 then
    let field := a.toNat / 256 % 8
    if field ≤ 4 then segOf g (a.toNat % 64) field else 0
  else
    match nfind g.tables (a.toNat % 8) with
    | none => 0
    | some c => BitVec.ofNat 32 ((if c.loading then 2 ^ 30 else 2 ^ 31) + c.f * 256 + c.n * 65536)

/-- CRVRD.what (R173). -/
def execCrvrd (f : Fields) (s : State) : Host.Outcome State Fault Refusal :=
  issue 0x72 f (regs fun k s t => t.wr f.d.toNat (curveRead f.m.toNat (s.grpOf k) (t.x f.a.toNat))) s

/-- CRVCLR: tables made empty, segments unchanged (R173). -/
def execCrvclr (f : Fields) (s : State) : Host.Outcome State Fault Refusal :=
  issue 0x73 f (fun k s =>
    let a := (s.thr k).x f.a.toNat
    .go (s.modGrp (gidOf k) fun g => { g with tables := g.tables.filter fun p => !(p.1 < 8 && a.getLsbD p.1) })) s

/-- FDIV (R174). -/
def execFdiv (f : Fields) (s : State) : Host.Outcome State Fault Refusal :=
  issue 0x74 f (fpArith f fun t _ => divR (fpIn t f.a.toNat) (fpIn t f.b.toNat)) s

/-- FSQRT (R174). -/
def execFsqrt (f : Fields) (s : State) : Host.Outcome State Fault Refusal :=
  issue 0x75 f (fpArith f fun t _ => sqrtR (fpIn t f.a.toNat)) s

/-- FRRED: the reduced argument and the multiple (R175). -/
def execFrred (f : Fields) (s : State) : Host.Outcome State Fault Refusal :=
  issue 0x76 f (regs fun k s t =>
    match fpIn t f.a.toNat with
    | .fin n m e =>
      let (q, v) := reduceR (if f.c = 0 then halfPi else lnTwo) n m e
      t.wrd f.d.toNat (BitVec.ofInt 32 q ++ fpOut t (rndOf s k f 32 0) v)
    | _ => t.wrd f.d.toNat 0x7FC00000) s

/-- FXTR's pair: mantissa and exponent (R176). -/
def extract (x : Word) (v : Real) : Double :=
  match v with
  | .nan => (0x7FFFFFFF : Word) ++ (0x7FC00000 : Word)
  | .inf _ => (0x7FFFFFFF : Word) ++ x
  | .fin _ 0 _ => (0x80000000 : Word) ++ x
  | .fin n m e => BitVec.ofInt 32 (leadExp m e) ++ (BitVec.ofNat 32 (fp32.round .rne false (.fin n m (-(Nat.log2 m : Int)))))

/-- FXTR (R176). -/
def execFxtr (f : Fields) (s : State) : Host.Outcome State Fault Refusal :=
  issue 0x77 f (regs fun _ _ t =>
    t.wrd f.d.toNat (extract (BitVec.ofNat 32 (fpBits t f.a.toNat)) (fpIn t f.a.toNat))) s

/-- Eight steps of the reflected CRC-32C register (R177). -/
def crcByte (c : Word) (b : Nat) : Word :=
  (List.range 8).foldl (fun x _ => if x.getLsbD 0 then (x >>> 1) ^^^ 0x82F63B78 else x >>> 1) (c ^^^ BitVec.ofNat 32 b)

/-- CRC32C over the n low bytes of b, byte 0 first (R177). -/
def crc32c (n : Nat) (c b : Word) : Word := (List.range n).foldl (fun x j => crcByte x (byteAt b j)) c

/-- CRC32C.n (R177). -/
def execCrc32c (f : Fields) (s : State) : Host.Outcome State Fault Refusal :=
  issue 0x78 f (of2 f (crc32c (2 ^ (f.c.toNat % 4)))) s

/-- The mixing hash (R178). -/
def mix32 (a b : Word) : Word :=
  let v := a + b * 0x9E3779B9
  let v := (v ^^^ (v >>> 16)) * 0x85EBCA6B
  let v := (v ^^^ (v >>> 13)) * 0xC2B2AE35
  v ^^^ (v >>> 16)

/-- MIX32 (R178). -/
def execMix32 (f : Fields) (s : State) : Host.Outcome State Fault Refusal := issue 0x79 f (of2 f mix32) s

/-- A byte that BYTEPERM makes from a selector nibble (R179). -/
def permByte (a b : Word) (sel : Nat) : Nat :=
  let v := (b ++ a).toNat / 2 ^ (8 * (sel % 8)) % 256
  if sel / 8 % 2 = 1 then if v.testBit 7 then 255 else 0 else v

/-- BYTEPERM (R179). -/
def execByteperm (f : Fields) (s : State) : Host.Outcome State Fault Refusal :=
  issue 0x7A f (of3 f fun a b c =>
    BitVec.ofNat 32 ((List.range 4).foldl (fun n j => n + permByte a b (c.toNat / 2 ^ (4 * j) % 16) * 2 ^ (8 * j)) 0)) s

/-- BREV (R179). -/
def execBrev (f : Fields) (s : State) : Host.Outcome State Fault Refusal := issue 0x7B f (of1 f BitVec.reverse) s

/-- The index of a set bit counted from the low or the high end (R180). -/
def findSet (high : Bool) (a b : Word) : Word :=
  let up := (List.range 32).filter a.getLsbD
  match (if high then up.reverse else up)[b.toNat]? with
  | some j => BitVec.ofNat 32 j
  | none => 0xFFFFFFFF

/-- FNS.dir (R180). -/
def execFns (f : Fields) (s : State) : Host.Outcome State Fault Refusal := issue 0x7C f (of2 f (findSet (f.m == 1))) s

/-- POPC.64 (R180). -/
def execPopc64 (f : Fields) (s : State) : Host.Outcome State Fault Refusal :=
  issue 0x7D f (regs fun _ _ t => t.wr f.d.toNat (BitVec.ofNat 32 (popCount (t.d f.a.toNat).toNat 64))) s

/-- CLZ.64 (R180). -/
def execClz64 (f : Fields) (s : State) : Host.Outcome State Fault Refusal :=
  issue 0x7E f (regs fun _ _ t => t.wr f.d.toNat (BitVec.ofNat 32 (leadingZeros (t.d f.a.toNat).toNat 64))) s

/-- DIGEST: a record of kind 4 in the thread's stream, which keeps the count of the thread's earlier DIGEST words (R181); its N is its number among
all the thread's records (R407, log 31). -/
def execDigest (f : Fields) (s : State) : Host.Outcome State Fault Refusal :=
  issue 0x7F f (fun k s =>
    .go ((digest s k [{ tid := 0, n := 0, space := 0, addr := 0, kind := 4, mask := 0, opx := 0, word := (s.thr k).digestWords
                        data := ((s.thr k).x f.a.toNat).zeroExtend 128 }]).modThr k fun t => { t with digestWords := t.digestWords + 1 })) s

end Sys2Proof.Machine
end

