-- ==== Sys2Proof/Machine/Stair.lean ====
section
/-! DEFINITION. The retiring of updates (R230), the stair of deterministic launches (R243 to R246), and the opening of an audit
(R403, R416). -/

namespace Sys2Proof.Machine

/-! ### Audits -/

/-- A group that R403 lets the gaffer audit, but for kills and cancels. -/
def auditable (g : Group) : Bool := !g.logFull && !g.sysSeen && g.moves ≤ 3

/-- Step a gaffer counter (Table 23.4), saturating. -/
def satUp (w : Word) : Word := if w = 0xFFFFFFFF then w else w + 1

/-- The audit of a held group whose replay rests until the next segment is closed: number, audit, the replay's group and cluster. -/
def restingAudit (s : State) (g : Nat) : Option (Nat × Audit × Nat × Nat) :=
  s.audits.findSome? fun p =>
    match p.2.phase with
    | .resting h c => if p.2.segment = some g then some (p.1, p.2, h, c) else none
    | _ => none

/-- The audit of a group, or of its closed segment (R405, R416): the replay waits for a cluster, or, where it is resident already, goes on with what its log
has grown by. -/
def openAudit (s : State) (g : Nat) (segment : Bool) : State :=
  let gr := s.grp g
  let l := s.lch gr.launch
  let seg := if segment then some g else none
  match restingAudit s g with
  | some (id, a, h, c) =>
    let more (t : Nat) : List LogEntry := (nget gr.log t []).drop (nget a.log t []).length
    { s with
      audits := nset s.audits id
        { a with
          segment := seg, cores := gr.cores, digests := gr.digests, exits := gr.exits, past := gr.past, log := gr.log, unitLog := gr.unitLog
          resident := some (h, c), phase := .waiting s.now } }.modGrp h fun x =>
      { x with log := gr.log.map fun p : Nat × List LogEntry => (p.1, nget x.log p.1 [] ++ more p.1) }
  | none =>
    { s with
      ids := s.ids + 1
      audits := nset s.audits s.ids
        { launch := gr.launch, index := gr.index, segment := seg, kernel := l.kernel
          ratio := l.ratio, cluster := gr.cluster, cores := gr.cores, digests := gr.digests, exits := gr.exits
          past := gr.past, log := gr.log, unitLog := gr.unitLog, start := gr.start, record := l, phase := .waiting s.now } }

/-! ### The stair -/

/-- The order of staged entries: row, lane, program position (R245). -/
def Staged.rank (e : Staged) : Nat := (e.row * 32 + e.lane) * 2 ^ 64 + e.prog

/-- Put a staged entry into its place, after its equals. -/
def stagedPut (e : Staged) : List Staged → List Staged
  | [] => [e]
  | f :: r => if e.rank < f.rank then e :: f :: r else f :: stagedPut e r

/-- Send the released entries in their order as the porch has room; the rest wait in their stage buffer (R236, R245). -/
def sendReleased (s : State) : List Nat → State
  | [] => s
  | id :: rest =>
    match nfind s.upds id with
    | some u =>
      if u.phase != .staged then sendReleased s rest
      else if porchFull s u.die u.key then s
      else sendReleased (sendUpd s id) rest
    | none => sendReleased s rest

/-- Release a group's staged entries, sorted, as ga stores and atomics: each has its place in the order in which homes apply them (R245). -/
def releaseStage (s : State) (g : Nat) : State :=
  let ids := ((s.grp g).stage.foldl (fun l e => stagedPut e l) []).map (·.upd)
  let s1 := (ids.zipIdx s.ids).foldl (fun x e => x.modUpd e.1 fun u => { u with v := true, rank := e.2 }) { s with ids := s.ids + ids.length }
  let s2 := s1.modGrp g fun gr =>
    { gr with
      stage := [], releasing := gr.releasing ++ ids, draining := gr.drain, drain := []
      digests := if gr.cleared = some true then [] else gr.digests
      past := if gr.cleared = some true then gr.past ++ gr.digests.map DigRec.rank else gr.past
      cleared := if gr.ended then gr.cleared else none }
  sendReleased s2 (s2.grp g).releasing

/-- A thread waits for the return of a staged atomic (R243): its next word needs a register or a time register that the return will write, or every
return, or a trap or a fault of what it meets waits for them (R375). A thread that has paused or is held at its header does not stand at a word. -/
def stalledOnStaged (s : State) (k : Nat) : Bool :=
  let t := s.thr k
  let regs := (t.pend.filter fun p => retStaged s p.2).map (·.1)
  let times := (t.bound.filter fun p => retStaged s p.2).map (·.1)
  let word (op : Nat) (f : Fields) : Bool :=
    regs.any (waitsOn op f) ||
      (times.any fun i => ((waitTimes op f).contains i && !t.knownT i) ||
        (((0x99 ≤ op && op ≤ 0x9F) || op == 6 || op == 7) && guardPasses t f && !ownReady s k op f)) ||
      (!regs.isEmpty && (op == 0xF0 || op == 0xF5 || (trapDue s k op f).isSome))
  (!regs.isEmpty || !times.isEmpty) && t.wait == .none && !isHeld s k && !(t.atHeader && (s.grpOf k).preempt) &&
    ((!regs.isEmpty && ((asyncDue t).isSome || t.faultWaits || meetsFault s k)) || (nextWords s k).any fun w => word w.1 w.2)

/-- Every live thread of the group has arrived at ADRAIN, or is stalled on the return of a staged atomic (R243). -/
def drained (s : State) (g : Nat) : Bool :=
  !(s.grp g).drain.isEmpty &&
    (threadsOf s g).all fun k =>
      (s.thr k).life == .exited || (s.grp g).drain.contains k || stalledOnStaged s k

/-- A return of an atomic that the stair has released is on its way (R243). -/
def returnsLeft (s : State) (g : Nat) : Bool := s.rets.any fun p => gidOf p.2.th == g && p.2.kind == .atomic && !retStaged s p.1

/-- A release has retired and its atomics' returns have landed: the threads that waited for it in ADRAIN go on (R243). -/
def finishDrain (s : State) (g : Nat) : State :=
  let gr := s.grp g
  if gr.draining.isEmpty || !gr.releasing.isEmpty || returnsLeft s g then s
  else
    gr.draining.foldl (fun x k => if (nfind x.threads k).isSome then advanceBy x k 1 else x) (s.modGrp g fun gr => { gr with draining := [] })

/-- The entries that a group has staged and not released are discarded (R417, R383 step 3). The threads that stood at ADRAIN for them go on; one that is still to
receive the return of a discarded atomic could come to no header, and ends (log 46). -/
def discardStage (s : State) (g : Nat) : State :=
  let gr := s.grp g
  let gone := gr.stage.map (·.upd)
  let s1 := { s with upds := s.upds.filter fun p => !gone.contains p.1, rets := s.rets.filter fun p => !gone.contains p.1 }.modGrp g fun x =>
    { x with stage := [], drain := [], cleared := none }
  let lost (k : Nat) : Bool := ((s.thr k).pend ++ (s.thr k).bound).any fun p => gone.contains p.2
  let s2 := ((threadsOf s g).filter lost).foldl endThread s1
  gr.drain.foldl (fun x k => if (x.thr k).life == .exited || (nfind x.threads k).isNone then x else advanceBy x k 1) s2

/-- The audit of a selected group of a deterministic launch with the hold is to pass before its segment is released (R246, R416); one that is not auditable
is released without waiting. -/
def heldGroup (s : State) (g : Nat) : Bool :=
  let gr := s.grp g
  let l := s.lch gr.launch
  gr.selected && l.kernel.det && l.audit.getLsbD 5 && auditable gr && !gr.cancelled

/-- A release of the stair is due: at an ADRAIN that the group has reached, or at its end, which closes the last segment of a held group even where nothing is
staged (R416); the group holds the ticket, which comes to another die a tick later (R245, R270). -/
def drainDue (s : State) (g : Nat) : Bool :=
  let gr := s.grp g
  let x := s.lch gr.launch
  x.ticket == gr.index && (x.ticketFrom.all fun p => p.1 + (if p.2 = dieOfCluster gr.cluster then 0 else 1) ≤ s.now) && gr.releasing.isEmpty && gr.draining.isEmpty && 
    (drained s g || (gr.ended && (!gr.stage.isEmpty || (heldGroup s g && gr.cleared.isNone))))

/-- A released entry that found the porch full may be sent now (R236). -/
def sendDue (s : State) (g : Nat) : Bool :=
  match (s.grp g).releasing.findSome? fun id => (nfind s.upds id).bind fun u => if u.phase = .staged then some u else none with
  | some u => !porchFull s u.die u.key
  | none => false

/-- The stair has something to do for a group. -/
def stairDue (s : State) (g : Nat) : Bool := drainDue s g || sendDue s g

/-- Make the release that is due, or go on with it: a held segment is audited first, an empty release ends at once (R245, R416). -/
def stair (s : State) (g : Nat) : State :=
  let gr := s.grp g
  let go (x : State) : State := finishDrain (releaseStage x g) g
  if gr.failed then discardStage s g
  else if sendDue s g then sendReleased s gr.releasing
  else if heldGroup s g then
    match gr.cleared with
    | none => (openAudit s g true).modGrp g fun x => { x with cleared := some false, segments := x.segments + 1 }
    | some false => s
    | some true => go s
  else go s

/-! ### Retiring -/

/-- Another update in flight of the word that made one: of CTXSV, whose image is many stores (R365). -/
def sameWord (s : State) (u : Upd) : Option Nat :=
  (s.upds.find? fun p => p.2.th == u.th && p.2.pc == u.pc && p.2.issued == u.issued && p.2.xfer.isNone && !p.2.counted &&
    (match p.2.phase with | .far _ => false | _ => true)).map (·.1)

/-- An update has retired: its counter steps down and its entry is free (R230); the last of a release lets ADRAIN go on (R245). -/
def retire (s : State) (id : Nat) : State :=
  match nfind s.upds id with
  | none => s
  | some u =>
    let s1 := { s with upds := ndel s.upds id }
    match u.th with
    | none => s1
    | some k =>
      let heir := if u.counted then sameWord s1 u else none
      let s1 := match heir with | some j => s1.modUpd j fun x => { x with counted := true } | none => s1
      let s2 := s1.modThr k fun t =>
        let v := if u.counted && heir.isNone then t.uncount .stores else t
        let v := match u.phase with
          | .far _ => { v with farDone := s.now }
          | _ => { v with storeDone := max v.storeDone (max (u.c.getD 0) (u.knownAt.getD 0)) }
        match u.treg with
        | some i => v.unbind i id
        | none => v
      let g := gidOf k
      if (s2.grp g).releasing.contains id then
        finishDrain (s2.modGrp g fun gr => { gr with releasing := gr.releasing.filter (· ≠ id) }) g
      else s2

end Sys2Proof.Machine
end

