-- ==== Sys2Proof/Machine/Stores.lean ====
section
/-! DEFINITION. Class 0xA: stores, atomics and ADRAIN (spec/11, R226 to R245). -/

namespace Sys2Proof.Machine

/-- The data of a store: the low bytes of x[D], of d[D] or of q[D]; zeros for x0 (R227, R230). -/
def storeData (t : Thread) (f : Fields) (bytes : Nat) : List Byte :=
  if f.d = 0 then bytesOfNat 0 bytes else bytesOfNat (t.q f.d.toNat).toNat bytes

/-- The checks of an update at its word, in the order of R228, and then `go` with its key. -/
def update (f : Fields) (perm : BitVec 6) (bytes : Nat) (k : Nat) (s : State) (go : State → Nat → State) : Act :=
  let c := capA s k f
  let a := addrOf s k f
  match accessFault s k c perm a bytes bytes with
  | some x => .fault x
  | none =>
    match resolve s k c.space a with
    | .fault x => .fault x
    | .hold s' => .stay s'
    | .key s' key =>
      if porchFull s' (s'.dieOf k) key && !staged s' k c.space (perm &&& permAT != 0) then .stay s' else .go (go s' key)

/-- A store (R230); `rel` for a release, which carries a not-before tick (R234). -/
def store (f : Fields) (bytes : Nat) (rel : Bool) (k : Nat) (s : State) : Act :=
  update f permST bytes k s fun s' key =>
    let c := capA s' k f
    let t := s'.thr k
    let tag := bytes == 16 && c.space == 1 && c.has permCS && t.tags.contains (f.d.toNat / 4)
    startUpd s' k
      { kind := .store (storeData t f bytes) tag, space := c.space, va := addrOf s' k f, key := key, bytes := bytes, v := f.v
        scope := f.scope, treg := some f.time, phase := .staged
        notBefore := if rel && f.scope ≠ 0 then notBeforeOf s' k key else 0 }

/-- ST.8 (R230). -/
def execSt8 (f : Fields) (s : State) : Host.Outcome State Fault Refusal := issue 0xA0 f (store f 1 false) s

/-- ST.16 (R230). -/
def execSt16 (f : Fields) (s : State) : Host.Outcome State Fault Refusal := issue 0xA1 f (store f 2 false) s

/-- ST.32 (R230). -/
def execSt32 (f : Fields) (s : State) : Host.Outcome State Fault Refusal := issue 0xA2 f (store f 4 false) s

/-- ST.64 (R230). -/
def execSt64 (f : Fields) (s : State) : Host.Outcome State Fault Refusal := issue 0xA3 f (store f 8 false) s

/-- ST.128 (R230, R127). -/
def execSt128 (f : Fields) (s : State) : Host.Outcome State Fault Refusal := issue 0xA4 f (store f 16 false) s

/-- STL.32: a release (R234; `ownReady` holds its wait). -/
def execStl32 (f : Fields) (s : State) : Host.Outcome State Fault Refusal := issue 0xA5 f (store f 4 true) s

/-- STL.64: a release (R234). -/
def execStl64 (f : Fields) (s : State) : Host.Outcome State Fault Refusal := issue 0xA6 f (store f 8 true) s

/-- STZ: 64 zero bytes (R230). -/
def execStz (f : Fields) (s : State) : Host.Outcome State Fault Refusal := issue 0xA7 f (store f 64 false) s

/-! ### Atomics (R241) -/

/-- The operands of an atomic: `n` registers after the offset's (R227). -/
def atomicArgs (t : Thread) (f : Fields) (n : Nat) : List Word := (List.range n).map fun j => t.x (f.b.toNat + 1 + j)

/-- An atomic of `bytes` bytes with `n` operand words: with a return it marks its destination pending (R241). -/
def atomic (op : Nat) (f : Fields) (bytes n : Nat) (k : Nat) (s : State) : Act :=
  update f permAT bytes k s fun s' key =>
    let c := capA s' k f
    let t := s'.thr k
    let u : Upd :=
      { kind := .atomic op f.m.toNat (atomicArgs t f n), space := c.space, va := addrOf s' k f, key := key, bytes := bytes
        scope := f.scope, v := true, treg := some f.time, phase := .staged }
    if f.d = 0 then startUpd s' k u
    else
      let id := s'.ids
      let s1 := startRet s' k
        { th := k, kind := .atomic, dst := f.d.toNat, n := bytes / 4, treg := some f.time, space := c.space, va := u.va
          bytes := bytes, key := some key, core := s'.coreOf k, issued := s'.now, pc := t.pc }
      startUpd s1 k { u with ret := some id, treg := none }

/-- AADD.op (Table 11.5). -/
def execAadd (f : Fields) (s : State) : Host.Outcome State Fault Refusal :=
  issue 0xA8 f (if f.m = 3 then atomic 0x8 f 8 2 else atomic 0x8 f 4 1) s

/-- AMM.op (Table 11.5). -/
def execAmm (f : Fields) (s : State) : Host.Outcome State Fault Refusal := issue 0xA9 f (atomic 0x9 f 4 1) s

/-- ALOG.op (Table 11.5). -/
def execAlog (f : Fields) (s : State) : Host.Outcome State Fault Refusal := issue 0xAA f (atomic 0xA f 4 1) s

/-- ACAS.32 (Table 11.5). -/
def execAcas32 (f : Fields) (s : State) : Host.Outcome State Fault Refusal := issue 0xAB f (atomic 0xB f 4 2) s

/-- ACAS.64 (Table 11.5). -/
def execAcas64 (f : Fields) (s : State) : Host.Outcome State Fault Refusal := issue 0xAC f (atomic 0xC f 8 4) s

/-- AFMM.op (Table 11.5): the index modes act on a value and an index. -/
def execAfmm (f : Fields) (s : State) : Host.Outcome State Fault Refusal :=
  issue 0xAD f (if f.m.toNat ≥ 2 then atomic 0xD f 8 2 else atomic 0xD f 4 1) s

/-- AINC.op (Table 11.5). -/
def execAinc (f : Fields) (s : State) : Host.Outcome State Fault Refusal := issue 0xAE f (atomic 0xE f 4 1) s

/-- The new value of a 32-bit atomic from the old and its operands (Table 11.5). The home has no mode register: AADD.f32 rounds RNE
and keeps subnormals. -/
def atomic32 (op m : Nat) (o v w : Word) : Word :=
  match op, m with
  | 0x8, 0 => o + v
  | 0x8, 1 => satS32 (o.toInt + v.toInt)
  | 0x8, _ => BitVec.ofNat 32 (fp32.round .rne false (addR false (fp32.read false o.toNat) (fp32.read false v.toNat)))
  | 0x9, 0 => minS o v
  | 0x9, 1 => maxS o v
  | 0x9, 2 => minN o v
  | 0x9, _ => maxN o v
  | 0xA, 0 => o &&& v
  | 0xA, 1 => o ||| v
  | 0xA, 2 => o ^^^ v
  | 0xA, _ => v
  | 0xB, _ => if o = v then w else o
  | 0xD, m => BitVec.ofNat 32 (fp32.minNum (m == 1) o.toNat v.toNat)
  | _, 0 => if v.toNat ≤ o.toNat then 0 else o + 1
  | _, _ => if o = 0 ∨ v.toNat < o.toNat then v else o - 1

/-- The new value of a 64-bit atomic (Table 11.5). -/
def atomic64 (op m : Nat) (o : Double) (args : List Word) : Double :=
  let w i := args.getD i 0
  match op with
  | 0x8 => o + (w 1 ++ w 0)
  | 0xC => if o = w 1 ++ w 0 then w 3 ++ w 2 else o
  | _ =>
    let p := fp32.pick (m == 2) (o.toNat % 2 ^ 32, o.toNat / 2 ^ 32) ((w 0).toNat, (w 1).toNat)
    BitVec.ofNat 32 p.2 ++ BitVec.ofNat 32 p.1

/-- The new bytes that an atomic writes. -/
def atomicBytes (op m bytes : Nat) (args : List Word) (old : Nat) : List Byte :=
  if bytes = 8 then bytesOfNat (atomic64 op m (BitVec.ofNat 64 old) args).toNat 8
  else bytesOfNat (atomic32 op m (BitVec.ofNat 32 old) (args.getD 0 0) (args.getD 1 0)).toNat 4

/-! ### ADRAIN (R243) -/

/-- ADRAIN: outside deterministic mode its wait has ended (`ownReady`); in it the thread arrives and waits for the stair. -/
def adrain (k : Nat) (s : State) : Act :=
  if s.det k then
    let s1 := s.modGrp (gidOf k) fun g => { g with drain := sput g.drain k }
    .set (if drainDue s1 (gidOf k) then stair s1 (gidOf k) else s1)
  else .go s

/-- ADRAIN (R243). -/
def execAdrain (f : Fields) (s : State) : Host.Outcome State Fault Refusal := issue 0xAF f (fun k s => adrain k s) s

end Sys2Proof.Machine
end

