-- ==== Sys2Proof/Machine/MemoryEvents.lean ====
section
/-! DEFINITION. The steps of the memory paths: bookings, promises, deliveries and broken promises (spec/09), the lehr, the porch,
refusals (spec/11). Each is an event that acts when its condition holds and else changes nothing. -/

namespace Sys2Proof.Machine

/-- A step that acts when its condition holds. -/
def when (s : State) (p : Bool) (s' : State) : Host.Outcome State Fault Refusal := .next (if p then s' else s)

/-! ### Bookings and promises -/

/-- BOOKING_RETRY: a probe that found a full calendar, or that waited for the porch, a tile or an earlier read, tries again and books
the whole path (R205, R237, R292). -/
def bookingRetry (id : Nat) (s : State) : State :=
  match nfind s.rets id with
  | none => s
  | some r =>
    match r.phase, r.key with
    | .retry tick left, some key =>
      if s.now < tick then s
      else if left ≥ 4096 then s.modRet id fun r => { r with phase := .retry (s.now + 1) (left - 1) }
      else bookRet { s with delays := left :: s.delays } id key
    | .blocked, some key => if servedNow s id r key then bookRet s id key else s
    | _, _ => s

/-- BOOKING_RETRY (R205). -/
def execBookingRetry (id : Nat) (s : State) : Host.Outcome State Fault Refusal := .next (bookingRetry id s)

/-- A return has landed: registers written unless it is discarded, its marks cleared, its counter stepped down, its time register
reported and unbound, its acquire released (R193, R196, R200). `ws` none leaves the registers unwritten and poisoned (R214). -/
def landRet (s : State) (id : Nat) (r : Ret) (ws : Option (List Word)) (tag : Bool) (rep : TReg → TReg) : State :=
  let time := if r.kind = .word && r.n = 0 then r.treg.map fun i => rep ((s.thr r.th).t i) else none
  { logLanded s r.th id (if r.discard then [] else (ws.getD []).take r.n) tag r.absent time with rets := ndel s.rets id }.modThr r.th fun t =>
    let t1 := (t.uncount r.counter).unmark id
    let t2 :=
      if r.discard || r.n = 0 then t1
      else
        match ws with
        | none => t1.markPoison r.dst r.n
        | some l =>
          let u := t1.wrWords r.dst (l.take r.n)
          if tag && r.n = 4 && r.dst ≠ 0 then { u with tags := sput u.tags (r.dst / 4) } else u
    let t3 := match r.treg with | some i => (t2.reportT i id rep).unbind i id | none => t2
    let t4 :=
      if r.counter = Counter.loads || r.kind = RetKind.atomic then { t3 with loadDone := s.now }
      else if r.counter = Counter.none then t3 else { t3 with storeDone := s.now }
    if t4.acquire = some id then { t4 with acquire := none } else t4

/-- Write to the time register that an access is bound to (R193). -/
def report (s : State) (k : Nat) (treg : Option Nat) (id : Nat) (rep : TReg → TReg) : State :=
  match treg with
  | some i => s.modThr k fun t => t.reportT i id rep
  | none => s

/-- The lease length of a thread's launch. -/
def leaseLen (s : State) (k : Nat) : Nat := (s.lchOf k).lease

/-- A read that a source serves is on its way to its delivery. -/
def Ret.onWay (r : Ret) : Bool := match r.phase with | .probe _ _ _ | .booked _ _ | .read _ => true | _ => false

/-- PROBE pins a line at a place: a core's L1, or 1,023 for its home's cache. -/
def probePin (s : State) (line place : Nat) : Bool := (nfind s.pins (line * 1024 + place)).any fun e => e.1 ≤ s.now && s.now ≤ e.2

/-- A line that a core's L1 may not give up: PROBE has pinned it, or a read that it serves is not yet delivered (R198, R210). -/
def l1Pinned (s : State) (core line : Nat) : Bool :=
  probePin s line core ||
    s.rets.any fun p => p.2.core == core && p.2.source == 0 && p.2.kind ≠ .atomic && p.2.key.any (fun a => lineOf a == line) && p.2.onWay

/-- A line that its home's cache may not give up (R198, R210). -/
def cachePinned (s : State) (line : Nat) : Bool :=
  probePin s line 1023 ||
    s.rets.any fun p => 2 ≤ p.2.source && p.2.source ≤ 4 && p.2.key.any (fun a => lineOf a == line) && p.2.onWay

/-- The line that a full L1 gives up, if it may give one up: of lowest retention, else the one whose lease ends first (log 93). -/
def l1Victim (s : State) (core : Nat) : Option Nat :=
  let c := s.core core
  match c.l1low.find? fun l => !l1Pinned s core l with
  | some l => some l
  | none =>
    ((c.l1.filter fun p => !l1Pinned s core p.1).foldl (fun (b : Option (Nat × Nat)) p =>
      match b with | none => some p | some q => if p.2 < q.2 then some p else some q) none).map (·.1)

/-- A core's L1 drops a line. -/
def l1Drop (s : State) (core line : Nat) : State :=
  s.modCore core fun c => { c with l1 := ndel c.l1 line, l1low := sdel c.l1low line }

/-- A lease on a line to a core until a tick: the home records the latest expiry (R203). L1 holds 3,072 lines (Table 1.2); a full one in which
no line may go takes none. -/
def grantLease (s : State) (core line till : Nat) (low : Bool) : State :=
  let put (x : State) : State :=
    { x.modCore core fun c => { c with l1 := nset c.l1 line till, l1low := if low then sput c.l1low line else sdel c.l1low line } with
      leases := nset x.leases line (max (nget x.leases line 0) till) }
  if (nfind (s.core core).l1 line).isSome || (s.core core).l1.length < Config.l1Lines then put s
  else
    match l1Victim s core with
    | some v => put (l1Drop s core v)
    | none => s

/-- The lines of a die's memory-side cache that die allocations lock (R31). -/
def lockedLines (s : State) : Nat :=
  s.launches.foldl (fun n p => if p.2.dieHeld then n + ceilDiv p.2.kernel.dieBytes 64 else n) 0

/-- The lines of a home that its memory-side cache holds, beside the locked ones. -/
def cachedOf (s : State) (h : Home) : List Nat := s.cached.filter fun l => homeOf (64 * l) == h

/-- The lines that a home's cache gives up so that `n` more, and the locked ones, find room: of those that are not pinned (R31, R210, log 93). -/
def displaced (s : State) (h : Home) (n : Nat) : List Nat :=
  ((cachedOf s h).filter fun l => !cachePinned s l).take ((cachedOf s h).length + lockedLines s + n - Config.cacheLines)

/-- A home's cache has room for one more line once it has given up some. -/
def roomFor (s : State) (h : Home) (out : Nat) : Bool := (cachedOf s h).length - out + lockedLines s < Config.cacheLines

/-- A home's memory-side cache takes a line in; a full one gives up another that is not pinned (R210, Table 1.1, log 93). -/
def cacheLine (s : State) (key : Nat) : State :=
  let line := lineOf key
  if lockedLine key || s.cached.contains line then s
  else
    let out := displaced s (homeOf key) 1
    if roomFor s (homeOf key) out.length then { s with cached := sput (s.cached.filter fun l => !out.contains l) line } else s

/-- The place at which PROBE pins its line, the nearest that the line may occupy: the core's L1 for a line of its own die, but for the hint bypass
(Table 3.3, log 105), else its home's cache, as 1,023 (R198). -/
def pinPlace (r : Ret) (key : Nat) : Option Nat :=
  match homeOf key with
  | .die d => some (if d = dieOfCore r.core && r.hint ≠ 2 then r.core else 1023)
  | _ => none

/-- PROBE's line is pinned from its promised tick for one lease length (R198). -/
def pinLine (s : State) (r : Ret) (key land : Nat) : State :=
  match pinPlace r key with
  | some p => { s with pins := nset s.pins (lineOf key * 1024 + p) (land, land + leaseLen s r.th) }
  | none => s

/-- The transfer that a return brings a piece of. -/
def Ret.partOf (r : Ret) : Option Nat := match r.kind with | .part x _ => some x | _ => none

/-- What a broken promise does to a thread (R213). -/
def breakThread (s : State) (k : Nat) : State :=
  s.modThr k fun t => { t.setStatus statusLATE with late := min (t.late + 1) 65535, pendLate := t.pendLate || t.mode.getLsbD 3 }

/-- A return's promise is known: the tick of R101's test, which a break revises for the words that come to stand after it (R101, R102). -/
def Ret.told (r : Ret) (now : Nat) (broken : Bool) (f : Nat) : Ret :=
  if broken then { r with redue := (now, f) :: r.redue } else { r with due := some f }

/-- The promise of a piece is known, or has moved: once that of every piece of a CRVLD is, its threads receive the promise of the last, with its
flags (R171); one that has been broken is late in each of them. The other transfers make no promise. -/
def tellXfer (s : State) (r : Ret) (f : Nat) (broken : Bool) : State :=
  match r.partOf with
  | none => s
  | some x =>
    let s1 := s.modXfer x fun y => { y with promise := max y.promise f }
    match nfind s1.xfers x with
    | some y =>
      let open_ := s1.rets.filter fun p => p.2.partOf = some x
      let est := open_.any (·.2.est)
      if (match y.kind with | .curve _ _ _ => false | _ => true) || open_.any (·.2.due.isNone) then s1
      else
        y.rets.foldl (fun z i =>
          match nfind z.rets i with
          | some v =>
            let z1 := if broken && v.th ≠ r.th then breakThread z v.th else z
            (report z1 v.th v.treg i fun t =>
              { t with p := !est, e := est, l := t.l || broken, a := t.a || y.absent, tick := y.promise }).modRet i fun q => q.told s.now broken y.promise
          | none => z) s1
    | none => s1

/-- What is left of a PROBE once its status has landed: the fill at its promised tick (R198). -/
def probeFill (r : Ret) (land : Nat) : Ret :=
  { r with n := 0, treg := none, counter := .none, bytes := 0, phase := .booked land land }

/-- A PROBE's promise is known: its line is pinned, its status lands, and what is left of it is the fill (R198). -/
def probeKnown (s : State) (id : Nat) (r : Ret) (land : Nat) (rep : TReg → TReg) : State :=
  let key := r.key.getD 0
  let s1 := landRet (pinLine s r key land) id r (some [BitVec.ofNat 32 r.source]) false rep
  if (pinPlace r key).isSome then { s1 with rets := nset s1.rets id (probeFill r land) } else s1

/-- PROMISE_KNOWN: the booked promise, or an estimate, is written to the time register (R205, R206); a PROBE's status lands with its promise, where it has
none with its value (R198). A return that reads no memory waits on for what brings it. -/
def promiseKnown (id : Nat) (s : State) : State :=
  match nfind s.rets id with
  | none => s
  | some r =>
    match r.phase with
    | .probe known read land =>
      if s.now < known then s
      else
        let die := dieOfCore r.core
        let f := if r.est then s.onDie die (s.now + Config.freeEstimate s.free) else max (s.nowOn die) (s.onDie die land)
        let rep : TReg → TReg := fun t => if r.est then { t with e := true, tick := f } else { t with p := true, tick := f }
        let s1 := (if r.est then s.drawn else s).modRet id fun x => { x with due := some f }
        if r.kind = .probe && !r.est then probeKnown s1 id r land rep
        else
          tellXfer ((report s1 r.th r.treg id rep).modRet id fun x => { x with phase := if r.key.isNone then .await else .booked read land }) r f false
    | _ => s

/-- PROMISE_KNOWN (R205). -/
def execPromiseKnown (id : Nat) (s : State) : Host.Outcome State Fault Refusal := .next (promiseKnown id s)

/-- Whether the firm promise of a path that was in bounded mode when its probe began is due (R206, R426). The spec does not say when the remote booking returns: the model takes 400
ticks after the issue (log 7). -/
def firmDue (s : State) (r : Ret) : Bool :=
  r.est && r.bounded && r.issued + 400 ≤ s.now &&
    (match r.phase with | .booked _ _ => true | _ => false)

/-- FIRM_PROMISE: the firm promise replaces the estimate (R206); with it the status of a PROBE is known (R198). -/
def firmPromise (id : Nat) (s : State) : State :=
  match nfind s.rets id with
  | none => s
  | some r =>
    match r.phase with
    | .booked _ land =>
      if firmDue s r then
        let f := s.onDie (dieOfCore r.core) land
        let rep : TReg → TReg := fun t => { t with p := true, e := false, tick := f }
        if r.kind = .probe then probeKnown s id r land rep
        else tellXfer ((report s r.th r.treg id rep).modRet id fun x => { x with est := false, due := some f }) r f false
      else s
    | _ => s

/-- FIRM_PROMISE (R206). -/
def execFirmPromise (id : Nat) (s : State) : Host.Outcome State Fault Refusal := .next (firmPromise id s)

/-- The record of poisoned data read at a home (R214, R171). -/
def poisonRec (s : State) (k key : Nat) : McRec :=
  let die := match homeOf key with | .die d => d | .sram c => dieOfCluster c | _ => s.dieOf k
  { sev := 1, cause := 2, unit := if homeIsDie (homeOf key) then 1 else 0, die := die, who := (s.thr k).owner
    addr := if key < 2 ^ 52 then key else 0 }

/-- The tag of a granule as the thread reads it: as cluster SRAM keeps it, with its own pending stores over it in the order of their issue: a
tagged ST.128 of the granule sets it, any other store that meets the granule clears it (R120, R127). -/
def overlayTag (s : State) (k before key : Nat) : Bool :=
  (s.upds.filter fun p => ownStore k before p.1 p.2 && meets p.2.key p.2.bytes (key / 16 * 16) 16).foldl (fun _ p =>
    match p.2.kind with | .store _ tag => tag | _ => false) (s.memTags.contains (key / 16))

/-- What a read takes into the caches: an own-die line into L1 under a lease that its home grants at the read point, unless the lehr holds the
line (R203) or the hint says otherwise (Table 3.3); a line of a stack into its home's cache. -/
def fillCaches (s : State) (r : Ret) (key till : Nat) : State :=
  let line := lineOf key
  let own := homeOf key == .die (dieOfCore r.core)
  let s1 := if homeIsDie (homeOf key) && 2 ≤ r.source && r.source ≤ 4 then cacheLine s key else s
  if r.hint = 3 then (if own && !l1Pinned s1 r.core line then l1Drop s1 r.core line else s1)
  else if own && (r.source = 2 || r.source = 3) && lehrHolds s line ≤ s.now && r.hint ≠ 2 then grantLease s1 r.core line till (r.hint = 1)
  else s1

/-- The read of a FLAGWAIT has found its flag's key, and has seen every update so far; one that finds the page resident after it was not ends the
re-reading every 256 ticks (R261). -/
def flagSeen (s : State) (k id key : Nat) : State :=
  s.modThr k fun t =>
    match t.wait with
    | .flag old sp va poll _ rd f =>
      if rd = some id then { t with wait := .flag (some key) sp va (if old.isNone then 0 else poll) false rd f } else t
    | _ => t

/-- The read point of a booked load (R201): its bytes as they stand, the porch entries that serve it and its own stores over them (R237, R202). The
home grants the lease of a fill of L1 at the fill's read point, and the line serves hits from then on: the spec does not say at which tick (R203,
log 94). A PROBE's line is filled at its promised tick, under a lease to the end of its pin (R198). -/
def readPoint (id : Nat) (s : State) : State :=
  match nfind s.rets id with
  | none => s
  | some r =>
    match r.phase, r.key with
    | .booked read land, some key =>
      if s.now < read then s
      else if r.kind = .probe && !r.est && r.counter = .none then
        let s1 := { s with rets := ndel s.rets id }
        let s2 := cacheLine s1 key
        if pinPlace r key = some r.core && lehrHolds s (lineOf key) ≤ s.now then
          grantLease s2 r.core (lineOf key) (s.now + leaseLen s r.th) (r.hint = 1)
        else s2
      else
        let bad := r.source ≠ 7 && poisonedAt s key r.bytes || (r.source = 7 && !coveredOwn s r.th id key r.bytes && poisonedAt s key r.bytes)
        let refused := homeOf key == .host && s.hostErrors.contains (lineOf key)
        let s3 := (fillCaches s r key (s.now + leaseLen s r.th)).modRet id fun x =>
          { x with
            data := if r.kind = .probe then bytesOfNat r.source 4
              else overlayOwn s r.th id key (forwarded s r.fwd key (rdBytes s key r.bytes))
            tag := r.kind == .load false true && overlayTag s r.th id key
            poisoned := x.poisoned || bad || refused, phase := .read land, issued := if r.kind = .flag then s.now else x.issued }
        let s4 := if r.kind = .flag then flagSeen s3 r.th id key else s3
        if bad then machineCheck s4 (poisonRec s r.th key) else s4
    | _, _ => s

/-- The words of a load's bytes, zero-extended (R196). -/
def wordsOf (bs : List Byte) : List Word :=
  match bs.length with
  | 8 => [BitVec.ofNat 32 (natOfBytes bs), BitVec.ofNat 32 (natOfBytes (bs.drop 4))]
  | 16 =>
    [BitVec.ofNat 32 (natOfBytes bs), BitVec.ofNat 32 (natOfBytes (bs.drop 4)), BitVec.ofNat 32 (natOfBytes (bs.drop 8)),
     BitVec.ofNat 32 (natOfBytes (bs.drop 12))]
  | _ => [BitVec.ofNat 32 (natOfBytes bs)]

/-- What a landing writes to the time register: the arrival after an estimate or a break, else the promise stands (R206, R213). -/
def landRep (s : State) (r : Ret) : TReg → TReg := fun t =>
  if r.est || r.late then { t with p := true, e := false, tick := s.nowOn (dieOfCore r.core) } else t

/-- Count a promise kept through the elements of a path; each 65,536 take 1 from the element's score (R412). -/
def keepPromise (s : State) (e : Nat) : State :=
  let n := nget s.pathKept e 0 + 1
  if n = 65536 then { s with pathKept := nset s.pathKept e 0, pathScore := nset s.pathScore e (nget s.pathScore e 0 - 1) }
  else { s with pathKept := nset s.pathKept e n }

/-- A piece of a transfer that makes no promise (R285, R311, R312, R316). -/
def silentPiece (s : State) (r : Ret) : Bool :=
  (r.partOf.bind (nfind s.xfers)).any fun x => match x.kind with | .curve _ _ _ => false | _ => true

/-- A return that kept its promise counts for the elements of its path, an atomic's for those of its home's stack (R412). -/
def keptBy (s : State) (r : Ret) (key : Nat) : State :=
  if r.late || r.est || silentPiece s r || (r.source = 7 && r.kind ≠ .atomic) then s
  else (pathElements s (dieOfCore r.core) key (r.stack || r.kind = .atomic)).foldl keepPromise s

/-- A store, or an atomic without a return, that kept its promise (R412). -/
def keptUpd (s : State) (u : Upd) : State :=
  if u.told && !u.late && u.th.isSome && u.xfer.isNone && u.ret.isNone then (pathElements s u.die u.key true).foldl keepPromise s else s

/-- The condition of FLAGWAIT (R261). -/
def flagCond (m : Nat) (w c : Word) : Bool :=
  match m with
  | 0 => w != c
  | 1 => w == c
  | 2 => c.toInt ≤ w.toInt
  | _ => w.toInt < c.toInt

/-- The monitors that a home keeps (R261): the flags that threads wait on there, but for those that are polled. -/
def monitors (s : State) (h : Home) : Nat :=
  (s.threads.filter fun p => match p.2.wait with | .flag (some a) _ _ 0 _ _ _ => homeOf a == h | _ => false).length

/-- The next poll of a flag whose key is known: none where a monitor of its home serves it (R261). -/
def flagPollTick (s : State) (key : Nat) : Nat :=
  match homeOf key with
  | .die _ | .sram _ => if monitors s (homeOf key) ≤ 4096 then 0 else s.now + 256
  | _ => s.now + 256

/-- The read of a flag arrives (R261): it ends the wait with the tick of its read point, it takes the machine check, or the thread waits on; a page that is not there
never satisfies the condition. The read of a thread that no longer waits for it is dropped (R302). -/
def flagLand (s : State) (id : Nat) (r : Ret) : State :=
  let s0 := { s with rets := ndel s.rets id }
  let t := s.thr r.th
  match t.wait with
  | .flag key sp va poll fired rd f =>
    if rd ≠ some id then s0
    else
      let w := BitVec.ofNat 32 (natOfBytes r.data)
      let on (key : Option Nat) (poll : Nat) : State := s0.modThr r.th fun t => { t with wait := .flag key sp va poll fired none f }
      if r.absent then on none (s.now + 256)
      else if r.poisoned then
        if t.pend.isEmpty || t.sys then takeFlt s0 r.th { cause := causePoison, addr := va }
        else s.modRet id fun x => { x with phase := .read (s.now + 1) }
      else if flagCond f.m.toNat w (t.x f.d.toNat) then
        advanceBy ((logWords s0 r.th [w]).modThr r.th fun t =>
          { (t.setT f.time { p := true, tick := s.onDie (dieOfCore r.core) r.issued }).wr f.d.toNat w with wait := .none }) r.th 1
      else on key (match key with | some a => if poll = 0 then flagPollTick s a else s.now + 256 | none => s.now + 256)
  | _ => s0

/-- A streamed load meets an absent page, or poisoned data: its pass stops before the step that needs it, at once; the other pieces of the load are read all the same
(R317, R334). -/
def stopStream (s : State) (x : Nat) (o : Nat × Nat) : State :=
  match nfind s.xfers x with
  | some y =>
    (match y.kind with
     | .stream pid step => s.modGrp y.group fun g => { g with passes := g.passes.map fun p => if p.pid = pid then p.halt step o s.now else p }
     | _ => s)
  | none => s

/-- A piece of a transfer has arrived. -/
def landPart (s : State) (id : Nat) (r : Ret) (x piece : Nat) : State :=
  { (if r.poisoned then stopStream s x (3, 3) else s) with rets := ndel s.rets id }.modXfer x fun y =>
    { y with
      pieces := nset y.pieces piece { data := r.data, absent := r.absent, poisoned := r.poisoned }, last := max y.last s.now
      absent := y.absent || r.absent, poisoned := y.poisoned || r.poisoned }

/-- The value that a return brings, once it has been read. -/
def loadDelivery (id : Nat) (s : State) : State :=
  match nfind s.rets id with
  | none => s
  | some r =>
    match r.phase, r.kind with
    | .read land, .load _ _ =>
      if s.now < land then s
      else landRet (keptBy s r (r.key.getD 0)) id r (if r.poisoned then none else some (wordsOf r.data)) r.tag (landRep s r)
    | .read land, .part x i => if s.now < land then s else landPart (keptBy s r (r.key.getD 0)) id r x i
    | .read land, .flag => if s.now < land then s else flagLand s id r
    | .read _, .atomic => s
    | .read _, .xfer => s
    | .read land, _ => if s.now < land then s else 
      landRet s id r (if r.poisoned && r.kind = .word then none else some (wordsOf r.data)) false (landRep s r)
    | _, _ => s

/-- LOAD_DELIVERY: a load's value lands (R196); so does the result of another word that waited for its tick (R193). -/
def execLoadDelivery (id : Nat) (s : State) : Host.Outcome State Fault Refusal := .next (loadDelivery id s)

/-- ATOMIC_RETURN: an atomic's old value lands (R241); the last of a release lets ADRAIN go on (R243). -/
def atomicReturn (id : Nat) (s : State) : State :=
  match nfind s.rets id with
  | none => s
  | some r =>
    match r.phase, r.kind with
    | .read land, .atomic =>
      if s.now < land then s
      else finishDrain (landRet (keptBy s r (r.key.getD 0)) id r (if r.poisoned then none else some (wordsOf r.data)) false (landRep s r)) (gidOf r.th)
    | _, _ => s

/-- ATOMIC_RETURN (R241). -/
def execAtomicReturn (id : Nat) (s : State) : Host.Outcome State Fault Refusal := .next (atomicReturn id s)

/-! ### Broken promises (R212 to R214) -/

/-- The path element that a break charges (R412). -/
def breakElement (b : Break) : Nat :=
  match b.cause with
  | 1 => 1024 + b.die % 16
  | 2 | 3 => 64 * (b.die % 16) + b.element % 64
  | _ => 1040 + b.element % 18

/-- The unit that a broken-promise record names (R382). -/
def breakUnit (b : Break) : Nat :=
  match b.cause with
  | 1 => 4
  | 2 | 3 => 1
  | _ => 13

/-- The die of a path element; a link has none, and its event names die 0 (log 47). -/
def elementDie (e : Nat) : Nat := if e < 1024 then e / 64 else if e < 1040 then e - 1024 else 0

/-- Step a path element's score; at 128 the host is told: the event names the element and the score (R412, R413, log 47). -/
def chargePath (s : State) (e : Nat) : State :=
  let n := nget s.pathScore e 0
  let s1 := { s with pathScore := nset s.pathScore e (min (n + 1) 65535) }
  if n = 127 then postEvent s1 7 (elementDie e) e 128 else s1

/-- What a break does beside the booking: the late counter, LATE, the record, the path's score, the late trap (R213). -/
def breakEffects (s : State) (k key : Nat) (b : Break) : State :=
  chargePath
    (machineCheck (breakThread s k)
      { cause := 3, sev := 1, unit := breakUnit b, die := b.die % 16, who := (s.thr k).owner, addr := if key < 2 ^ 52 then key else 0 })
    (breakElement b)

/-- A retry of an HBM access that fails: the value is poisoned, and the home writes the record of that too (R214, Table 21.6). -/
def failRetry (s : State) (k key : Nat) (b : Break) : State :=
  if b.fails && b.cause == 2 then machineCheck s (poisonRec s k key) else s

/-- Whether an event of R212 can touch an access from a die to a key whose promise names a source (PROBE's codes): a replay on the base-die network one
that leaves the die for another; a read retry, and a stop of a pseudo-channel, one that a stack serves; a link replay one on a domain path that is
in bounded mode. -/
def breakFits (b : Break) (die key source : Nat) (reads stack bounded : Bool) : Bool :=
  match b.cause, homeOf key with
  | 1, .die d => d != die && source = 4
  | 2, .die _ => reads && stack
  | 3, .die _ => stack
  | 4, .domain _ => bounded
  | _, _ => false

/-- The source code of a return's path; of an atomic's return, that of its home. -/
def retSource (r : Ret) (key : Nat) : Nat :=
  if r.kind = .atomic then (if offDie (dieOfCore r.core) key then 4 else 3) else r.source

/-- Whether an event of R212 can touch the path of a return; an atomic reads its old value at its home's stack. -/
def breaksRet (b : Break) (r : Ret) (key : Nat) : Bool :=
  breakFits b (dieOfCore r.core) key (retSource r key) true (r.stack || r.kind = .atomic) r.bounded

/-- A broken promise of a return is told to its thread: L and the revised tick, and what follows a break (R213). -/
def breakRet (s : State) (id : Nat) (r : Ret) (land : Nat) (b : Break) : State :=
  let f := s.onDie (dieOfCore r.core) land
  breakEffects ((report s r.th r.treg id fun t => { t with l := true, tick := f }).modRet id fun x =>
    { x.told s.now true f with late := true }) r.th (r.key.getD 0) b

/-- An update that the lehr holds is applied later, and its promise with it; of an atomic with a return the old value's delivery (R232, R213). -/
def delayUpd (s : State) (id : Nat) (u : Upd) (c : Nat) (b : Break) : State :=
  let s1 := s.modUpd id fun x => { x with phase := .lehr c, c := some c, late := x.late || x.told }
  match u.ret.bind fun i => (nfind s.rets i).map fun r => (i, r) with
  | some (i, r) =>
    let (s2, _, land) := rebook s1 r u.key (c + returnLeg u.die u.key) c
    breakRet (s2.modRet i fun x => { x with phase := .booked c land }) i r land b
  | none =>
    if u.told then
      breakEffects (report s1 (u.th.getD 0) u.treg id fun t => { t with l := true, tick := s.onDie (keeper u) c }) (u.th.getD 0) u.key b
    else s1

/-- The updates of a line that the lehr applies after a tick, but for one, in the order of their ticks. -/
def lineLater (s : State) (line id old : Nat) : List Nat :=
  (s.upds.foldl (fun (m : NMap Nat) p =>
    match p.2.phase with
    | .lehr c => if lineOf p.2.key = line && p.1 ≠ id && old ≤ c then nset m (c * 2 ^ 64 + p.1) p.1 else m
    | _ => m) []).map (·.2)

/-- An update that the lehr holds is applied no earlier than a tick. Those that follow it on its line keep their order behind it, one a tick (R232, R235); a
later release of its thread keeps its not-before tick above it (R234, R267). Each moves, and breaks its promise, as far as it must. -/
def moveUpd (b : Break) : Nat → State → Nat → Nat → State
  | 0, s, _, _ => s
  | fuel + 1, s, id, c =>
    match nfind s.upds id with
    | none => s
    | some u =>
      match u.phase with
      | .lehr old =>
        if c ≤ old then s
        else
          let s1 := delayUpd s id u c b
          let s2 := ((lineLater s (lineOf u.key) id old).foldl (fun (x : State × Nat) i =>
            match nfind x.1.upds i with
            | some v =>
              (match v.phase with
               | .lehr e => if x.2 < e then (x.1, e) else (moveUpd b fuel x.1 i (x.2 + 1), x.2 + 1)
               | _ => x)
            | none => x) (s1, c)).1
          if u.xfer.isSome then s2
          else
            s2.upds.foldl (fun x p =>
              let v := p.2
              if u.th.isSome && v.th == u.th && id < p.1 && 0 < v.notBefore then
                let least := c + (if offDie u.die u.key then 1 else 0) + 1 + (if offDie u.die v.key then 1 else 0)
                moveUpd b fuel (x.modUpd p.1 fun y => { y with notBefore := max y.notBefore least }) p.1 least
              else x) s2
      | _ => s

/-- Book a return anew so as to land at a tick at the earliest, and read no earlier than another (R213, R266); a promise that it had made is broken, but for a
piece that made none, whose path is charged all the same (R412). -/
def moveRet (s : State) (id : Nat) (r : Ret) (again after : Nat) (spoilt : Bool) (b : Break) : State :=
  let key := r.key.getD 0
  let (s1, read, land) := rebook s r key again after
  let put (ph : RetPhase) (x : State) : State := x.modRet id fun y => { y with poisoned := y.poisoned || spoilt, phase := ph }
  let tell (x : State) : State :=
    if r.est then x
    else if silentPiece s r then chargePath x (breakElement b)
    else tellXfer (breakRet x id r land b) r (s.onDie (dieOfCore r.core) land) true
  match r.phase with
  | .probe known _ _ => put (.probe known read land) s1
  | .booked _ _ => tell (put (.booked (if r.kind = .atomic then after else read) land) s1)
  | .read _ => tell (put (.read land) s1)
  | _ => s

/-- The later reads of a thread to some bytes of one that has moved are read no earlier (R266): each moves, and breaks its promise, as far as it must. -/
def pushReads (s : State) (id : Nat) (b : Break) : State :=
  (s.rets.map (·.1)).foldl (fun x i =>
    match nfind x.rets i with
    | some q =>
      let need := earlierRead x i q (q.key.getD 0)
      if i ≤ id || q.bytes = 0 || q.kind = .atomic then x
      else
        (match q.phase with
         | .probe _ y land | .booked y land => if need ≤ y then x else moveRet x i q (land + (need - y)) need false b
         | _ => x)
    | none => x) s

/-- BROKEN_PROMISE: a promise that is known and not yet kept is booked anew from the tick of detection, no earlier than what broke it allows, along the part of its
path that remains (R213), where one of the four events touches its path (R212). -/
def brokenPromise (id : Nat) (b : Break) (s : State) : State :=
  let again := s.now + b.delay
  match nfind s.rets id, nfind s.upds id with
  | some r, _ =>
    let key := r.key.getD 0
    let spoilt := b.fails && b.cause == 2
    if r.est || r.key.isNone || !breaksRet b r key then s
    else
      match r.phase with
      | .booked read land =>
        let after := if r.kind = .atomic then read else max read (again - (land - read))
        let s1 := pushReads (moveRet s id r again after spoilt b) id b
        if silentPiece s r then s1 else failRetry s1 r.th key b
      | .read _ =>
        let s1 := moveRet s id r again 0 spoilt b
        if silentPiece s r then s1 else failRetry s1 r.th key b
      | _ => s
  | none, some u =>
    match u.phase, u.th with
    | .lehr c, some _ =>
      if u.told && breakFits b u.die u.key 4 false true false then
        pushReads (if again ≤ c then delayUpd s id u c b else moveUpd b (s.upds.length + 1) s id again) 0 b
      else s
    | _, _ => s
  | none, none => s

/-- BROKEN_PROMISE (R213). -/
def execBrokenPromise (id : Nat) (b : Break) (s : State) : Host.Outcome State Fault Refusal := .next (brokenPromise id b s)

/-! ### Refusals (R240) -/

/-- A thread holds a refusal: the first in full, a count of the others (R240). -/
def holdRefusal (s : State) (k pc va code : Nat) : State :=
  s.modThr k fun t =>
    { t with
      refusal :=
        match t.refusal with
        | none => some { pc := pc, addr := va, cause := code }
        | some r => some { r with more := r.more + 1 } }

/-- An update is refused: its time register receives the tick, a record is written, and the thread holds the refusal. The record names
unit 3 where an error of the structure that held the update was the cause, and no unit otherwise (R382, log 88). -/
def refuseEntry (s : State) (id code : Nat) (u : Upd) : State :=
  let s1 :=
    match u.th with
    | none => s
    | some k =>
      let rep : TReg → TReg := fun t => { t with p := true, e := false, tick := s.nowOn (keeper u) }
      let s0 := report s k u.treg id rep
      let s0 := holdRefusal s0 k u.pc u.va code
      match u.ret with
      | none => s0
      | some r =>
        match nfind s0.rets r with
        | none => s0
        | some x => landRet s0.drawn r x (some [Config.freeOld s0.free, Config.freeOld (s0.free + 1)]) false rep
  let die := match homeOf u.key with | .die d => d | _ => u.die
  let s2 := machineCheck s1
    { cause := 5, sev := 1, unit := if code = 4 then 3 else 0, die := die, addr := if u.key < 2 ^ 52 then u.key else 0
      who := match u.th with | some k => (s.thr k).owner | none => 0 }
  let s3 :=
    match u.xfer with
    | none => s2
    | some x => s2.modXfer x fun y => { y with stop := y.stop.or (some (3, 1)), upds := y.upds.filter (· ≠ id) }
  retire s3 id

/-- A home refuses an update that it has not applied: the update has no effect. -/
def refuse (s : State) (id code : Nat) : State :=
  match nfind s.upds id with
  | none => s
  | some u => if u.unapplied then refuseEntry s id code u else s

/-- STORE_REFUSAL (R240, Table 11.8). -/
def execStoreRefusal (id code : Nat) (s : State) : Host.Outcome State Fault Refusal :=
  when s (1 ≤ code && code ≤ 5) (refuse s id code)

/-! ### The lehr (R232) -/

/-- A frame that its home has marked out of use: it lies in a free pool (R240 code 1, R401). -/
def frameFree (s : State) (key : Nat) : Bool :=
  match homeOf key with
  | .die d =>
    key < 2 ^ 52 &&
      (let x := s.die d
       x.pool4k.contains (key / 2 ^ 12 * 2 ^ 12) || x.pool64k.contains (key / 2 ^ 16 * 2 ^ 16) ||
         x.pool2m.contains (key / 2 ^ 21 * 2 ^ 21))
  | _ => false

/-- An atomic of the same beat to the same line, of a lower lane (R242). -/
def beatMate (u v : Upd) : Bool :=
  match u.kind, v.kind with
  | .atomic _ _ _, .atomic _ _ _ =>
    v.core == u.core && v.pc == u.pc && v.issued == u.issued && lineOf v.key == lineOf u.key && v.lane < u.lane && v.rank == u.rank
  | _, _ => false

/-- A key of cluster space, whose updates act at the crossbar port. -/
def atPort (key : Nat) : Bool := match homeOf key with | .sram _ => true | _ => false

/-- What an update must not overtake: an earlier entry of the same porch to the same home that has not arrived (R236), an earlier update of the same
thread, or of the same copy, to some of the same bytes (R235, R285; one that is still staged is not met, log 117), one that waits at the crossbar port for its tick too, an atomic of its beat of a lower lane (R242), an entry that the stair released
before it to the same home (R245). -/
def behind (s : State) (id : Nat) (u : Upd) : Bool :=
  s.upds.any fun p =>
    let v := p.2
    (match v.phase with | .porch | .travel _ | .blocked => true | .lehr _ => atPort v.key | _ => false) && p.1 ≠ id &&
      ((offDie u.die u.key && v.die == u.die && homeOf v.key == homeOf u.key && v.inPorch && v.seq < u.seq) ||
        (p.1 < id && u.th.isSome && v.th == u.th && v.xfer == u.xfer && meets v.key v.bytes u.key u.bytes) || beatMate u v ||
        (0 < v.rank && v.rank < u.rank && homeOf v.key == homeOf u.key && v.th.map gidOf == u.th.map gidOf))

/-- The tick that follows every application already held for a line (R232). -/
def lineAfter (s : State) (line : Nat) : Nat :=
  s.upds.foldl (fun m p => match p.2.phase with | .lehr c => if lineOf p.2.key = line then max m (c + 1) else m | _ => m) 0

/-- Updates held by the lehr of a die. -/
def lehrCount (s : State) (d : Nat) : Nat :=
  (s.upds.filter fun p => homeOf p.2.key = .die d && (match p.2.phase with | .lehr _ => true | _ => false)).length

/-- An update of pooled or host memory at scope 6 or above, or of another device, is applied by the acknowledgement of the far end (Table 11.2). -/
def farApplied (u : Upd) : Bool :=
  match homeOf u.key with
  | .pool | .host => 6 ≤ u.scope
  | .domain _ => true
  | _ => false

/-- An update has reached its application point: its tick is computed (R232), and an atomic's return booked (R241, R57). Beyond a port the far end's
acknowledgement is that tick (Table 11.2), which nothing bounds (log 8). -/
def arriveUpd (s : State) (id : Nat) (u : Upd) : State :=
  let line := lineOf u.key
  let lease := match homeOf u.key with | .die _ => nget s.leases line 0 | _ => 0
  let (s0, far) := if farApplied u then (s.drawn, s.now + Config.freeEstimate s.free) else (s, 0)
  let c := max (max (max s.now far) lease) (max u.notBefore (match homeOf u.key with | .sram _ => 0 | _ => lineAfter s line))
  let known := if offDie u.die u.key then none else some (max s.now (u.issued + knownLeg u.die u.key))
  let s1 := s0.modUpd id fun x => { x with phase := .lehr c, c := some c, knownAt := known }
  match u.ret, u.th with
  | some r, some k =>
    let want := c + returnLeg u.die u.key
    let (s2, land) := match bookStops s1 (u.core / 4) c (returnStops u.die u.key) 0 0 with
      | some (x, _, shift) => (x, want + shift)
      | none => (s1, want)
    (report s2 k ((nfind s.rets r).bind (·.treg)) r fun t => { t with p := true, tick := s.onDie u.die land }).modRet r
      fun x => { x with phase := .booked c land, due := some (s.onDie u.die land) }
  | _, _ => s1

/-- Write an update's effect to memory; an atomic answers its old bytes, and whether they are poisoned. -/
def writeUpd (s : State) (u : Upd) : State × List Byte × Bool :=
  match u.kind with
  | .store data tag =>
    let s1 := wrBytes s u.key data
    let s2 := if u.poisoned then poisonMem s1 u.key u.bytes else s1
    (if tag then { s2 with memTags := sput s2.memTags (u.key / 16) } else s2, [], false)
  | .atomic op m args =>
    let old := rdBytes s u.key u.bytes
    if poisonedAt s u.key u.bytes then (s, old, true)
    else (wrBytes s u.key (atomicBytes op m u.bytes args (natOfBytes old)), old, false)
  | .pte e => (putPte s u.key e, [], false)
  | .bar _ _ => (s, [], false)

/-- When the acknowledgement of an update applied now is back at its core; 0 for one that the path loses (Table 11.2, R239). -/
def backTick (s : State) (u : Upd) : Nat :=
  if !offDie u.die u.key then max s.now (u.knownAt.getD s.now)
  else if s.lostAcks.contains (u.die, homeOf u.key) then 0
  else match homeOf u.key with | .die _ => s.now + 140 | _ => s.now + 24

/-- What a home keeps of a porch: the last entry that it has applied (R239). -/
def recordApplied (s : State) (u : Upd) (tick : Nat) : State :=
  if !offDie u.die u.key then s
  else
    let h := homeOf u.key
    { s with applied := (h, u.die, u.seq, tick) :: s.applied.filter fun e => !(e.1 == h && e.2.1 == u.die) }

/-- An update fires what waits on the bytes that it writes: monitors of flags (R261), barrier objects (R255). -/
def wakeWriters (s : State) (key n : Nat) : State :=
  let s1 := fireFlags s key n none
  match homeOf key with
  | .sram _ => (List.range' (key / 16) ((key + n - 1) / 16 + 1 - key / 16)).foldl (fun x g => wakeBars x (16 * g)) s1
  | _ => s1

/-- A word on a barrier object acts at the crossbar port (R254, R255): its ticket and its tick land, a BAR.ARRW has its ticket to wait for. -/
def barApply (s : State) (id op : Nat) (v : Word) (u : Upd) : State :=
  let s0 := { s with upds := ndel s.upds id }
  let (ticket, s1) : Word × State := if op = 2 then (0, barInit s0 u.key v) else barArrive s0 u.key
  let rep : TReg → TReg := fun t => { t with p := true, tick := s.onDie u.die s.now }
  let s2 := match u.ret with
    | some r => (match nfind s1.rets r with | some x => landRet s1 r x (some [ticket]) false rep | none => s1)
    | none => s1
  let s3 := s2.modThr (u.th.getD 0) fun t =>
    match op, t.wait with
    | 5, .barrier a none treg f => if a = u.key then { t with wait := .barrier a (some ticket) treg f } else t
    | _, _ => t
  wakeWriters s3 u.key 16

/-- LEHR_APPLY: the update takes effect at its tick (R232), unless a tile that it names is filling or draining (R292), when its completion is open again, or the frame has been put out of
use (R240, R300); a unit of a transfer is written. One that a kernel boundary applies early keeps its completion tick (R204). -/
def lehrApply (id : Nat) (s : State) : State :=
  match nfind s.upds id with
  | none => s
  | some u =>
    match u.phase with
    | .lehr c =>
      if s.now < c then s
      else if inBusyTile s u.key u.bytes && u.xfer.isNone then
        s.modUpd id fun x => { x with phase := .blocked, c := none, knownAt := none, told := false }
      else if u.stale then refuse s id 1
      else
        match u.kind with
        | .bar op v => barApply s id op v u
        | _ =>
        let (s1, old, bad) := writeUpd s u
        let back := backTick s1 u
        let s2 := s1.modUpd id fun x =>
          { x with phase := .applied (if back = 0 then 0 else max back (u.c.getD 0)), c := some (max s.now (u.c.getD 0)) }
        let s4 := recordApplied (wakeWriters s2 u.key u.bytes) u (s.nowOn (keeper u))
        let s5 := match u.ret with
          | some r => s4.modRet r fun x =>
              { x with data := old, poisoned := bad, phase := match x.phase with | .booked _ l => .read l | p => p }
          | none => s4
        match u.xfer with
        | some x => s5.modXfer x fun y => { y with moved := sput y.moved u.unit, last := max y.last (max s.now (u.c.getD 0)) }
        | none => s5
    | _ => s

/-- LEHR_APPLY (R232). -/
def execLehrApply (id : Nat) (s : State) : Host.Outcome State Fault Refusal := .next (lehrApply id s)

/-- LEHR_ARRIVAL: an update that was on its way, or that waited for a tile or for an earlier one, arrives; its home may refuse it, or
have no room yet. At a crossbar port it acts at once, those of one tick in the order of core and lane (R254, Table 11.2). -/
def lehrArrival (id : Nat) (s : State) : State :=
  match nfind s.upds id with
  | none => s
  | some u =>
    let due := match u.phase with | .travel tick => tick ≤ s.now | .blocked => true | _ => false
    if !due then s
    else if u.ungranted then grantUpd s id u s.now
    else if behind s id u || inBusyTile s u.key u.bytes then s.modUpd id fun x => { x with phase := .blocked }
    else if u.stale || frameFree s u.key then refuse s id 1
    else
      match homeOf u.key with
      | .die d => if lehrCount s d ≥ 4096 then s.modUpd id fun x => { x with phase := .travel (s.now + 1) } else arriveUpd s id u
      | .sram _ => lehrApply id (arriveUpd s id u)
      | _ => arriveUpd s id u

/-- LEHR_ARRIVAL (R232). -/
def execLehrArrival (id : Nat) (s : State) : Host.Outcome State Fault Refusal := .next (lehrArrival id s)

/-- STORE_COMPLETION_KNOWN: the completion tick, as its home keeps it (R26), is written to the time register (R230). -/
def storeCompletionKnown (id : Nat) (s : State) : State :=
  match nfind s.upds id with
  | none => s
  | some u =>
    match u.c, u.knownAt, u.th with
    | some c, some n, some k =>
      if s.now < n || u.told then s
      else
        report (s.modUpd id fun x => { x with told := true }) k u.treg id fun t => { t with p := true, tick := s.onDie (keeper u) c }
    | _, _, _ => s

/-- STORE_COMPLETION_KNOWN (R230). -/
def execStoreCompletionKnown (id : Nat) (s : State) : Host.Outcome State Fault Refusal := .next (storeCompletionKnown id s)

/-- STORE_RETIRE: an update of its own die or of cluster space retires at its completion; the far end of one already acknowledged by a
port answers (R230, R251). -/
def storeRetire (id : Nat) (s : State) : State :=
  match nfind s.upds id with
  | none => s
  | some u =>
    match u.phase with
    | .applied back =>
      if offDie u.die u.key || s.now < back then s
      else
        let s1 := storeCompletionKnown id s
        retire (keptUpd s1 ((nfind s1.upds id).getD u)) id
    | .far tick => if s.now < tick then s else retire s id
    | _ => s

/-- STORE_RETIRE (R230). -/
def execStoreRetire (id : Nat) (s : State) : Host.Outcome State Fault Refusal := .next (storeRetire id s)

/-! ### The porch (R236 to R239) -/

/-- The entries of a porch to a home, the lowest sequence number first. -/
def porchQueue (s : State) (die : Nat) (h : Home) : List Nat :=
  let es := s.upds.filter fun p => p.2.die = die && p.2.inPorch && homeOf p.2.key = h
  (es.foldl (fun (l : NMap Nat) p => nset l p.2.seq p.1) []).map (·.2)

/-- The next entry that a porch may send (R236). -/
def porchNext (s : State) (die : Nat) (h : Home) : Option Nat :=
  if (s.die die).seized.contains h then none
  else (porchQueue s die h).find? fun id => match nfind s.upds id with | some u => u.sent.isNone && u.phase == .porch | none => false

/-- Put an entry on its way; on a path that loses entries it does not arrive (R239). -/
def launchEntry (s : State) (id : Nat) (u : Upd) : State :=
  if s.lostSends.contains (u.die, homeOf u.key) then s
  else
    let (s1, extra) := takeDelay s
    grantUpd s1 id u (s.now + legOf u.die u.key + extra)

/-- PORCH_SEND: the next entry in sequence order leaves (R236); an ef entry fires the monitors of its die (R261). -/
def porchSend (die : Nat) (h : Home) (s : State) : State :=
  match porchNext s die h with
  | none => s
  | some id =>
    match nfind s.upds id with
    | none => s
    | some u => launchEntry (s.modUpd id fun x => { x with sent := some s.now, replays := 0 }) id u

/-- PORCH_SEND (R236). -/
def execPorchSend (die : Nat) (h : Home) (s : State) : Host.Outcome State Fault Refusal := .next (porchSend die h s)

/-- An acknowledgement has arrived: the completion is known and the update retires; one acknowledged by a port stays until the far end
answers (R230, R251). -/
def acknowledge (s : State) (id : Nat) (u : Upd) : State :=
  let s0 := storeCompletionKnown id (s.modUpd id fun x => { x with knownAt := some s.now })
  let s1 := keptUpd s0 ((nfind s0.upds id).getD u)
  let port := (homeOf u.key == .pool || homeOf u.key == .host) && u.scope < 6
  let s2 := retire s1 id
  if port then
    { s2.drawn with
      upds := nset s2.upds id
        { u with phase := .far (s.now + Config.freeEstimate s2.free), counted := false, treg := none, knownAt := some s.now
                 told := true, xfer := none } }
  else s2

/-- Whether an entry's acknowledgement is here. -/
def ackDue (s : State) (u : Upd) : Bool :=
  offDie u.die u.key && (match u.phase with | .applied back => 0 < back && back ≤ s.now | _ => false)

/-- PORCH_ACK (R236). -/
def porchAck (id : Nat) (s : State) : State :=
  match nfind s.upds id with
  | none => s
  | some u => if ackDue s u then acknowledge s id u else s

/-- PORCH_ACK (R236). -/
def execPorchAck (id : Nat) (s : State) : Host.Outcome State Fault Refusal := .next (porchAck id s)

/-- An entry without an acknowledgement on its way: sent, and lost or not answered (R239). -/
def unanswered (u : Upd) : Bool :=
  match u.phase with
  | .porch | .applied _ | .lehr _ | .travel _ | .blocked => u.sent.isSome
  | _ => false

/-- PORCH_REPLAY: an entry sent again; a home that has applied it repeats its acknowledgement (R239). -/
def porchReplay (id : Nat) (s : State) : State :=
  match nfind s.upds id with
  | none => s
  | some u =>
    match u.sent with
    | none => s
    | some t0 =>
      if !unanswered u || u.replays ≥ 8 || s.now < t0 + 1024 * (u.replays + 1) then s
      else
        let s1 := s.modUpd id fun x => { x with replays := x.replays + 1 }
        match u.phase with
        | .porch => launchEntry s1 id u
        | .applied 0 =>
          if s.lostAcks.contains (u.die, homeOf u.key) || s.lostSends.contains (u.die, homeOf u.key) then s1
          else s1.modUpd id fun x => { x with phase := .applied (s.now + 2 * legOf u.die u.key) }
        | _ => s1

/-- PORCH_REPLAY (R239). -/
def execPorchReplay (id : Nat) (s : State) : Host.Outcome State Fault Refusal := .next (porchReplay id s)

/-- An address that names the home of a key: the key itself; of die space, which has no physical address, the first of the die's stack (log 24). -/
def homeAddr (key : Nat) : Nat := if key < 2 ^ 52 then key else match homeOf key with | .die d => d * 2 ^ 36 | _ => 0

/-- PORCH_SEIZE: no acknowledgement 9,216 ticks after the entry was sent; a record names the die, the home and the sequence number
(R239, R382). -/
def porchSeize (id : Nat) (s : State) : State :=
  match nfind s.upds id with
  | none => s
  | some u =>
    let h := homeOf u.key
    match u.sent with
    | none => s
    | some t0 =>
      if !unanswered u || s.now < t0 + 9216 || (s.die u.die).seized.contains h then s
      else
        machineCheck (s.modDie u.die fun d => { d with seized := h :: d.seized })
          { cause := 4, sev := 1, unit := 3, die := u.die, aux := BitVec.ofNat 32 u.seq, addr := homeAddr u.key
            who := match u.th with | some k => (s.thr k).owner | none => 0 }

/-- PORCH_SEIZE (R239). -/
def execPorchSeize (id : Nat) (s : State) : Host.Outcome State Fault Refusal := .next (porchSeize id s)

/-- End a seizure: every entry follows R239 afresh (R434). -/
def unseize (s : State) (die : Nat) (h : Home) : State :=
  s.modDie die fun d => { d with seized := d.seized.filter (· ≠ h) }

/-- The entry that seized a home: the oldest one sent. -/
def seizedEntry (s : State) (die : Nat) (h : Home) : Option (Nat × Upd) :=
  match (porchQueue s die h).filterMap fun id => (nfind s.upds id).bind fun u => if u.sent.isSome then some (id, u) else none with
  | [] => none
  | e :: _ => some e

/-- Start the count of R239 again for the entries that were sent. -/
def refresh (s : State) (die : Nat) (h : Home) : State :=
  (porchQueue s die h).foldl (fun x id =>
    x.modUpd id fun u => if u.sent.isSome then { u with sent := some s.now, replays := 0 } else u) s

/-- PORCH_POST_ACK: firmware posts the acknowledgement of an applied entry (Table 11.4, R434). -/
def porchPostAck (die : Nat) (h : Home) (s : State) : State :=
  if !(s.die die).seized.contains h then s
  else
    match seizedEntry s die h with
    | some (id, u) =>
      (match u.phase with
       | .applied _ => refresh (acknowledge (unseize s die h) id u) die h
       | _ => s)
    | none => s

/-- PORCH_POST_ACK (R434). -/
def execPorchPostAck (die : Nat) (h : Home) (s : State) : Host.Outcome State Fault Refusal := .next (porchPostAck die h s)

/-- An entry that is sent again: the home drops one that it has applied, and repeats its acknowledgement (R239). -/
def resent (s : State) (u : Upd) : Upd :=
  match u.phase with
  | .porch => { u with sent := none, replays := 0 }
  | .applied 0 =>
    if s.lostAcks.contains (u.die, homeOf u.key) || s.lostSends.contains (u.die, homeOf u.key) then u
    else { u with phase := .applied (s.now + 2 * legOf u.die u.key) }
  | _ => u

/-- PORCH_RESEND: the entries from the oldest one on are sent again in order (Table 11.4, R239, R434). -/
def porchResend (die : Nat) (h : Home) (s : State) : State :=
  if !(s.die die).seized.contains h || (seizedEntry s die h).isNone then s
  else (porchQueue s die h).foldl (fun x id => x.modUpd id (resent s)) (refresh (unseize s die h) die h)

/-- PORCH_RESEND (R434). -/
def execPorchResend (die : Nat) (h : Home) (s : State) : Host.Outcome State Fault Refusal := .next (porchResend die h s)

/-- HOME_LOST: every held entry is refused, one that was applied and waits for its acknowledgement too (Table 11.4, log 24). -/
def homeLost (die : Nat) (h : Home) (s : State) : State :=
  if !(s.die die).seized.contains h then s
  else
    (porchQueue s die h).foldl (fun x id =>
      match nfind x.upds id with
      | none => x
      | some u => refuseEntry x id 3 u) (unseize s die h)

/-- HOME_LOST (R240). -/
def execHomeLost (die : Nat) (h : Home) (s : State) : Host.Outcome State Fault Refusal := .next (homeLost die h s)

/-- STAIR_TICKET_PASS: the group at the ticket has ended and its last release has retired: the next has the ticket (R245). -/
def ticketDue (s : State) (l : Nat) : Bool :=
  let x := s.lch l
  x.kernel.det && x.startTick.isSome && x.ticket < x.gx * x.gy * x.gz && !x.todo.contains x.ticket &&
    !(s.groups.any fun p => p.2.launch == l && p.2.index == x.ticket)

/-- STAIR_TICKET_PASS (R245). -/
def execStairTicketPass (l : Nat) (s : State) : Host.Outcome State Fault Refusal :=
  when s (ticketDue s l) (s.modLch l fun x => { x with ticket := x.ticket + 1 })

/-- PROBE_PIN_EXPIRY: the pin of a line ends (R198). -/
def execProbePinExpiry (id : Nat) (s : State) : Host.Outcome State Fault Refusal :=
  when s (match nfind s.pins id with | some e => e.2 < s.now | none => false) { s with pins := ndel s.pins id }

end Sys2Proof.Machine
end

