-- ==== Sys2Proof/Machine/Pages.lean ====
section
/-! DEFINITION. Page life: the four page words of class 0xC (R297 to R300), walks (R391), frame pools (R396), copy-on-write (R397),
migration (R399) and PAGEIN (R400), with their events. -/

namespace Sys2Proof.Machine

/-! ### Frames -/

/-- A die's free frames of a size (R396); none for the sizes that have no pool. -/
def poolOf (d : Die) (size : Nat) : List Nat :=
  match size with
  | 0 => d.pool4k
  | 1 => d.pool64k
  | 2 => d.pool2m
  | _ => []

/-- Set a die's free frames of a size. -/
def setPool (d : Die) (size : Nat) (l : List Nat) : Die :=
  match size with
  | 0 => { d with pool4k := l }
  | 1 => { d with pool64k := l }
  | 2 => { d with pool2m := l }
  | _ => d

/-- Pop a frame; a pool that falls below 64 frames is reported (R396). -/
def popFrame (s : State) (die size : Nat) : Option (Nat × State) :=
  match poolOf (s.die die) size with
  | [] => none
  | f :: rest =>
    let s1 := s.modDie die fun d => setPool d size rest
    some (f, if rest.length = 63 then postEvent s1 8 die 0 (BitVec.ofNat 32 size) else s1)

/-- A frame whose count is 0 goes back to its die's pool; one that a full pool, or no pool, takes is kept out and reported (R395, R396). -/
def returnFrame (s : State) (frame size : Nat) : State :=
  if !inStack frame || s.count frame ≠ 0 then s
  else
    let die := tableDie frame
    let l := poolOf (s.die die) size
    if size ≤ 2 && l.length < 4096 then s.modDie die fun d => setPool d size (l ++ [frame])
    else postEvent s 9 die 0 (BitVec.ofNat 32 (frame / 4096))

/-- The live dies, ascending. -/
def liveDies (s : State) : List Nat := (List.range Config.nDies).filter s.liveDie

/-- The die of an interleaved page's bucket (R398). -/
def bucketDie (s : State) (va : Nat) : Nat :=
  let l := liveDies s
  l.getD (va / 4096 % 4096 % l.length) 0

/-- The die whose pool gives a page its new frame: the named die, or its bucket's for an interleaved 4 KiB page (R397, R398, R400). -/
def frameDie (s : State) (l : Leaf) (va die : Nat) : Nat := if pteIl l.raw && l.size = 0 then bucketDie s va else die

/-- A leaf's entry with another state and frame. -/
def pteWith (e : Double) (state frame : Nat) : Double :=
  BitVec.ofNat 64 (e.toNat % 4096 + frame / 4096 % 2 ^ 40 * 4096 + e.toNat / 2 ^ 52 % 256 * 2 ^ 52 + state % 8 * 2 ^ 60 + 2 ^ 63)

/-- The entries of a leaf: 16 for a page that spans 16 (R390), else one. -/
def leafEntries (l : Leaf) : List Nat :=
  if l.size = 1 ∨ l.size = 3 ∨ l.size = 5 then (List.range 16).map fun j => l.base + 8 * j else [l.entry]

/-- Write a leaf anew, in all its entries; the frame is counted once (R395). A thread that waits on a flag of a page that leaves its frame reads it again, since
no update will fire its monitor there (R261). -/
def writeLeaf (s : State) (l : Leaf) (e : Double) : State :=
  let s1 := (leafEntries l).foldl (fun x a => wrBytes x a (bytesOfNat e.toNat 8)) s
  let s2 := if pteFrame e = pteFrame l.raw then s1 else fireFlags s1 (pteFrame l.raw) (pageBytes l.size) none
  countLeaf (countLeaf s2 l.raw false) e true

/-- Copy a page's bytes, with their poison. -/
def copyPage (s : State) (src dst n : Nat) : State :=
  let cells := s.mem.filter fun c => src ≤ c.1 && c.1 < src + n
  let marks := s.memPoison.filter fun a => src ≤ a && a < src + n
  let s1 := clearMem s dst n
  { s1 with
    mem := cells.foldl (fun m c => Memory.write m (dst + (c.1 - src)) c.2) s1.mem
    memPoison := marks.foldl (fun m a => sput m (dst + (a - src))) s1.memPoison }

/-- The ticks that a page's copy takes (R397, R399; not architectural). -/
def copyTicks (size : Nat) : Nat := 40 + 5 * (pageBytes size / 64)

/-! ### The page words (R297 to R300) -/

/-- A page word's checks: R126 for one byte, in a space whose addresses are translated (R297); then its return starts with a walk. -/
def pageWord (f : Fields) (perm : BitVec 6) (kind : RetKind) (est : Bool) (k : Nat) (s : State) : Act :=
  let c := capA s k f
  let a := addrOf s k f
  match accessFault s k c perm a 1 1 [0, 2, 3] with
  | some x => .fault x
  | none =>
    let core := s.coreOf k
    let id := s.ids
    let r : Ret :=
      { th := k, kind := kind, dst := f.d.toNat, n := if f.d = 0 then 0 else 1, treg := some f.time, counter := .loads
        space := c.space, va := a, core := core, issued := s.now, pc := (s.thr k).pc
        phase := walkPhase s core (s.lchOf k).tenant (s.tva k c.space a) }
    let at_ := s.onDie (s.dieOf k) (s.now + 2 + Config.freeEstimate s.free)
    let s1 := startRet s k (if est then { r with due := some at_ } else r)
    .go (if est then report s1.drawn k (some f.time) id fun t => { t with e := true, tick := at_ } else s1)

/-- PAGEIN (R297): until it lands its time register carries an estimate. -/
def execPagein (f : Fields) (s : State) : Host.Outcome State Fault Refusal :=
  issue 0xCC f (pageWord f permLD (.page 0xC 0) true) s

/-- PGSTAT (R298). -/
def execPgstat (f : Fields) (s : State) : Host.Outcome State Fault Refusal :=
  issue 0xCD f (pageWord f permLD .pgstat false) s

/-- PLACE: x[D] at issue is the descriptor (R299). -/
def execPlace (f : Fields) (s : State) : Host.Outcome State Fault Refusal :=
  issue 0xCE f (fun k s => pageWord f permLD (.page 0xE ((s.thr k).x f.d.toNat)) false k s) s

/-- DISCARD: the capability's bounds must cover the whole page (R300). -/
def execDiscard (f : Fields) (s : State) : Host.Outcome State Fault Refusal :=
  issue 0xCF f (fun k s =>
    let c := capA s k f
    let a := addrOf s k f
    let v := s.tva k c.space a
    let covers : Bool :=
      match walk s (s.lchOf k).tenant v with
      | .leaf l =>
        let lo := v / pageBytes l.size * pageBytes l.size
        decide (c.base + v ≤ lo + a) && decide (lo + pageBytes l.size + a ≤ c.base + c.length + v)
      | .notMapped => true
    match accessFault s k c permST a 1 1 [0, 2, 3] with
    | some x => .fault x
    | none =>
      if covers then pageWord f permST (.page 0xF 0) false k s
      else .fault { cause := causeCapability, sub := 4, addr := a }) s

/-! ### What a walk's return does -/

/-- The page state word of a leaf (Table 16.7). -/
def pageState (r : WalkRes) : Word :=
  match r with
  | .notMapped => 7
  | .leaf l =>
    let fr := pteFrame l.raw
    let off := l.state ≠ 3 && l.state ≠ 4 && !inStack fr
    BitVec.ofNat 32 (l.state + l.size * 16 + (if off then 4096 else fr / 2 ^ 36 % 16 * 256))

/-- A return lands with a word at this tick, which its time register receives. -/
def landWord (s : State) (id : Nat) (w : Word) : State :=
  match nfind s.rets id with
  | none => s
  | some r => landRet s id r (some [w]) false fun t => { t with p := true, e := false, tick := s.nowOn (dieOfCore r.core) }

/-- A load of a page that is not there: zero, with A and NRES, two ticks after the walk's return (R209). PROBE's status word names no source for it in the spec: that
field is a free value (log 120). -/
def absentRet (s : State) (id : Nat) (r : Ret) : State :=
  let data := match r.kind with
    | .probe => bytesOfNat ((Config.freeReply s.free).toNat % 8 + 256) 4
    | _ => bytesOfNat 0 r.bytes
  let f := s.onDie (dieOfCore r.core) (s.now + 2)
  let put (x : State) : State := x.drawn.modRet id fun x => { x with absent := true, due := some f, data := data, phase := .read (s.now + 2) }
  match r.partOf with
  | some x => tellXfer (put (stopStream (s.modXfer x fun y => { y with absent := true }) x (1, 0))) r f false
  | none =>
    put ((report s r.th r.treg id fun t => { t with p := true, a := true, tick := f }).modThr r.th fun t => t.setStatus statusNRES)

/-- The entry that a walk has read stands there still. -/
def leafStands (s : State) (w : WalkRes) : Bool :=
  match w with
  | .leaf l => BitVec.ofNat 64 (rdNat s l.entry 8) = l.raw
  | .notMapped => true

/-- The PAGEINs of the page that a walk has found, of any threads: those in flight for two ticks or more are merged with the one whose walk has returned
(R297). -/
def pageinMates (s : State) (id : Nat) (r : Ret) (l : Leaf) : List Nat :=
  let page (q : Ret) : Nat := s.tva q.th q.space q.va / pageBytes l.size
  id :: (s.rets.filter fun p =>
    p.1 ≠ id && (match p.2.kind, p.2.phase with | .page 0xC _, .walk _ _ _ | .page 0xC _, .back _ _ => true | _, _ => false) &&
      p.2.issued + 2 ≤ s.now && (s.lchOf p.2.th).tenant = (s.lchOf r.th).tenant && page p.2 = page r).map (·.1)

/-- Walk again for a return, from a tick on. -/
def walkAgain (s : State) (id : Nat) (r : Ret) (tick : Nat) : State :=
  let root := (s.tenant (s.lchOf r.th).tenant).root
  s.modRet id fun x => { x with phase := .walk tick 4 root }

/-- PAGEIN when its walk has returned (R297, R400): PAGEINs to one page are merged, whichever of its entries they meet (R390), and land together. -/
def pageIn (s : State) (id : Nat) (r : Ret) (w : WalkRes) : State :=
  let va := s.tva r.th r.space r.va
  match w with
  | .notMapped => landWord s id 2
  | .leaf l =>
    let mates := pageinMates s id r l
    let land (x : State) (st : Word) : State := mates.foldl (fun y i => landWord y i st) x
    let wait (x : State) : State := mates.foldl (fun y i => y.modRet i fun q => { q with phase := .await }) x
    match l.state with
    | 3 =>
      if pteNoPg l.raw then land s 3
      else
        match popFrame s (frameDie s l va (tableDie (pteFrame l.raw))) l.size with
        | none => land s 1
        | some (g, s1) => land (writeLeaf (clearMem s1 g (pageBytes l.size)) l (pteWith l.raw 0 g)) 0
    | 4 =>
      if pteNoPg l.raw then land s 3
      else
        match s.pageOps.find? fun p => (match p.2.kind with | .pagein _ => true | _ => false) && p.2.leaf.base = l.base with
        | some (i, o) =>
          (match o.kind with
           | .pagein rs => wait { s with pageOps := nset s.pageOps i { o with kind := .pagein (rs ++ mates) } }
           | _ => s)
        | none =>
          let s1 := { s with
            ids := s.ids + 1
            pageOps := nset s.pageOps s.ids
              { kind := .pagein mates, tenant := (s.lchOf r.th).tenant, va := va, leaf := l, phase := .host } }
          postEvent (wait s1) 10 (pteFrame l.raw / 2 ^ 36 % 16) 0 (BitVec.ofNat 32 (pteFrame l.raw / 4096 % 2 ^ 24))
    | _ => land s 0

/-- Start a migration: the leaf becomes migrating and its address is swept (R399 step 1). -/
def startMove (s : State) (tenant va : Nat) (l : Leaf) (target : MigTarget) (frame : Nat) (ret : Option Nat) : State :=
  let s1 := sweepPage (writeLeaf s l (pteWith l.raw 2 (pteFrame l.raw))) va
  { s1 with
    ids := s1.ids + 1
    pageOps := nset s1.pageOps s1.ids
      { kind := .move target ret, tenant := tenant, va := va, leaf := { l with raw := pteWith l.raw 2 (pteFrame l.raw) }
        phase := .drain frame } }

/-- A PLACE descriptor that is bad, or names a die that is not there (R299). -/
def placeBad (s : State) (d : Word) : Bool := d.toNat ≥ 32 || (!d.getLsbD 4 && !s.liveDie (d.toNat % 16))

/-- PLACE when its walk has returned (R299, R399). -/
def place (s : State) (id : Nat) (r : Ret) (d : Word) (w : WalkRes) : State :=
  let tenant := (s.lchOf r.th).tenant
  match w with
  | .notMapped => landWord s id (if placeBad s d then 4 else 2)
  | .leaf l =>
    let fr := pteFrame l.raw
    if placeBad s d then landWord s id 4
    else
      match l.state with
      | 3 | 4 => landWord s id 5
      | 2 => walkAgain (s.modRet id fun x => { x with kind := .page 0xD 0 }) id r (s.now + 64)
      | st =>
        if ptePin l.raw then landWord s id 3
        else if st = 1 && s.count fr ≠ 1 then landWord s id 1
        else
          let moved (s1 : State) (t : MigTarget) (g : Nat) : State :=
            startMove (s1.modRet id fun x => { x with phase := .await }) tenant (s.tva r.th r.space r.va) l t g (some id)
          if d.getLsbD 4 then
            if fr / 2 ^ 48 = 1 then landWord s id 0
            else
              let g := 2 ^ 48 + Config.freePoolFrame s.free * pageBytes l.size % 2 ^ 48
              moved s.drawn (.pool g) g
          else if inStack fr && tableDie fr = d.toNat % 16 then landWord s id 0
          else
            match popFrame s (d.toNat % 16) l.size with
            | none => landWord s id 1
            | some (g, s1) => moved s1 (.die (d.toNat % 16)) g

/-- DISCARD when its walk has returned (R300, R395): the leaf, the count and every translation change at one tick; stores translated before and not
yet applied are refused (R240, Table 16.8). -/
def discardPage (s : State) (id : Nat) (r : Ret) (w : WalkRes) : State :=
  match w with
  | .notMapped => landWord s id 2
  | .leaf l =>
    let fr := pteFrame l.raw
    match l.state with
    | 3 | 4 => landWord s id 0
    | 2 => walkAgain s id r (s.now + 64)
    | _ =>
      if pteNoDis l.raw then landWord s id 3
      else
        let die := if inStack fr then tableDie fr else 0
        let s1 := sweepPage (writeLeaf s l (pteWith l.raw 3 (die * 2 ^ 36))) (s.tva r.th r.space r.va)
        landWord (returnFrame (markStale s1 fr (pageBytes l.size)) fr l.size) id 0

/-- The home of a page in the device, if it has one (R346, R350). -/
def homeDie (s : State) (tenant va : Nat) : Option Nat :=
  match walk s tenant va with
  | .leaf l => if l.present && inStack (pteFrame l.raw) then some (tableDie (pteFrame l.raw)) else none
  | .notMapped => none

/-- The pages of 4 KiB that each die homes among those of a range (R346). -/
def homeCounts (s : State) (tenant space va len : Nat) : NMap Nat :=
  if !translated space then []
  else
    let p0 := va / 4096
    (List.range' p0 ((va + len - 1) / 4096 + 1 - p0)).foldl (fun m p =>
      match homeDie s tenant (p * 4096) with
      | some d => nset m d (nget m d 0 + 1)
      | none => m) []

/-- The die that homes most, the lower on a tie, and its count. -/
def mostHomed (m : NMap Nat) : Option (Nat × Nat) :=
  m.foldl (fun b p => match b with | none => some p | some q => if p.2 > q.2 then some p else some q) none

/-- HOMEQ's word from the pages that each die homes (Table 20.6); in deterministic mode Table 20.7's. -/
def homeWord (s : State) (k : Nat) (counts : NMap Nat) : Word :=
  if s.det k then 0x10
  else
    match mostHomed counts with
    | some (d, n) => BitVec.ofNat 32 (d + min n 65535 * 65536)
    | none => 0x10

/-- HOMEQ when a walk of it has returned (R350): the leaf's pages in the range are counted, and the next page beyond is walked; after the last, P is
written two ticks on. The walks are made one after another (log 95). -/
def homeqWalked (s : State) (id : Nat) (r : Ret) (end_ : Nat) (counts : NMap Nat) (w : WalkRes) : State :=
  let va := s.tva r.th r.space r.va
  let next : Nat := match w with
    | .leaf l => r.va + (pageBytes l.size - va % pageBytes l.size)
    | .notMapped => (r.va / 4096 + 1) * 4096
  let stop := min next end_
  let pages := (stop - 1) / 4096 + 1 - r.va / 4096
  let counts' : NMap Nat := match w with
    | .leaf l =>
      if l.present && inStack (pteFrame l.raw) then
        let d := tableDie (pteFrame l.raw)
        nset counts d (nget counts d 0 + pages)
      else counts
    | .notMapped => counts
  if stop < end_ then
    s.modRet id fun x => { x with
      kind := .homeq end_ counts', va := stop, phase := walkPhase s r.core (s.lchOf r.th).tenant (s.tva r.th r.space stop) }
  else
    let f := s.onDie (dieOfCore r.core) (s.now + 2)
    (report s r.th r.treg id fun t => { t with p := true, tick := f }).modRet id fun x =>
      { x with kind := .word, due := some f, data := bytesOfNat (homeWord s r.th counts').toNat 4, phase := .read (s.now + 2) }

/-- What a walk's return does for what waited for it: its leaf enters the TLB and the lane's register (R208, R393). A page word acts on the entry itself: where that
has been written since, it walks again (R394). -/
def walkDone (s : State) (id : Nat) (r : Ret) (w : WalkRes) : State :=
  let tenant := (s.lchOf r.th).tenant
  let s := match w with
    | .leaf l =>
      let va := s.tva r.th r.space r.va
      lanePageSet (tlbFill s r.core tenant va l) r.core (laneOf r.th) tenant va l
    | .notMapped => s
  if (match r.kind with | .page _ _ => !leafStands s w | _ => false) then
    s.modRet id fun x => { x with phase := walkPhase s r.core tenant (s.tva r.th r.space r.va) }
  else
  match r.kind with
  | .load _ _ | .probe | .flag | .part _ _ =>
    (match w with
     | .leaf l => if l.present then bookRet s id (l.key (s.tva r.th r.space r.va)) else absentRet s id r
     | .notMapped => absentRet s id r)
  | .homeq end_ counts => homeqWalked s id r end_ counts w
  | .pgstat => s.modRet id fun x => { x with est := true, data := bytesOfNat (pageState w).toNat 4, phase := .read (s.now + 2) }
  | .page 0xC _ => pageIn s id r w
  | .page 0xD _ =>
    (match w with
     | .leaf l => if l.state = 2 then walkAgain s id r (s.now + 64) else landWord s id 0
     | .notMapped => landWord s id 0)
  | .page 0xE d => place s id r d w
  | .page _ _ => discardPage s id r w
  | .atomic | .xfer => s
  | .word => { s with rets := ndel s.rets id }.modThr r.th fun t => { t with walking := false, walked := some w }

/-- A level of a walk has been read: its line is in the memory-side cache, and an entry that names a table in the cache of them, which holds 512 and gives up the
oldest (R393, log 93). -/
def keepTable (s : State) (table level va : Nat) : State :=
  let a := pteAddr table level va
  if (cachedTable s table level va).isSome then s
  else
    let s1 := cacheLine s a
    match walkLevel s table level va with
    | .down t => s1.modDie (tableDie a) fun d => { d with tableCache := ({ entry := a, level := level, va := levelSpan level va, table := t } :: d.tableCache).take 512 }
    | .stop _ => s1

/-- PAGE_WALK: a walk reads its next level on the die that homes the table, or its result arrives (R391, Table 22.5); one that a sweep has reached begins again
(R393). Of a page that spans 16 entries the level's read decides which serves (R390). A table page with an uncorrectable error gives absent, and a record
(Table 21.7, unit 11). -/
def pageWalk (id : Nat) (s : State) : State :=
  match nfind s.rets id with
  | none => s
  | some r =>
    let tenant := (s.lchOf r.th).tenant
    let again : State := s.modRet id fun y => { y with swept := false, phase := walkPhase s r.core tenant (s.tva r.th r.space r.va) }
    match r.phase with
    | .walk tick level table =>
      if s.now < tick then s
      else if r.swept then again
      else
        let back (x : State) (w : WalkRes) : State :=
          x.modRet id fun y => { y with phase := .back (s.now + walkLeg (dieOfCore r.core) (tableDie table)) w }
        let va := s.tva r.th r.space r.va
        if (s.tenant tenant).root = 0 then back s .notMapped
        else
          let s1 := keepTable s table level va
          match readLevel s table level va with
          | .down t => s1.modRet id fun y =>
              { y with phase := .walk (s.now + (if tableDie t = tableDie table then 0 else 70) + levelTicks s1 t (level - 1) va) (level - 1) t }
          | .stop w =>
            let a := pteAddr table level va
            if poisonedAt s a 8 then
              back (machineCheck s1 { cause := 2, sev := 1, unit := 11, die := tableDie table, addr := a, who := (s.thr r.th).owner }) w
            else
              match w with
              | .leaf l => back (if spanLeaf s l = l then s1 else s1.drawn) (.leaf (spanLeaf s l))
              | .notMapped => back s1 w
    | .back tick w => if s.now < tick then s else if r.swept then again else walkDone s id r w
    | _ => s

/-- PAGE_WALK (R391). -/
def execPageWalk (id : Nat) (s : State) : Host.Outcome State Fault Refusal := .next (pageWalk id s)

/-! ### Copy-on-write (R397) -/

/-- A page operation has ended: threads and transfers held for it go on (R228, R285); after copy-on-write the held word walks again (R397). -/
def endOp (s : State) (id : Nat) : State :=
  let fresh := (nfind s.pageOps id).any fun o => match o.kind with | .cow _ _ => true | _ => false
  { s with
    pageOps := ndel s.pageOps id
    threads := s.threads.map fun p =>
      if p.2.pageHold = some id then (p.1, { p.2 with pageHold := none, walked := none, freshWalk := p.2.freshWalk || fresh }) else p
    xfers := s.xfers.map fun p => if p.2.hold = some id then (p.1, { p.2 with hold := none, at_ := s.now }) else p }

/-- Whether an earlier copy-on-write of the same frame is not finished, at the host or not (R397). -/
def cowBehind (s : State) (id : Nat) (o : PageOp) : Bool :=
  s.pageOps.any fun p =>
    p.1 < id && (match p.2.kind with | .cow _ _ => true | _ => false) && pteFrame p.2.leaf.raw = pteFrame o.leaf.raw

/-- Send a copy-on-write to the host (R397, Table 24.3 code 11). -/
def cowToHost (s : State) (id : Nat) (o : PageOp) : State :=
  let fr := pteFrame o.leaf.raw
  postEvent { s with pageOps := nset s.pageOps id { o with phase := .host } } 11 (tableDie fr) 0 (BitVec.ofNat 32 (fr / 4096))

/-- COPY_ON_WRITE: the walker takes a request, or ends its copy (R397). An entry that has been written anew during the copy stays as it is: the frame goes back, and
the held word walks again (log 83). -/
def copyOnWrite (id : Nat) (s : State) : State :=
  match nfind s.pageOps id with
  | none => s
  | some o =>
    match o.kind, o.phase with
    | .cow _ _, .start tick =>
      if s.now < tick || cowBehind s id o then s
      else
        (match walk s o.tenant o.va with
         | .leaf l =>
           let fr := pteFrame l.raw
           if l.state ≠ 1 then endOp s id
           else
             let o := { o with leaf := l }
             if pteNoCow l.raw || l.size ≥ 3 || !inStack fr then cowToHost s id o
             else if s.count fr = 1 then
               endOp (sweepPage (writeLeaf s l (pteWith l.raw 0 fr)) o.va) id
             else
               (match popFrame s (frameDie s l o.va (tableDie fr)) l.size with
                | none => cowToHost s id o
                | some (g, s1) => { s1 with pageOps := nset s1.pageOps id { o with phase := .copying (s.now + copyTicks l.size) g } })
         | .notMapped => endOp (noteWalk s o.tenant o.va 0) id)
    | .cow _ _, .copying tick g =>
      if s.now < tick then s
      else
        let l := o.leaf
        if BitVec.ofNat 64 (rdNat s l.entry 8) ≠ l.raw then
          endOp (returnFrame (wrBytes s (countKey g) (bytesOfNat 0 2)) g l.size) id
        else
          let s1 := copyPage s (pteFrame l.raw) g (pageBytes l.size)
          endOp (sweepPage (writeLeaf (wrBytes s1 (countKey g) (bytesOfNat 0 2)) l (pteWith l.raw 0 g)) o.va) id
    | _, _ => s

/-- COPY_ON_WRITE (R397). -/
def execCopyOnWrite (id : Nat) (s : State) : Host.Outcome State Fault Refusal := .next (copyOnWrite id s)

/-- The host refuses the copy-on-write that holds a transfer: it stops with outcome 3, detail 1, and its thread holds the refusal (R285, R240). -/
def refuseUnit (s : State) (i op : Nat) : State :=
  match nfind s.xfers i with
  | none => s
  | some x =>
    if x.hold ≠ some op then s
    else
      let k := x.threads.headD (x.group * 2048)
      let va := match x.kind with | .copy 3 => (x.va2 + 16 * x.next) % 2 ^ 52 | _ => x.unitVa x.next
      let s1 := s.modXfer i fun y => { y with hold := none, stop := y.stop.or (some (3, 1)) }
      machineCheck (holdRefusal s1 k x.pc va 5) { cause := 5, sev := 1, die := dieOfCore x.core, who := (s.thr k).owner }

/-- COW_REFUSAL: the host refuses every copy-on-write held on a frame, those too that wait behind the one at the host (R397, R285). -/
def cowRefusal (frame : Word) (s : State) : State :=
  s.pageOps.foldl (fun x p =>
    match p.2.kind, p.2.phase with
    | .cow th xfer, .host | .cow th xfer, .start _ =>
      if pteFrame p.2.leaf.raw / 4096 % 2 ^ 32 = frame.toNat then
        let y := { x with pageOps := ndel x.pageOps p.1 }
        let y := match th with
          | some k => y.modThr k fun t => if t.pageHold = some p.1 then { t with pageHold := none, cowRefused := true } else t
          | none => y
        match xfer with
        | some i => refuseUnit y i p.1
        | none => y
      else x
    | _, _ => x) s

/-- COW_REFUSAL (R397). -/
def execCowRefusal (frame : Word) (s : State) : Host.Outcome State Fault Refusal := .next (cowRefusal frame s)

/-- FRAME_POOL_FILL: the driver adds a frame, which a full pool does not take (log 87); copy-on-writes that wait at the host for that die are taken again (R396, R397). -/
def framePoolFill (die size pa : Nat) (s : State) : State :=
  let l := poolOf (s.die die) size
  if size > 2 then s
  else if l.length ≥ 4096 then postEvent s 9 die 0 (BitVec.ofNat 32 (pa / 4096))
  else
    let s1 := s.modDie die fun d => setPool d size (l ++ [pa])
    { s1 with
      pageOps := s1.pageOps.map fun p =>
        match p.2.kind, p.2.phase with
        | .cow _ _, .host => if frameDie s p.2.leaf p.2.va (tableDie (pteFrame p.2.leaf.raw)) = die then (p.1, { p.2 with phase := .start s.now }) else p
        | _, _ => p }

/-- FRAME_POOL_FILL (R396). -/
def execFramePoolFill (die size pa : Nat) (s : State) : Host.Outcome State Fault Refusal := .next (framePoolFill die size pa s)

/-! ### Migration (R399) and PAGEIN by the host (R400) -/

/-- Stores translated before the sweep that are not yet applied at the old frame. -/
def storesLeft (s : State) (o : PageOp) : Bool :=
  s.upds.any fun p => p.2.unapplied && meets p.2.key p.2.bytes (pteFrame o.leaf.raw) (pageBytes o.leaf.size)

/-- MIGRATION_COPY: the page's copy begins once those stores are applied (R399 step 2). -/
def migrationCopy (id : Nat) (s : State) : State :=
  match nfind s.pageOps id with
  | none => s
  | some o =>
    match o.kind, o.phase with
    | .move _ _, .drain g =>
      if storesLeft s o then s
      else { s with pageOps := nset s.pageOps id { o with phase := .copying (s.now + copyTicks o.leaf.size) g } }
    | _, _ => s

/-- MIGRATION_COPY (R399). -/
def execMigrationCopy (id : Nat) (s : State) : Host.Outcome State Fault Refusal := .next (migrationCopy id s)

/-- MIGRATION_COMMIT: one update writes the new leaf, its address is swept, the old frame goes back, PLACE's status lands (R399
step 3). -/
def migrationCommit (id : Nat) (s : State) : State :=
  match nfind s.pageOps id with
  | none => s
  | some o =>
    match o.kind, o.phase with
    | .move target ret, .copying tick g =>
      if s.now < tick then s
      else
        let l := o.leaf
        let fr := pteFrame l.raw
        let (s1, e) := match target with
          | .die _ => (copyPage s fr g (pageBytes l.size), pteWith l.raw 0 g)
          | .pool _ => (copyPage s fr g (pageBytes l.size), pteWith l.raw 5 g)
          | .absent die key => (s, pteWith l.raw 4 (die % 16 * 2 ^ 36 + key % 2 ^ 24 * 4096))
        let s2 := returnFrame (sweepPage (writeLeaf s1 l e) o.va) fr l.size
        let s3 := endOp s2 id
        match ret with
        | some r => landWord s3 r 0
        | none => s3
    | _, _ => s

/-- MIGRATION_COMMIT (R399). -/
def execMigrationCommit (id : Nat) (s : State) : Host.Outcome State Fault Refusal := .next (migrationCommit id s)

/-- HOST_MIGRATION_START: the host starts a migration of a page that is there (R399). -/
def hostMigrationStart (tenant va : Nat) (target : MigTarget) (s : State) : State :=
  match walk s tenant va with
  | .notMapped => noteWalk s tenant va 0
  | .leaf l =>
    if !(l.state = 0 || l.state = 1 || l.state = 5) then s
    else
      match target with
      | .die d =>
        (match popFrame s (d % 16) l.size with
         | some (g, s1) => startMove s1 tenant va l target g none
         | none => s)
      | .pool g => startMove s tenant va l target (2 ^ 48 + g % 2 ^ 48 / pageBytes l.size * pageBytes l.size) none
      | .absent _ _ => startMove s tenant va l target 0 none

/-- HOST_MIGRATION_START (R399). -/
def execHostMigrationStart (tenant va : Nat) (target : MigTarget) (s : State) : Host.Outcome State Fault Refusal :=
  .next (hostMigrationStart tenant va target s)

/-- End the PAGEINs that wait for the host on the page of a first entry, all with one status at this tick (R297, R400). -/
def endPageins (s : State) (entry : Nat) (status : Word) : State :=
  s.pageOps.foldl (fun x p =>
    match p.2.kind with
    | .pagein rs => if p.2.leaf.base = entry then rs.foldl (fun y r => landWord y r status) { x with pageOps := ndel x.pageOps p.1 } else x
    | _ => x) s

/-- PAGEIN_HOST_REFUSAL: each merged PAGEIN of the page lands with status 1 (R400). -/
def pageinHostRefusal (tenant va : Nat) (s : State) : State :=
  match walk s tenant va with
  | .leaf l => endPageins s l.base 1
  | .notMapped => noteWalk s tenant va 0

/-- PAGEIN_HOST_REFUSAL (R400). -/
def execPageinHostRefusal (tenant va : Nat) (s : State) : Host.Outcome State Fault Refusal :=
  .next (pageinHostRefusal tenant va s)

/-- A table entry has been written: a resident leaf ends the PAGEINs that wait for it, and copy-on-writes at the host take the page
again (R397, R400). -/
def entryWritten (s : State) (a : Nat) (e : Double) : State :=
  let base := ({ raw := e, entry := a, level := 0 } : Leaf).base
  let s1 := if pteV e && pteState e = 0 then endPageins s base 0 else s
  s1.pageOps.foldl (fun x p =>
    match p.2.kind, p.2.phase with
    | .cow _ _, .host => if p.2.leaf.entry = a then endOp x p.1 else x
    | _, _ => x) s1

end Sys2Proof.Machine
end

