-- ==== Sys2Proof/Machine/Copy.lean ====
section
/-! DEFINITION. Bulk transfers: copies and tiles (spec/16, R281 to R296), CRVLD (R171), and the reading and writing of units that
SLOTLD, SLOTRD, CBLD and streamed loads share (R312, R317). -/

namespace Sys2Proof.Machine

/-! ### The units of a transfer -/

/-- Where a group's cluster SRAM stands: on its cluster, or while it is saved in its image (R295). -/
def sramPlace (s : State) (g : Nat) : Nat :=
  match (s.grp g).residency with
  | .saved => 1024 + g
  | _ => (s.grp g).cluster

/-- The key of an address of a group in a space, as the tables stand (log 14). -/
def xferKey (s : State) (g space va : Nat) : Option Nat :=
  if translated space then keyNow s (s.lch (s.grp g).launch).tenant va
  else if space = 1 then some (sramKey (sramPlace s g) va)
  else some (dieKey (s.grp g).launch (va / 2 ^ 32 % 16) (va % 2 ^ 32))

/-- The parts of some bytes at an address, cut where a page may end. -/
def parts (va n : Nat) : List (Nat × Nat) :=
  let room := 4096 - va % 4096
  if n ≤ room then [(va % 2 ^ 52, n)] else [(va % 2 ^ 52, room), ((va + room) % 2 ^ 52, n - room)]

/-- What a read of a unit finds. -/
inductive Got where
  | bytes (bs : List Byte)
  /-- its page is absent or discarded -/
  | absent
  /-- poisoned data, at a key -/
  | poisoned (key : Nat)
  /-- it waits for entries of the porch (R237) -/
  | wait (entries : List Nat)
  /-- it is made from a tick on: a tile is filling (R292), the lehr holds the line (R203), an earlier read goes first (R266) -/
  | later (tick : Nat)
  deriving DecidableEq, Repr

/-- Who reads a unit: the thread and its next number, whether its own stores serve it (R276), whether it has met the porch (R237). -/
structure Reader where
  k : Nat
  before : Nat
  own : Bool := false
  met : Bool := false
  deriving DecidableEq, Repr

/-- The stores that a unit's read takes before memory: of a thread, for a read that is made as its load, else what the group has staged
(R276, R217, R296). -/
def unitStores (s : State) (g : Nat) (r : Reader) : NMap Upd :=
  if r.own then s.upds.filter fun p => ownStore r.k r.before p.1 p.2
  else s.upds.filter fun p => p.2.phase == .staged && p.2.th.any fun h => gidOf h == g

/-- An earlier read of the same thread to some of the same bytes has not reached its read point (R266). -/
def readBefore (s : State) (r : Reader) (space : Nat) (p : Nat × Nat) : Bool :=
  s.rets.any fun q =>
    let v := q.2
    q.1 < r.before && v.th == r.k && v.bytes > 0 && sameBytes s r.k v.space v.va v.bytes space p.1 p.2 &&
      (match v.phase with
       | .read _ => false
       | .booked x _ | .probe _ x _ => s.now < x
       | .await => !retStaged s q.1
       | _ => true)

/-- The latest tick until which the lehr holds an update to a line of some bytes (R203). -/
def linesHeld (s : State) (key n : Nat) : Nat :=
  if homeIsDie (homeOf key) then
    (List.range' (lineOf key) (lineOf (key + n - 1) + 1 - lineOf key)).foldl (fun m l => max m (lehrHolds s l)) 0
  else 0

/-- Poisoned bytes of a read that no store before memory covers. -/
def poisonUnder (s : State) (us : NMap Upd) (key n : Nat) : Bool :=
  s.memPoison.any fun j => key ≤ j && j < key + n && us.all fun p => !(p.2.key ≤ j && j < p.2.key + p.2.bytes)

/-- Read a part of a unit at its read point (R201, R237). -/
def readPart (s : State) (g die space : Nat) (r : Reader) (p : Nat × Nat) : Got :=
  match xferKey s g space p.1 with
  | none => .absent
  | some key =>
    let us := unitStores s g r
    if inFilling s key p.2 || readBefore s r space p then .later (s.now + 16)
    else if s.now ≤ linesHeld s key p.2 && linesHeld s key p.2 ≠ 0 then .later (linesHeld s key p.2 + 2)
    else
      let home : Got := if poisonUnder s us key p.2 then .poisoned key else .bytes (overlay us key (rdBytes s key p.2))
      if r.met then home
      else
        match porchSays s die (if r.own then some r.k else none) key p.2 with
        | .wait es => .wait es
        | .forward es => .bytes (overlay us key (forwarded s es key (rdBytes s key p.2)))
        | .home => home

/-- Two parts of a read together. -/
def Got.app (a b : Got) : Got :=
  match a, b with
  | .bytes x, .bytes y => .bytes (x ++ y)
  | .bytes _, y => y
  | .absent, _ | _, .absent => .absent
  | .wait x, .wait y => .wait (x ++ y)
  | x, .wait _ => (match x with | .poisoned _ => b | _ => x)
  | x, .later _ => (match x with | .poisoned _ => b | _ => x)
  | x, _ => x

/-- Read bytes at an address (R285). -/
def readUnit (s : State) (g die space va n : Nat) (r : Reader) : Got :=
  ((parts va n).map (readPart s g die space r)).foldl Got.app (.bytes [])

/-- The leaf state that decides whether a unit may be written: none where no page is (R285). -/
inductive Place where
  | key (k : Nat)
  | shared (l : Leaf)
  | later
  | absent
  deriving DecidableEq, Repr

/-- Where a unit's write goes. -/
def writePlace (s : State) (g space va : Nat) : Place :=
  if translated space then
    match walk s (s.lch (s.grp g).launch).tenant va with
    | .notMapped => .absent
    | .leaf l =>
      match l.state with
      | 0 | 5 => .key (l.key va)
      | 1 => .shared l
      | 2 => .later
      | _ => .absent
  else
    match xferKey s g space va with
    | some k => .key k
    | none => .absent

/-- Stop a transfer: no unit is started any more (R285). -/
def stopXfer (s : State) (id out det : Nat) : State := s.modXfer id fun x => { x with stop := x.stop.or (some (out, det)) }

/-- A unit that a transfer has found no page for: its walks may have met an uncorrectable entry of a table (Table 21.7, unit 11). -/
def absentXfer (s : State) (id who : Nat) (x : Xfer) (vas : List (Nat × Nat)) : State :=
  stopXfer (vas.foldl (fun y a => if translated a.1 then noteWalk y (s.lch (s.grp x.group).launch).tenant a.2 who else y) s) id 1 0

/-- A transfer tries its next unit again later. -/
def laterXfer (s : State) (id : Nat) : State := s.modXfer id fun x => { x with at_ := s.now + 16 }

/-- The thread for which a transfer acts, while it has one. -/
def Xfer.thread (x : Xfer) : Nat := x.threads.headD (x.group * 2048)

/-- Poisoned data stops a transfer with outcome 3, detail 3; the home writes the record (R285). -/
def poisonStop (s : State) (id : Nat) (x : Xfer) (key : Nat) : State :=
  machineCheck (stopXfer s id 3 3) (poisonRec s x.thread key)

/-- The next unit has started. -/
def nextUnit (s : State) (id : Nat) : State := s.modXfer id fun x => { x with next := x.next + 1, met := false, after := [] }

/-- Where a unit goes: parts of it with their keys, or why it does not go yet (R285). -/
inductive Dest where
  | go (ps : List ((Nat × Nat) × Nat))
  | absent
  /-- a shared page: it is held for copy-on-write at the address (R397) -/
  | shared (va : Nat) (l : Leaf)
  | later
  deriving DecidableEq, Repr

/-- Where a unit of a transfer is written: its page migrates, or the porch has no entry for it, until later; a staged one takes no entry yet (R296). -/
def destOf (s : State) (x : Xfer) (space va : Nat) : Dest :=
  let ps := (parts va 16).map fun p => (p, writePlace s x.group space p.1)
  if ps.any fun p => p.2 = .absent then .absent
  else
    match ps.findSome? fun p => match p.2 with | .shared l => some (p.1.1, l) | _ => none with
    | some q => .shared q.1 q.2
    | none =>
      if ps.any fun p => match p.2 with | .key key => !x.staged && porchFull s (dieOfCore x.core) key | _ => true then .later
      else .go (ps.map fun p => (p.1, match p.2 with | .key key => key | _ => 0))

/-- Hold a transfer for copy-on-write of the page that its next unit writes (R285, R397). -/
def holdXfer (s : State) (id : Nat) (x : Xfer) (va : Nat) (l : Leaf) : State :=
  (startCow s x.thread va l none (some id)).modXfer id fun y => { y with hold := some s.ids }

/-- Write a part of a unit to memory as one update (R285), staged in a deterministic launch (R296). -/
def writePart (s : State) (id : Nat) (x : Xfer) (space unit va key : Nat) (data : List Byte) : State :=
  let k := x.thread
  let uid := s.ids
  let u : Upd :=
    { th := some k, core := x.core, lane := laneOf k, die := dieOfCore x.core, kind := .store data false, space := space, va := va
      key := key, bytes := data.length, v := x.v, scope := x.scope, pc := x.pc, issued := s.now, xfer := some id, unit := unit
      phase := .staged }
  let s1 := { s with ids := uid + 1, upds := nset s.upds uid u }
  if x.staged then
    ((s1.modGrp x.group fun g => { g with stage := g.stage ++ [{ row := rowOf k, lane := laneOf k, prog := x.prog, upd := uid }] }).modXfer id
      fun y => { y with moved := sput y.moved unit, last := ((s.lch (s.grp x.group).launch).startTick).getD 0 })
  else sendUpd (s1.modXfer id fun y => { y with upds := y.upds ++ [uid] }) uid

/-- Charge the damper for a unit's read that starts a line of memory; the next unit waits for a booking that moves (R354). None where no interval has bytes
under the grants set so far. -/
def chargeUnit (s : State) (id : Nat) (x : Xfer) (src : Option (Nat × Nat)) : Option State :=
  let next (y : State) (moved : Nat) : State := y.modXfer id fun z => { z with at_ := s.now + 1 + moved }
  match (src.bind fun a => xferKey s x.group a.1 a.2).map fun key => match homeOf key with | .die d => d | _ => dieOfCore x.core with
  | some d =>
    if src.any fun a => x.next = 0 || a.2 % 64 < 16 then (charge s (x.core / 4) d s.now).map fun b => next b.1 b.2
    else some (next s 0)
  | none => some (next s 0)

/-- A unit that the damper has no bytes for asks again when the next interval begins (R354). -/
def waitGrant (s : State) (id : Nat) : State := s.modXfer id fun y => { y with at_ := nextBoundary s.now }

/-- Where a transfer writes a unit: its space and its address. -/
def Xfer.unitTarget (x : Xfer) (u : Nat) : Nat × Nat :=
  match x.kind with
  | .copy 0 | .copy 4 => (1, x.tileOff + 16 * u)
  | .copy 2 => (1, x.tileOff2 + 16 * u)
  | .copy 3 => (x.space2, (x.va2 + 16 * u) % 2 ^ 52)
  | _ => (x.space, x.unitVa u)

/-- The digest records of a unit: two where it spans two 16-byte units of memory (R407). -/
def Xfer.recsOf (x : Xfer) (u : Nat) : Nat := if (x.unitTarget u).2 % 16 = 0 then 1 else 2

/-- The digest records of the first units of a transfer. -/
def Xfer.recsTo (x : Xfer) (u : Nat) : Nat := ((List.range u).map x.recsOf).sum

/-- The digest records of a unit written, under the numbers that its thread has kept for them: kind 3 for a copy, kind 1 for SLOTRD, which writes as a store
does (R407, R312). -/
def unitRecord (s : State) (x : Xfer) (kind u space va : Nat) (data : List Byte) : State :=
  s.modGrp x.group fun g =>
    { g with
      digests := g.digests ++ (unitRecs kind space va data 0).mapIdx fun i r => { r with tid := tidOf x.thread, n := x.rcd + x.recsTo u + i } }

/-- The units that a transfer of a replay takes from the log, if they are there (R406). -/
def loggedUnits (s : State) (x : Xfer) : Option (NMap Piece) := x.log.bind (nfind (s.grp x.group).unitLog)

/-- The unit log's key for a transfer of an original: its number; of a stream its pass and step. -/
def Xfer.logKey (x : Xfer) (id : Nat) : Nat := match x.kind with | .stream pid step => 2 ^ 48 + pid * 2 ^ 16 + step | _ => id

/-- What a unit that has been read costs beside its write: its place in the replay log of a copy, its record. -/
def unitCosts (s : State) (id : Nat) (x : Xfer) (kind space va : Nat) (data : List Byte) : State :=
  let s1 := if kind = 3 then logUnits (logBytes s x.group 20) x.group id [(2 * x.next, { data := data, absent := false, poisoned := false })] else s
  unitRecord s1 x kind x.next space va data

/-- Write a unit to memory. A unit that a page border cuts is two updates, the first under a number of its own (R286). -/
def putUnit (s : State) (id : Nat) (x : Xfer) (space : Nat) (ps : List ((Nat × Nat) × Nat)) (data : List Byte) : State :=
  let s1 :=
    match ps with
    | [p] => writePart s id x space x.next p.1.1 p.2 data
    | [p, q] =>
      let s0 := s.modXfer id fun y => { y with cut := y.cut ++ [x.next] }
      writePart (writePart s0 id x space (x.units + x.next) p.1.1 p.2 (data.take p.1.2)) id x space x.next q.1.1 q.2 (data.drop p.1.2)
    | _ => s
  nextUnit s1 id

/-- A unit whose read waits. -/
def waitUnit (s : State) (id : Nat) (src : Got) : State :=
  match src with
  | .wait es => s.modXfer id fun x => { x with met := true, after := es, at_ := s.now + 16 }
  | .later tick => s.modXfer id fun x => { x with at_ := tick }
  | _ => s

/-- Move a unit to memory, in the order of R285: the pages of its source and its destination, copy-on-write, and only then its bytes; `poison` is what
poisoned ones do. In a replay a unit gives its digest record and nothing else (R406). -/
def moveUnit (s : State) (id : Nat) (x : Xfer) (kind space va : Nat) (memSrc : Option (Nat × Nat)) (src : Got) (poison : Nat → State) : State :=
  let d := destOf s x space va
  if (s.grp x.group).replays.isSome then
    match src with
    | .bytes data => (nextUnit (unitRecord s x kind x.next space va data) id).modXfer id fun y => { y with moved := sput y.moved x.next }
    | .poisoned key => poison key
    | _ => stopXfer s id 1 0
  else if d = .absent || src = .absent then absentXfer s id (s.thr x.thread).owner x ((space, va) :: memSrc.toList)
  else
    match d, src with
    | .shared a l, _ => holdXfer s id x a l
    | .later, _ => laterXfer s id
    | .go ps, .bytes data =>
      (match chargeUnit s id x memSrc with
       | some s1 => putUnit (unitCosts s1 id x kind space va data) id x space ps data
       | none => waitGrant s id)
    | .go _, .poisoned key => poison key
    | .go _, _ => waitUnit s id src
    | .absent, _ => s

/-! ### Copies (R283 to R287) -/

/-- A copy fault (Table 16.3). -/
def copyFlt (sub : Nat) : Flt := { cause := causeCopy, sub := sub }

/-- A producer word of another row (R282). -/
def notProducer (s : State) (k : Nat) : Bool := rowOf k != (s.kernOf k).producer

/-- The check of a capability whose bounds are left to the rows (R284). -/
def rowCapCheck (s : State) (k : Nat) (c : CapReg) (perm : BitVec 6) (spaces : List Nat) : Nat :=
  match capCheck s k c perm c.base 0 spaces with
  | 4 => if c.space == 2 && c.ownerField != (s.thr k).owner then 5 else if !spaces.contains c.space then 6 else 0
  | n => n

/-- Register j of a copy's operand block. -/
def blockReg (t : Thread) (f : Fields) (j : Nat) : Nat := (t.x (f.b.toNat + j)).toNat

/-- q(A+1), the destination capability of COPY.GG (R283). -/
def capA1 (s : State) (k : Nat) (f : Fields) : CapReg := (s.thr k).cap (4 * (f.a.toNat + 1))

/-- Check 2 of R284. -/
def copyCapFault (o : Nat) (f : Fields) (k : Nat) (s : State) : Option Flt :=
  let t := s.thr k
  let b := blockReg t f
  let c := capA s k f
  let rd := [0, 3, 4]
  let wr := [0, 4]
  let chk (c : CapReg) (perm : BitVec 6) (off n : Nat) (spaces : List Nat) := accessFault s k c perm (accessAddr c off) n 1 spaces
  let rows (perm : BitVec 6) (spaces : List Nat) : Option Flt :=
    match rowCapCheck s k c perm spaces with
    | 0 => none
    | n => some { cause := causeCapability, sub := n, addr := c.cursor }
  match o with
  | 0 => chk c permLD (b 0) (b 3) rd
  | 1 => chk c permST (b 0) (b 3) wr
  | 2 => none
  | 3 => (chk c permLD (b 0) (b 2) rd).or (chk (capA1 s k f) permST (b 1) (b 2) wr)
  | 4 => rows permLD rd
  | _ => rows permST wr

/-- A length of a copy within its limits. -/
def lenOk (n : Nat) : Bool := 16 ≤ n && n ≤ 16777200

/-- The tile ranges that a copy names: number, offset, length (Table 16.2); GATH's and SCAT's data tile before the index tile. -/
def copyRanges (o : Nat) (b : Nat → Nat) : List (Nat × Nat × Nat) :=
  match o with
  | 0 | 1 => [(b 1 % 256, b 2, b 3)]
  | 2 => [(b 0 % 256, b 1, b 3), (b 0 / 256 % 256, b 2, b 3)]
  | 3 => []
  | _ => [(b 0 % 256, 0, b 3 * b 1), (b 0 / 256 % 256, 0, 0)]

/-- Check 3 of R284: the fields lie within their limits. -/
def copyLimits (o : Nat) (b : Nat → Nat) (s : State) (g : Nat) : Bool :=
  let m (l : List Nat) : Bool := l.all (· % 16 == 0)
  match o with
  | 0 | 1 => m [b 0, b 2, b 3] && lenOk (b 3) && b 1 < 256
  | 2 => m [b 1, b 2, b 3] && lenOk (b 3) && b 0 < 65536 && b 0 % 256 != b 0 / 256
  | 3 => m [b 0, b 1, b 2] && lenOk (b 2) && b 3 == 0
  | _ =>
    m [b 1, b 2] && 16 ≤ b 1 && b 1 ≤ 4096 && 1 ≤ b 3 && b 3 ≤ 16384 && b 0 < 65536 &&
      (match tileOf s g (b 0 / 256) with | some t => 4 * b 3 ≤ t.len | none => true)

/-- The checks of R284, in their order: the first failure. -/
def copyFault (o : Nat) (f : Fields) (k : Nat) (s : State) : Option Flt :=
  let b := blockReg (s.thr k) f
  let g := gidOf k
  if notProducer s k then some (copyFlt 1)
  else
    match copyCapFault o f k s with
    | some x => some x
    | none =>
      let rs := copyRanges o b
      if !copyLimits o b s g then some (copyFlt 4)
      else if rs.any fun r => (tileOf s g r.1).isNone then some (copyFlt 2)
      else if rs.any fun r => (tileOf s g r.1).any fun t => t.len < r.2.1 + r.2.2 then some (copyFlt 3)
      else none

/-- A copy conflicts with one that was admitted in this beat: a tile it writes is in use by a reader, or one it reads by a writer
(R289). Before the beat every tile it names was ready (`ownReady`). -/
def copyConflict (s : State) (g : Nat) (w r : List Nat) : Bool :=
  (w.any fun n => (tileOf s g n).any fun t => !t.drain.isEmpty) || (r.any fun n => (tileOf s g n).any fun t => !t.fill.isEmpty)

/-- The cluster offset of a tile. -/
def tileBase (s : State) (g n : Nat) : Nat := match tileOf s g n with | some t => t.off | none => 0

/-- The transfer of a copy that has passed its checks. -/
def copyXfer (o : Nat) (f : Fields) (k : Nat) (s : State) (ret : Nat) : Xfer :=
  let t := s.thr k
  let b := blockReg t f
  let c := capA s k f
  let c1 := capA1 s k f
  let g := gidOf k
  let x : Xfer :=
    { kind := .copy o, group := g, threads := [k], core := s.coreOf k, pc := t.pc, rets := [ret], v := f.v, scope := f.scope
      space := c.space, va := accessAddr c (b 0), base := c.base, top := c.base + c.length, units := b 3 / 16, at_ := s.now + 2, started := true
      prog := t.prog, rcd := t.digestN, before := s.ids, hint := f.m.toNat, staged := s.det k && (o == 1 || o == 3 || o == 5) }
  match o with
  | 0 | 1 => { x with tile := b 1, tileOff := tileBase s g (b 1) + b 2 }
  | 2 =>
    { x with
      tile := b 0 % 256, tileOff := tileBase s g (b 0 % 256) + b 1, tile2 := b 0 / 256, tileOff2 := tileBase s g (b 0 / 256) + b 2 }
  | 3 => { x with space2 := c1.space, va2 := accessAddr c1 (b 1), units := b 2 / 16 }
  | _ =>
    let i := tileBase s g (b 0 / 256)
    { x with
      va := c.cursor, tile := b 0 % 256, tileOff := tileBase s g (b 0 % 256), tile2 := b 0 / 256, tileOff2 := i, row := b 1
      stride := b 2, units := b 3 * b 1 / 16
      idx := (List.range (b 3)).map fun j => rdNat s (sramKey (s.grp g).cluster (i + 4 * j)) 4 }

/-- The digest records of units of a replay's copy, with the bytes of the log (R406). -/
def replayUnits (s : State) (x : Xfer) (ps : NMap Piece) : State :=
  ps.foldl (fun y p => unitRecord y x 3 (p.1 / 2) (x.unitTarget (p.1 / 2)).1 (x.unitTarget (p.1 / 2)).2 p.2.data) s

/-- The units and the index words of the entry that a thread of a replay takes next. -/
def nextEntry (s : State) (k : Nat) : LogEntry := (if replaying s k then replayLog s k else []).headD { pc := 0 }

/-- A copy in a replay: its records, with its own addresses and the log's bytes; those of a held group whose units are not all logged are still owed
(R406, R416). -/
def replayCopy (o : Nat) (f : Fields) (k : Nat) (s : State) : State :=
  let e := nextEntry s k
  let x := { copyXfer o f k s 0 with idx := e.idx, log := e.units }
  let s1 := replayUnits s x ((loggedUnits s x).getD [])
  let s2 := s1.modThr k fun t => { t with digestN := t.digestN + x.recsTo x.units }
  match e.units with
  | some u => if replayHeld s k then s2.modGrp (gidOf k) fun g => { g with owed := nset g.owed u x } else s2
  | none => s2

/-- Start a copy: its time register bound, its status pending, its counter stepped, its tiles' sets joined (R285, R288). -/
def startCopy (o : Nat) (f : Fields) (k : Nat) (s : State) : State :=
  let (w, r) := copyTiles (s.thr k) f o
  let ret := s.ids
  let x := copyXfer o f k s ret
  let s1 := startRet s k
    { th := k, kind := .xfer, dst := f.d.toNat, n := if f.d = 0 then 0 else 1, treg := some f.time, counter := .copies
      core := s.coreOf k, issued := s.now, pc := (s.thr k).pc }
  let id := s1.ids
  let s2 := { s1 with ids := id + 1, xfers := nset s1.xfers id x }
  let s3 := s2.modThr k fun t => { t with digestN := t.digestN + x.recsTo x.units, prog := if x.staged then t.prog + 1 else t.prog }
  s3.modGrp x.group fun g =>
    { g with
      tiles := g.tiles.map fun t =>
        { t with
          fill := if w.contains t.num then t.fill ++ [id] else t.fill
          drain := if r.contains t.num && !w.contains t.num then t.drain ++ [id] else t.drain } }

/-- A copy word. -/
def copyWord (o : Nat) (f : Fields) (k : Nat) (s : State) : Act :=
  let (w, r) := copyTiles (s.thr k) f o
  if copyConflict s (gidOf k) w r then .stay s
  else
    match copyFault o f k s with
    | some x => .fault x
    | none => .go (if replaying s k then replayCopy o f k s else startCopy o f k s)

/-- COPY.GT (R285). -/
def execCopyGt (f : Fields) (s : State) : Host.Outcome State Fault Refusal := issue 0xC0 f (copyWord 0 f) s

/-- COPY.TG (R285). -/
def execCopyTg (f : Fields) (s : State) : Host.Outcome State Fault Refusal := issue 0xC1 f (copyWord 1 f) s

/-- COPY.TT (R285). -/
def execCopyTt (f : Fields) (s : State) : Host.Outcome State Fault Refusal := issue 0xC2 f (copyWord 2 f) s

/-- COPY.GG (R285). -/
def execCopyGg (f : Fields) (s : State) : Host.Outcome State Fault Refusal := issue 0xC3 f (copyWord 3 f) s

/-- COPY.GATH (R285). -/
def execCopyGath (f : Fields) (s : State) : Host.Outcome State Fault Refusal := issue 0xC4 f (copyWord 4 f) s

/-- COPY.SCAT (R285). -/
def execCopyScat (f : Fields) (s : State) : Host.Outcome State Fault Refusal := issue 0xC5 f (copyWord 5 f) s

/-! ### The units of a copy -/

/-- The row of a unit lies outside the capability's bounds, or in die space outside the launch's allocations (R285). -/
def rowOutside (s : State) (x : Xfer) (u : Nat) : Bool :=
  match x.kind with
  | .copy 4 | .copy 5 =>
    let a := x.rowVa u
    !(x.base ≤ a && a + x.row ≤ x.top) || (x.space == 4 && !dieSpaceOk s x.thread a x.row)
  | _ => false

/-- The cluster key of a unit at an offset of a tile side. -/
def Xfer.sramAt (s : State) (x : Xfer) (off u : Nat) : Nat := sramKey (sramPlace s x.group) (off + 16 * u)

/-- Read a unit of a copy (R285): from its tile, as its bytes stand there, or from memory. The words of the index tile are read with it. -/
def copyRead (s : State) (x : Xfer) (u : Nat) : Got :=
  let idx := sramKey (sramPlace s x.group) (x.tileOff2 + 4 * (16 * u / x.row))
  let got : Got :=
    match x.kind with
    | .copy 1 | .copy 2 | .copy 5 =>
      let key := x.sramAt s x.tileOff u
      if poisonedAt s key 16 then .poisoned key else .bytes (rdBytes s key 16)
    | _ => readUnit s x.group (dieOfCore x.core) x.space (x.unitVa u) 16 { k := x.thread, before := x.before, met := x.met }
  match x.kind with
  | .copy 4 | .copy 5 => if poisonedAt s idx 4 && got ≠ .absent then .poisoned idx else got
  | _ => got

/-- Write a unit of a copy into a tile: it fires what waits on those bytes (R255, R261). -/
def tileWrite (s : State) (id : Nat) (x : Xfer) (off u : Nat) (data : List Byte) : State :=
  let key := x.sramAt s off u
  nextUnit ((wakeWriters (wrBytes s key data) key 16).modXfer id fun y => { y with moved := sput y.moved u, last := s.now }) id

/-- Move a unit into a tile. -/
def moveTile (s : State) (id : Nat) (x : Xfer) (off u : Nat) (memSrc : Option (Nat × Nat)) (src : Got) : State :=
  match src with
  | .absent => absentXfer s id (s.thr x.thread).owner x memSrc.toList
  | .poisoned key => poisonStop s id x key
  | .bytes data =>
    match chargeUnit s id x memSrc with
    | some s1 => tileWrite (unitCosts s1 id x 3 1 (off + 16 * u) data) id x off u data
    | none => waitGrant s id
  | _ => waitUnit s id src

/-- A transfer's next unit may be started: none is held for copy-on-write, nor waits for entries of the porch (R285, R237). -/
def unitDue (s : State) (id : Nat) : Bool :=
  match nfind s.xfers id with
  | none => false
  | some x =>
    x.started && x.stop.isNone && x.next < x.units && x.at_ ≤ s.now && (match x.kind with | .copy _ | .slotOut _ => true | _ => false) &&
      x.hold.isNone

/-- COPY_UNIT: the copy's next unit is read and written, or the copy stops (R285). -/
def copyUnit (id u : Nat) (s : State) : State :=
  match nfind s.xfers id with
  | none => s
  | some x =>
    if !unitDue s id || x.next ≠ u then s
    else if rowOutside s x u then stopXfer s id 3 2
    else if x.met && entriesOpen s x.after then laterXfer s id
    else
      let src := copyRead s x u
      let mem := some (x.space, x.unitVa u)
      match x.kind with
      | .copy 0 | .copy 4 => moveTile s id x x.tileOff u mem src
      | .copy 2 => moveTile s id x x.tileOff2 u none src
      | .copy 1 | .copy 5 => moveUnit s id x 3 x.space (x.unitVa u) none src (poisonStop s id x)
      | _ => moveUnit s id x 3 x.space2 ((x.va2 + 16 * u) % 2 ^ 52) mem src (poisonStop s id x)

/-- COPY_UNIT (R285). -/
def execCopyUnit (id u : Nat) (s : State) : Host.Outcome State Fault Refusal :=
  when s (match nfind s.xfers id with | some x => (match x.kind with | .copy _ => true | _ => false) | none => false) (copyUnit id u s)

/-- Every update of a transfer is settled: staged, retired, or acknowledged by a port (R285, R251). -/
def updsSettled (s : State) (x : Xfer) : Bool :=
  x.upds.all fun u => match nfind s.upds u with | some v => v.xfer.isNone || v.phase = .staged | none => true

/-- A copy, SLOTLD or SLOTRD has ended. -/
def xferDone (s : State) (x : Xfer) : Bool := (x.stop.isSome || x.next ≥ x.units) && updsSettled s x

/-- The bytes of the longest prefix of units that have been written (R286). -/
def doneBytes (x : Xfer) : Nat :=
  16 * ((List.range x.units).takeWhile x.unitDone).length

/-- The status word of a copy, a SLOTLD or a SLOTRD (Tables 16.4 and 18.4). -/
def Xfer.status (x : Xfer) : Word :=
  let (out, det) := x.stop.getD (0, 0)
  BitVec.ofNat 32 (out * 2 ^ 30 + det * 2 ^ 24 + doneBytes x)

/-- End a transfer: its status lands in each of its returns with the tick of its last application, which the spec does not give when
there was none (log 26); NRES is set if it met a non-resident page (R285, R317). -/
def landXfer (s : State) (id : Nat) (x : Xfer) (w : Word) (poison : Bool) : State :=
  let (s0, last) := if x.moved.isEmpty then (s.drawn, Config.freeEstimate s.free) else (s, x.last)
  let out := (x.stop.getD (0, 0)).1
  x.rets.foldl (fun y r =>
    match nfind y.rets r with
    | none => y
    | some v =>
      let z := landRet y r v (if poison then none else some [w]) false fun t =>
        { t with p := true, e := false, a := t.a || x.absent, tick := if x.staged then last else s.onDie (dieOfCore x.core) last }
      if out = 1 || x.absent then z.modThr v.th fun t => t.setStatus statusNRES else z)
    { s0 with xfers := ndel s0.xfers id }

/-- COPY_COMPLETE: the status, the tick, the counter, the tiles (R285, R288). -/
def copyComplete (id : Nat) (s : State) : State :=
  match nfind s.xfers id with
  | none => s
  | some x =>
    match x.kind with
    | .copy _ =>
      if !xferDone s x then s
      else
        (landXfer s id x x.status false).modGrp x.group fun g =>
          { g with tiles := g.tiles.map fun t => { t with fill := t.fill.filter (· ≠ id), drain := t.drain.filter (· ≠ id) } }
    | _ => s

/-- COPY_COMPLETE (R285). -/
def execCopyComplete (id : Nat) (s : State) : Host.Outcome State Fault Refusal := .next (copyComplete id s)

/-! ### Tiles (R288 to R293) -/

/-- A tile number in a register, whose other bits must be zero (R281). -/
def tileNumber (t : Thread) (f : Fields) : Option Nat :=
  let n := (t.x f.a.toNat).toNat
  if n < 256 then some n else none

/-- The entries in use of a cluster's tile table (R288). -/
def tileCount (s : State) (cluster : Nat) : Nat :=
  s.groups.foldl (fun n p => if p.2.cluster = cluster && p.2.residency = .resident then n + p.2.tiles.length else n) 0

/-- The status of a declaration (R290). -/
def declStatus (s : State) (g n off len : Nat) : Nat :=
  if (tileOf s g n).isSome then 2
  else if (s.grp g).tiles.any fun t => meets off len t.off t.len then 3
  else if tileCount s (s.grp g).cluster ≥ 256 then 1
  else 0

/-- TDECL (R290). -/
def tdecl (f : Fields) (k : Nat) (s : State) : Act :=
  let t := s.thr k
  let c := t.cap f.b.toNat
  let len := (t.x f.c.toNat).toNat
  let off := c.cursor
  let g := gidOf k
  if notProducer s k then .fault (copyFlt 1)
  else
    match accessFault s k c (permLD ||| permST) off len 1 [1] with
    | some x => .fault x
    | none =>
      match tileNumber t f with
      | none => .fault (copyFlt 4)
      | some n =>
        if off % 64 != 0 || len % 64 != 0 || len < 64 || len > 4194304 then .fault (copyFlt 4)
        else
          let st := declStatus s g n off len
          let s1 := if st = 0 then s.modGrp g fun gr => { gr with tiles := gr.tiles ++ [{ num := n, off := off, len := len }] } else s
          .go (s1.modThr k fun t => t.wr f.d.toNat (BitVec.ofNat 32 st))

/-- TDECL (R290). -/
def execTdecl (f : Fields) (s : State) : Host.Outcome State Fault Refusal := issue 0xC6 f (tdecl f) s

/-- TFREE: a ready tile becomes empty; it waits for one that is not (R291, R289). -/
def execTfree (f : Fields) (s : State) : Host.Outcome State Fault Refusal :=
  issue 0xC7 f (fun k s =>
    let g := gidOf k
    if notProducer s k then .fault (copyFlt 1)
    else
      match tileNumber (s.thr k) f with
      | none => .fault (copyFlt 4)
      | some n =>
        match tileOf s g n with
        | none => .fault (copyFlt 2)
        | some _ => .go (s.modGrp g fun gr => { gr with tiles := gr.tiles.filter fun t => t.num ≠ n })) s

/-- The code of a tile's state (R291). -/
def Tile.code (t : Tile) : Nat := if !t.fill.isEmpty then 1 else if t.drain.isEmpty then 2 else 3

/-- TSTATE's word (R291). -/
def tileWord (t : Option Tile) : Word :=
  match t with
  | none => 0
  | some t => BitVec.ofNat 32 (t.code + min (t.fill.length + t.drain.length) 255 * 256)

/-- TSTATE (R291). -/
def execTstate (f : Fields) (s : State) : Host.Outcome State Fault Refusal :=
  issue 0xC8 f (fun k s =>
    match tileNumber (s.thr k) f with
    | none => .fault (copyFlt 4)
    | some n => .go (s.modThr k fun t => t.wr f.d.toNat (tileWord (tileOf s (gidOf k) n)))) s

/-- TDRAIN: its wait has ended (R291; `ownReady` holds it). -/
def execTdrain (f : Fields) (s : State) : Host.Outcome State Fault Refusal :=
  issue 0xC9 f (fun k s => match tileNumber (s.thr k) f with | none => .fault (copyFlt 4) | some _ => .go s) s

/-- TREADY: bit b of x[D] (R291). -/
def execTready (f : Fields) (s : State) : Host.Outcome State Fault Refusal :=
  issue 0xCA f (fun k s =>
    match tileNumber (s.thr k) f with
    | none => .fault (copyFlt 4)
    | some n =>
      let r : Bool := match tileOf s (gidOf k) n with | some t => t.ready | none => false
      .go (s.modThr k fun t => t.wrBit f.d.toNat f.bit r)) s

/-- Cancel the transfers of some numbers (R293). -/
def cancelXfers (s : State) (pick : Nat → Xfer → Bool) : State :=
  { s with xfers := s.xfers.map fun p => if pick p.1 p.2 then (p.1, p.2.cancel) else p }

/-- CPCANCEL.tile: the group's copies that name the tile (R293). -/
def execCpcancelTile (f : Fields) (s : State) : Host.Outcome State Fault Refusal :=
  issue 0xCB f (fun k s =>
    if notProducer s k then .fault (copyFlt 1)
    else
      match tileNumber (s.thr k) f with
      | none => .fault (copyFlt 4)
      | some n =>
        match tileOf s (gidOf k) n with
        | none => .fault (copyFlt 2)
        | some t => .go (cancelXfers s fun id _ => (t.fill ++ t.drain).contains id)) s

/-- CPCANCEL.all: the copies that the thread has issued (R293). -/
def execCpcancelAll (f : Fields) (s : State) : Host.Outcome State Fault Refusal :=
  issue 0xCB f (fun k s =>
    if notProducer s k then .fault (copyFlt 1)
    else .go (cancelXfers s fun _ x => (match x.kind with | .copy _ => true | _ => false) && x.threads.contains k)) s

/-! ### Transfers that read as loads do (R171, R311, R312, R316) -/

/-- Some bytes at an address, cut where a line may end. -/
def lineParts (va n : Nat) : List (Nat × Nat) :=
  let room := 64 - va % 64
  if n ≤ room then [(va % 2 ^ 52, n)] else [(va % 2 ^ 52, room), ((va + room) % 2 ^ 52, n - room)]

/-- The bytes of a unit: a segment of a curve is 20 bytes long (R171). -/
def Xfer.unitBytes (x : Xfer) : Nat := match x.kind with | .curve _ _ _ => 20 | _ => 16

/-- The pieces of a transfer: number, address, bytes. -/
def Xfer.pieceList (x : Xfer) : List (Nat × Nat × Nat) :=
  (List.range x.units).flatMap fun u => (lineParts (x.va + x.unitBytes * u) x.unitBytes).mapIdx fun h p => (2 * u + h, p)

/-- Start the reads of a transfer, each as a load of its thread (R201). The spec does not say in how many loads: the model makes one for each unit, two
where a line ends in it (log 97). In a replay the log has them (R406). -/
def startPieces (s : State) (id : Nat) : State :=
  match nfind s.xfers id with
  | none => s
  | some x =>
    if x.booked then s
    else if (s.grp x.group).replays.isSome then
      match loggedUnits s x with
      | some ps => s.modXfer id fun y => { y with booked := true, next := y.units, pieces := ps }
      | none => s
    else x.pieceList.foldl (fun y p =>
      startRead y x.thread { th := x.thread, kind := .part id p.1, space := x.space, va := p.2.1, bytes := p.2.2, hint := x.hint })
      (s.modXfer id fun y => { y with booked := true, next := y.units })

/-- The reads of such a transfer have been made. -/
def piecesDone (s : State) (id : Nat) : Bool := s.rets.all fun p => p.2.partOf ≠ some id

/-- What a unit's pieces have brought. -/
def Xfer.gotUnit (x : Xfer) (u : Nat) : Piece :=
  let a := nget x.pieces (2 * u) { data := [], absent := true, poisoned := false }
  match nfind x.pieces (2 * u + 1) with
  | some b => { data := a.data ++ b.data, absent := a.absent || b.absent, poisoned := a.poisoned || b.poisoned }
  | none => a

/-- The pieces of every unit, in order. -/
def Xfer.gotAll (x : Xfer) : List Piece := (List.range x.units).map x.gotUnit

/-- CRVLD's status from what its reads met (R171); the same of CBLD (R311). -/
def wholeStatus (gs : List Piece) : Nat := if gs.any (·.poisoned) then 3 else if gs.any (·.absent) then 2 else 0

/-- An address of a transfer: in private space it stands for what the tables translate, so that its reads outlive its thread (log 10). -/
def xferVa (s : State) (k space va : Nat) : Nat × Nat := if space = 2 then (0, s.tva k 2 va) else (space, va)

/-- A bad CRVLD descriptor (R171). -/
def curveBad (d : Nat) : Bool :=
  let f := d / 256 % 64
  let n := d / 65536 % 128
  d % 256 ≥ 8 || d / 16384 % 4 != 0 || d / 2 ^ 23 != 0 || n == 0 || n > 64 || f + n > 64

/-- A return for each thread of a beat, all alike; the number of the first (R171, R306). -/
def startAlike (s : State) (ks : List Nat) (r : Ret) : State × List Nat :=
  ks.foldl (fun (p : State × List Nat) k =>
    (startRet p.1 k { r with th := k, core := p.1.coreOf k, issued := p.1.now, pc := (p.1.thr k).pc }, p.2 ++ [p.1.ids])) (s, [])

/-- A thread's descriptor of CRVLD, and the segments that one names (R171). -/
def curveDesc (s : State) (f : Fields) (j : Nat) : Nat := ((s.thr j).x f.d.toNat).toNat
def curveCount (d : Nat) : Nat := d / 65536 % 128

/-- The check of a thread's capability for some segments (R171, R126). -/
def curveAccess (s : State) (f : Fields) (n j : Nat) : Option Flt := accessFault s j (capA s j f) permLD (addrOf s j f) (20 * n) 1

/-- The threads of a beat that fault before one leads the load, and those that are left, of which the lowest leads: its descriptor is bad, or its own capability
passes for its own count (R171). -/
def curveLead (s : State) (f : Fields) : Nat → List Nat → List (Nat × Flt) × List Nat
  | 0, ks => ([], ks)
  | fuel + 1, ks =>
    let d := curveDesc s f (leaderOf ks)
    match (if ks.isEmpty || curveBad d then none else curveAccess s f (curveCount d) (leaderOf ks)) with
    | some x =>
      let r := curveLead s f fuel (ks.filter (· ≠ leaderOf ks))
      ((leaderOf ks, x) :: r.1, r.2)
    | none => ([], ks)

/-- Threads take their faults. -/
def takeFlts (s : State) (xs : List (Nat × Flt)) : State :=
  xs.foldl (fun y p => if (nfind y.threads p.1).isSome then takeFlt y p.1 p.2 else y) s

/-- CRVLD (R171): a bad descriptor lands 1 at issue + 2. Each thread's capability is checked (R126); those that fail take the fault, and the load is that
of the lowest thread left. -/
def crvld (f : Fields) (ks : List Nat) (_ : Nat) (s : State) : Act :=
  let lead := curveLead s f ks.length ks
  let k := leaderOf lead.2
  let r : Ret := { th := k, kind := .xfer, dst := f.d.toNat, n := if f.d = 0 then 0 else 1, treg := some f.time, counter := .loads }
  let desc (j : Nat) : Nat := curveDesc s f j
  let finish (x : State) (on : List Nat) : Act := if on.length = ks.length then .go x else .set (advanceAll x on)
  if replaying s k && !lead.1.isEmpty then .fault { cause := causeCapability }
  else if lead.2.isEmpty then .set (takeFlts s lead.1)
  else if curveBad (desc k) then
    let (s1, ids) := startAlike (takeFlts s lead.1) lead.2 { r with kind := .word, data := bytesOfNat 1 4, phase := .read (s.now + 2) }
    finish (ids.foldl (fun y id => match nfind y.rets id with
      | some v => report y v.th v.treg id fun t => { t with p := true, tick := s.onDie (s.dieOf k) (s.now + 2) }
      | none => y) s1) lead.2
  else
    let bad (j : Nat) : Option Flt := curveAccess s f (curveCount (desc k)) j
    let good := lead.2.filter fun j => (bad j).isNone
    let s0 := takeFlts s (lead.1 ++ lead.2.filterMap fun j => (bad j).map fun x => (j, x))
    if replaying s k && good.length ≠ ks.length then .fault { cause := causeCapability }
    else
      let (s1, ids) := startAlike s0 good r
      let id := s1.ids
      let d := desc k
      let seg := d / 256 % 64
      let n := d / 65536 % 128
      let (space, va) := xferVa s k (capA s k f).space (addrOf s k f)
      let x : Xfer :=
        { kind := .curve (d % 8) seg n, group := gidOf k, threads := [k], core := s.coreOf k, pc := (s.thr k).pc, rets := ids, space := space
          va := va, units := n, at_ := s.now, before := s.ids, started := true, hint := f.m.toNat, log := (nextEntry s k).units }
      let s2 := { s1 with ids := id + 1, xfers := nset s1.xfers id x }.modGrp (gidOf k) fun g =>
        { g with tables := nset g.tables (d % 8) { loading := true, f := seg, n := n } }
      finish (startPieces s2 id) good

/-- CRVLD (R171). -/
def execCrvld (f : Fields) (s : State) : Host.Outcome State Fault Refusal := issueGroup 0x71 f (crvld f) s

/-- Land the status of a table's load, with A and NRES where a page was not there (R171, R311); the homes have written the records of poison. -/
def landWhole (s : State) (id : Nat) (x : Xfer) : State :=
  landXfer s id { x with moved := [0] } (BitVec.ofNat 32 (wholeStatus x.gotAll)) false

/-- The five values of a segment from its bytes, put in place. -/
def putSegment (segs : NMap Word) (j : Nat) (bs : List Byte) : NMap Word :=
  (List.range 5).foldl (fun m i => nset m (5 * j + i) (BitVec.ofNat 32 (natOfBytes ((bs.drop (4 * i)).take 4)))) segs

/-- An earlier CRVLD of the group is in flight: they take effect in the order of their issue (R171). -/
def curveBehind (s : State) (id g : Nat) : Bool :=
  s.xfers.any fun p => p.1 < id && p.2.group == g && (match p.2.kind with | .curve _ _ _ => true | _ => false)

/-- CURVE_LOAD_COMPLETE: the segments have arrived and the table becomes ready, or empty (R171). The segments of one load are written together, once every read of it
has come and the group's earlier loads of tables are done (DESIGN CHOICE, log 114). -/
def curveLoadComplete (id : Nat) (s : State) : State :=
  match nfind s.xfers id with
  | none => s
  | some x =>
    match x.kind with
    | .curve table seg n =>
      if !x.booked || !piecesDone s id || curveBehind s id x.group then s
      else
        let gs := x.gotAll
        let st := wholeStatus gs
        let again := s.xfers.any fun p => p.1 > id && p.2.group = x.group && (match p.2.kind with | .curve t _ _ => t = table | _ => false)
        let s1 := (logUnits (logBytes s x.group (20 * n + 4)) x.group id x.pieces).modGrp x.group fun g =>
          { g with
            segs := (gs.zipIdx seg).foldl (fun m p => if p.1.absent || p.1.poisoned then m else putSegment m p.2 p.1.data) g.segs
            tables := if again then g.tables
              else if st = 0 then nset g.tables table { loading := false, f := seg, n := n } else ndel g.tables table }
        landWhole s1 id x
    | _ => s

/-- CURVE_LOAD_COMPLETE (R171). -/
def execCurveLoadComplete (id : Nat) (s : State) : Host.Outcome State Fault Refusal := .next (curveLoadComplete id s)

end Sys2Proof.Machine
end

