-- ==== Sys2Proof/Machine/Sync.lean ====
section
/-! DEFINITION. Class 0xB: fences, barriers, flags, row synchronisation, sleeping and work counters (spec/12), and the events that end
their waits. -/

namespace Sys2Proof.Machine

/-- A class 0xB word has taken effect: its time register receives the tick (R249). -/
def tookEffect (s : State) (k treg : Nat) : State := s.modThr k fun t => t.setT treg { p := true, tick := s.nowOf k }

/-- The tick at which the wait of a FENCE ended, on die 0 (R249): that at which the last of its conditions was met while it stood at the word, not the later
slot that it wins; a FENCE that had nothing to wait for ends as it issues. -/
def fenceTick (s : State) (k m scope : Nat) : Nat :=
  let t := s.thr k
  let open_ := (updsOf s k).foldl (fun x u =>
    if u.phase = .staged then x else max x (max (u.c.getD 0 + dieStep u.die u.key) (u.knownAt.getD 0))) 0
  let st := max (max t.storeDone open_) (if scope < 6 then 0 else t.farDone)
  let met := max (if m = 2 then 0 else st) (if m = 1 then 0 else t.loadDone)
  if scope ≠ 0 ∧ t.stood < met ∧ met ≤ s.now then met else s.now

/-- FENCE: its wait has ended (R251; `ownReady` holds it). -/
def execFence (f : Fields) (s : State) : Host.Outcome State Fault Refusal :=
  issue 0xB0 f (fun k s =>
    .go (s.modThr k fun t => t.setT f.time { p := true, tick := s.onDie (s.dieOf k) (fenceTick s k f.m.toNat f.scope) })) s

/-- WAITC: its wait has ended (R253; `ownReady` holds it). -/
def execWaitc (f : Fields) (s : State) : Host.Outcome State Fault Refusal := issue 0xB1 f (fun _ s => .go s) s

/-! ### Barrier objects (R254, R255) -/

/-- A word on a barrier object: cluster space, ST, 16 bytes aligned to 16 (R254). -/
def onObject (f : Fields) (k : Nat) (s : State) (go : State → Nat → Act) : Act :=
  let a := addrOf s k f
  match accessFault s k (capA s k f) permST a 16 16 [1] with
  | some x => .fault x
  | none => go s (directKey s k 1 a)

/-- Send a word to its barrier object: it acts at the crossbar port, and its tick and its ticket land when it has (R254, R255). -/
def startBar (s : State) (k op : Nat) (f : Fields) (key : Nat) (v : Word) (dst : Nat) : State :=
  let rid := s.ids
  let s1 := startRet s k
    { th := k, kind := .word, dst := dst, n := if dst = 0 then 0 else 1, treg := some f.time, core := s.coreOf k, issued := s.now, pc := (s.thr k).pc }
  let u : Upd :=
    { th := some k, core := s.coreOf k, lane := laneOf k, die := s.dieOf k, kind := .bar op v, space := 1, va := addrOf s k f, key := key, bytes := 16
      scope := f.scope, pc := (s.thr k).pc, issued := s.now, ret := some rid, phase := .staged }
  let s2 := sendUpd { s1 with ids := s1.ids + 1, upds := nset s1.upds s1.ids u } s1.ids
  if f.scope = 0 then s2 else s2.modThr k fun t => { t with acquire := some rid }

/-- BAR.INIT (R255). -/
def execBarInit (f : Fields) (s : State) : Host.Outcome State Fault Refusal :=
  issue 0xB2 f (fun k s => onObject f k s fun s key => .go (startBar s k 2 f key ((s.thr k).x f.d.toNat) 0)) s

/-- BAR.ARR (R255). -/
def execBarArr (f : Fields) (s : State) : Host.Outcome State Fault Refusal :=
  issue 0xB3 f (fun k s => onObject f k s fun s key => .go (startBar s k 3 f key 0 f.d.toNat)) s

/-- BAR.WAIT parks, and tests its ticket from the tick at which it is at the crossbar port (R255, Table 11.2). -/
def execBarWait (f : Fields) (s : State) : Host.Outcome State Fault Refusal :=
  issue 0xB4 f (fun k s => onObject f k s fun s key =>
    .set (s.fresh.modThr k fun t =>
      { t.bind f.time s.ids with wait := .barrier key (some (t.x f.d.toNat)) (some f.time) (s.now + 2) })) s

/-- BAR.ARRW: arrives, then waits for the ticket of its arrival (R255). -/
def execBarArrw (f : Fields) (s : State) : Host.Outcome State Fault Refusal :=
  issue 0xB5 f (fun k s => onObject f k s fun s key =>
    .set ((startBar s k 5 f key 0 f.d.toNat).modThr k fun t => { t with wait := .barrier key none none 0 })) s

/-! ### Hardware barriers (R256 to R258) -/

/-- The place of a barrier of a level for a thread: its group, cluster, die, or the grid. -/
def placeOf (s : State) (k level : Nat) : Nat :=
  match level with
  | 0 => gidOf k
  | 1 => (s.grpOf k).cluster
  | 2 => s.dieOf k
  | _ => 0

/-- The groups that an instance covers when it opens, by linear index (R256, R257): those of the launch on the cluster or die, resident
or pre-empted there, but no killed one (R384); for the grid, all. -/
def coveredBy (s : State) (k level : Nat) : List Nat :=
  let l := (s.grpOf k).launch
  match level with
  | 0 => [(s.grpOf k).index]
  | 3 => List.range ((s.lch l).gx * (s.lch l).gy * (s.lch l).gz)
  | _ =>
    (s.groups.filter fun p =>
      p.2.launch == l && (match p.2.residency with | .killed _ _ => false | _ => true) &&
        (if level = 1 then p.2.cluster == (s.grpOf k).cluster else dieOfCluster p.2.cluster == s.dieOf k)).map (·.2.index)

/-- The open instance of a barrier. -/
def openBar (s : State) (level launch place : Nat) : Option (Nat × HwBar) :=
  s.hwbars.find? fun p => p.2.level == level && p.2.launch == launch && p.2.place == place && p.2.released.isNone

/-- The count of instances of a barrier so far: the group's own for BAR.GRP, else the launch's there (R256, R257). -/
def barNumber (s : State) (k level : Nat) : Nat :=
  if level = 0 then nget (s.grpOf k).barCount 0 0 else nget (s.lchOf k).bars (level * 1024 + placeOf s k level) 0

/-- Step that count. -/
def stepBar (s : State) (k level : Nat) : State :=
  let n := barNumber s k level + 1
  if level = 0 then s.modGrp (gidOf k) fun g => { g with barCount := nset g.barCount 0 n }
  else s.modLch (s.grpOf k).launch fun l => { l with bars := nset l.bars (level * 1024 + placeOf s k level) n }

/-- A thread arrives at a hardware barrier and waits (R256); one that an open instance does not cover waits for the next (R257). -/
def hwArrive (level : Nat) (f : Fields) (k : Nat) (s : State) : Act :=
  let l := (s.grpOf k).launch
  let wait (x : State) (id : Nat) (next : Bool) : State := x.modThr k fun t => { t with wait := .hw id next f.d.toNat }
  match openBar s level l (placeOf s k level) with
  | some (id, b) =>
    if b.members.contains (s.grpOf k).index then
      .set (wait { s with hwbars := nset s.hwbars id { b with arrived := sput b.arrived k } } id false)
    else .set (wait s id true)
  | none =>
    let b : HwBar :=
      { level := level, launch := l, place := placeOf s k level, number := barNumber s k level % 2 ^ 32
        members := coveredBy s k level, arrived := [k] }
    .set (wait { stepBar s.fresh k level with hwbars := nset s.hwbars s.ids b } s.ids false)

/-- BAR.GRP (R256). -/
def execBarGrp (f : Fields) (s : State) : Host.Outcome State Fault Refusal := issue 0xB6 f (hwArrive 0 f) s

/-- BAR.CLU (R256, R257). -/
def execBarClu (f : Fields) (s : State) : Host.Outcome State Fault Refusal := issue 0xB7 f (hwArrive 1 f) s

/-- BAR.DIE (R256, R257). -/
def execBarDie (f : Fields) (s : State) : Host.Outcome State Fault Refusal := issue 0xB8 f (hwArrive 2 f) s

/-- BAR.GRID (R256). -/
def execBarGrid (f : Fields) (s : State) : Host.Outcome State Fault Refusal := issue 0xB9 f (hwArrive 3 f) s

/-- A covered group no longer holds an instance: it has ended, or each of its threads has arrived or ended; one not dispatched, or
killed and to be dispatched again, holds it (R256, R384). -/
def barFree (s : State) (b : HwBar) (index : Nat) : Bool :=
  !(s.lch b.launch).todo.contains index && (b.level ≠ 3 || (s.lch b.launch).startTick.isSome) &&
    s.groups.all fun p =>
      p.2.launch ≠ b.launch || p.2.index ≠ index ||
        (match p.2.residency with
         | .killed _ _ => false
         | _ => (threadsOf s p.1).all fun k => b.arrived.contains k || (s.thr k).life == .exited)

/-- Whether an instance releases. -/
def barDue (s : State) (b : HwBar) : Bool := b.released.isNone && b.members.all (barFree s b)

/-- A waiter of a released instance receives its number and goes on; one that waited for the next arrives there (R256, R257). -/
def barRelease (s : State) (id number : Nat) (pick : Nat → Bool) : State :=
  s.threads.foldl (fun x p =>
    match p.2.wait with
    | .hw i next d =>
      if i = id && pick p.1 then
        if next then wakeAgain x p.1 else wakeOn ((logWords x p.1 [BitVec.ofNat 32 number]).modThr p.1 fun t => t.wr d (BitVec.ofNat 32 number)) p.1
      else x
    | _ => x) s

/-- The clusters that hold waiters of an instance. -/
def waitingClusters (s : State) (id : Nat) : List Nat :=
  s.threads.foldl (fun l p => match p.2.wait with | .hw i false _ => if i = id then sput l (s.grpOf p.1).cluster else l | _ => l) []

/-- The clusters of a BAR.GRID instance, each with its rank among them (R258). -/
def gridRanks (number : Nat) (clusters : List Nat) : NMap Nat :=
  let place (c : Nat) : Nat := (c + 192 - number % 192) % 192
  clusters.map fun c => (c, (clusters.filter fun d => place d < place c).length)

/-- The release tick of BAR.GRID: one that crosses dies adds a tick (R270). -/
def gridTick (s : State) (clusters : List Nat) : Nat :=
  s.now + (if (clusters.map dieOfCluster).dedup.length ≤ 1 then 0 else 1)

/-- HW_BARRIER_RELEASE: an instance releases; BAR.GRID's clusters follow at their ranks (R256, R258). -/
def hwBarrierRelease (id : Nat) (s : State) : State :=
  match nfind s.hwbars id with
  | none => s
  | some b =>
    if !barDue s b then s
    else if b.level = 3 then
      let cs := waitingClusters s id
      { s with hwbars := nset s.hwbars id { b with released := some (gridTick s cs), left := gridRanks b.number cs } }
    else barRelease { s with hwbars := ndel s.hwbars id } id b.number fun _ => true

/-- HW_BARRIER_RELEASE (R256). -/
def execHwBarrierRelease (id : Nat) (s : State) : Host.Outcome State Fault Refusal := .next (hwBarrierRelease id s)

/-- The tick at which a cluster's waiters of a BAR.GRID instance go on (R258). -/
def rankTick (b : HwBar) (cluster : Nat) : Nat := b.released.getD 0 + 64 * (nget b.left cluster 0 / 8)

/-- Fewer than 8 clusters have been admitted in the last 64 ticks (R359). -/
def slewRoom (s : State) : Bool := (s.admissions.filter fun a => s.now < a + 64).length < 8

/-- The clusters that wait for the slew limiter, in order of request tick, of one tick those of BAR.GRID first, by their ranks, and then of number (R359, R258). -/
def slewQueue (s : State) : List Nat :=
  ((s.clusters.foldl (fun (m : NMap Nat) p =>
    match p.2.wakeReq with
    | some t => if p.2.gated then nset m ((t * 512 + (if p.2.wakeGrid then p.2.wakeRank else 256)) * 256 + p.1) p.1 else m
    | none => m) []).map (·.2))

/-- A release of BAR.GRID, whose requests were all made at its tick, has ranks left that go before a request of a tick (R359). -/
def gridAhead (s : State) (tick : Nat) : Bool := s.hwbars.any fun p => p.2.level == 3 && p.2.released.any (· ≤ tick)

/-- Admit a cluster from gated to running (R359). -/
def admitCluster (s : State) (c : Nat) : State :=
  { s.modCluster c fun x => { x with gated := false, wakeReq := none, wakeGrid := false } with
    admissions := s.now :: s.admissions.filter fun a => s.now < a + 64 }

/-- A request goes before those that a release of a tick made. -/
def requestBefore (s : State) (released : Nat) : Bool :=
  s.clusters.any fun p => p.2.gated && p.2.wakeReq.any fun t => t < released || (t = released && p.2.wakeGrid)

/-- A cluster takes its slot of a BAR.GRID release: one that is gated is admitted in it, or, when earlier requests wait or have filled the limit, asks as
of the release's tick (R258, R359). A cluster that runs takes its slot all the same. -/
def takeRank (s : State) (cluster released rank : Nat) : State :=
  if slewRoom s && !requestBefore s released then admitCluster s cluster
  else if (s.cluster cluster).gated && !(s.cluster cluster).wakeReq.any (· < released) then
    s.modCluster cluster fun x => { x with wakeReq := some released, wakeGrid := true, wakeRank := rank }
  else s

/-- GRID_RANK_RELEASE: a cluster's waiters go on at their rank's slot (R258). -/
def gridRankRelease (id cluster : Nat) (s : State) : State :=
  match nfind s.hwbars id with
  | none => s
  | some b =>
    if b.released.isNone || (nfind b.left cluster).isNone || s.now < rankTick b cluster then s
    else
      let left := ndel b.left cluster
      let s1 := barRelease { s with hwbars := if left.isEmpty then ndel s.hwbars id else nset s.hwbars id { b with left := left } } id b.number
        fun k => (s.grpOf k).cluster = cluster
      takeRank s1 cluster (b.released.getD 0) (nget b.left cluster 0)

/-- GRID_RANK_RELEASE (R258). -/
def execGridRankRelease (id cluster : Nat) (s : State) : Host.Outcome State Fault Refusal := .next (gridRankRelease id cluster s)

/-! ### Flags (R260, R261) -/

/-- FLAGSET: .set is STL.32 of x[D], .add a no-return AADD.n32 of it that waits as STL does (R260). -/
def flagSet (f : Fields) (k : Nat) (s : State) : Act :=
  let perm := if f.m = 1 then permST ||| permAT else permST
  update f perm 4 k s fun s' key =>
    let t := s'.thr k
    let kind : UpdKind := if f.m = 1 then .atomic 0x8 0 [t.x f.d.toNat] else .store (bytesOfNat (t.x f.d.toNat).toNat 4) false
    startUpd s' k
      { kind := kind, space := (capA s' k f).space, va := addrOf s' k f, key := key, bytes := 4, v := f.v, scope := f.scope
        treg := some f.time, phase := .staged, notBefore := if f.scope ≠ 0 then notBeforeOf s' k key else 0 }

/-- FLAGSET: its release wait parks (R250, R260). -/
def execFlagset (f : Fields) (s : State) : Host.Outcome State Fault Refusal :=
  issue 0xBA f (fun k s =>
    match flagSet f k s with
    | .go s' => if releaseReady s k f.scope then .go s' else .set (s.modThr k fun t => { t with wait := .release f.scope })
    | a => a) s

/-- Start a read of a flag for a thread in FLAGWAIT, as a load (R201, R261). -/
def readFlag (s : State) (k space va : Nat) : State := startRead s k { th := k, kind := .flag, space := space, va := va, bytes := 4 }

/-- FLAGWAIT: binds its time register, and waits for the read of its flag (R261, R302). -/
def execFlagwait (f : Fields) (s : State) : Host.Outcome State Fault Refusal :=
  issue 0xBB f (fun k s =>
    let c := capA s k f
    let a := addrOf s k f
    match accessFault s k c permLD a 4 4 with
    | some x => .fault x
    | none =>
      .set (readFlag (s.modThr k fun t => { t.bind f.time s.ids with wait := .flag none c.space a 0 false (some s.ids) f }) k c.space a)) s

/-- A thread in FLAGWAIT reads its flag again (R261). -/
def reread (s : State) (k : Nat) : State :=
  match (s.thr k).wait with
  | .flag key sp va poll _ none f =>
    readFlag (s.modThr k fun t => { t with wait := .flag key sp va poll false (some s.ids) f }) k sp va
  | _ => s

/-- FLAG_MONITOR_REREAD: an update, or an ef entry, has fired the monitor (R261). -/
def execFlagMonitorReread (k : Nat) (s : State) : Host.Outcome State Fault Refusal :=
  when s (match (s.thr k).wait with | .flag _ _ _ _ fired none _ => fired | _ => false) (reread s k)

/-- FLAG_POLL: a waiter without a monitor reads again every 256 ticks (R261). -/
def execFlagPoll (k : Nat) (s : State) : Host.Outcome State Fault Refusal :=
  when s (match (s.thr k).wait with | .flag _ _ _ poll _ none _ => 0 < poll && poll ≤ s.now | _ => false) (reread s k)

/-! ### Sleeping, rows, counters -/

/-- SLEEP: until Now() + Zx(x[A]); 16 or less does not park (R263). -/
def execSleep (f : Fields) (s : State) : Host.Outcome State Fault Refusal :=
  issue 0xBC f (fun k s =>
    let w := s.nowOf k + ((s.thr k).x f.a.toNat).toNat
    parkUntil s k w (.tick w)) s

/-- ROWSYNC: the thread waits for the rest of its row; the last releases it (R262). -/
def execRowsync (f : Fields) (s : State) : Host.Outcome State Fault Refusal :=
  issue 0xBD f (fun k s => .set (rowRelease (s.modThr k fun t => { t with wait := .row }) k)) s

/-- The work that a level's wait names (R264): a launch by its handle, so that a record used again is not taken for it; else the record. -/
def workOf (s : State) (l level : Nat) : Nat :=
  let g := (s.lch l).graph
  let p := (nget s.graphs g {}).parent
  match level with
  | 0 => (s.lch l).gen * 4096 + l
  | 1 => g
  | 2 => p
  | _ => (nget s.phases p {}).parent

/-- The members of a named work that are not yet complete; none of a launch whose record is in use again. -/
def openOf (s : State) (level work : Nat) : Nat :=
  match level with
  | 0 => if (s.lch (work % 4096)).gen = work / 4096 then (s.lch (work % 4096)).open_ else 0
  | 1 => graphOpen s work
  | 2 => phaseOpen s work
  | _ => jobOpen s work

/-- CNTWAIT.lvl: until the counter is at or below x[B]; a handle that names no record does not wait (R264). -/
def execCntwait (f : Fields) (s : State) : Host.Outcome State Fault Refusal :=
  issue 0xBE f (fun k s =>
    let t := s.thr k
    let n := (t.x f.b.toNat).toNat
    match handleSlot s k (t.x f.a.toNat) with
    | none => .go s
    | some l =>
      if workCount s l f.m.toNat ≤ n then .go s
      else .set (s.modThr k fun t => { t with wait := .count f.m.toNat (workOf s l f.m.toNat) n })) s

/-- CNTREAD.lvl (R264). -/
def execCntread (f : Fields) (s : State) : Host.Outcome State Fault Refusal :=
  issue 0xBF f (regs fun k s t =>
    t.wr f.d.toNat
      (match handleSlot s k (t.x f.a.toNat) with
       | none => 0xFFFFFFFF
       | some l => BitVec.ofNat 32 (workCount s l f.m.toNat))) s

/-- A launch record is free: its slot was never used, or its launch is complete (R340). -/
def freeSlot (s : State) : Option Nat :=
  (List.range Config.larderSize).find? fun i => match nfind s.launches i with | none => true | some l => l.complete

/-- YIELD_BAR_EXPIRY: the bar of 8 beat slots has run out (R92). -/
def execYieldBarExpiry (k : Nat) (s : State) : Host.Outcome State Fault Refusal :=
  when s ((s.thr k).yieldBar ≤ s.curSlot (s.coreOf k)) (s.modThr k fun t => { t with yieldBar := 0 })

end Sys2Proof.Machine
end

