-- ==== Sys2Proof/Machine/Matrix.lean ====
section
/-! DEFINITION. Class 0xD and the matrix engine (spec/18, R303 to R332): claims, operand records, codebooks, slots, passes, the
engine's queue in group order, grants and steps. -/

namespace Sys2Proof.Machine

/-! ### Resources -/

/-- A matrix fault (Table 18.9). -/
def matFlt (sub : Nat) : Flt := { cause := causeMatrix, sub := sub }

/-- The lowest sub-code of the matrix causes that hold (R327). -/
def matCause (causes : List (Nat × Bool)) : Option Flt :=
  match (causes.filter (·.2)).map (·.1) with
  | [] => none
  | c :: cs => some (matFlt (cs.foldl min c))

/-- The key of an accumulator's first element. -/
def accBase (cluster phys : Nat) : Nat := (cluster * 32 + phys) * 4096

/-- Set to +0 every element of an accumulator, and clear its poison marks (R320, R328). -/
def zeroAcc (s : State) (cluster phys : Nat) : State :=
  { s with
    accs := s.accs.filter fun p => !(accBase cluster phys ≤ p.1 && p.1 < accBase cluster phys + 4096)
    accPoison := sdelRange s.accPoison (accBase cluster phys) 4096 }

/-- Put the 4,096 elements of an accumulator; an element +0 is not listed. -/
def putAcc (s : State) (cluster phys : Nat) (ws : List Word) : State :=
  let b := accBase cluster phys
  let new := (ws.zipIdx b).filterMap fun p => if p.1 = 0 then none else some (p.2, p.1)
  { s with accs := (s.accs.filter fun p => p.1 < b) ++ new ++ (s.accs.filter fun p => b + 4096 ≤ p.1) }

/-- The groups whose claims stand on a cluster: all that are there but saved ones, whose shared accumulators alone stay (R329). -/
def claimants (s : State) (cluster : Nat) : List Group := (s.groups.map (·.2)).filter fun g => g.cluster = cluster

/-- The physical slots of a cluster that are held. -/
def heldSlots (s : State) (cluster : Nat) : List Nat :=
  (claimants s cluster).flatMap fun g => if g.residency = .saved then [] else g.pslots.map (·.2)

/-- The physical accumulators of a cluster that are held. -/
def heldAccs (s : State) (cluster : Nat) : List Nat :=
  (claimants s cluster).flatMap fun g =>
    (g.accs.filter fun p => g.residency ≠ .saved || p.2.share.isSome).map fun p => p.2.phys

/-- The free numbers below a bound, the lowest first. -/
def freeOf (held : List Nat) (n : Nat) : List Nat := (List.range n).filter fun i => !held.contains i

/-- The shared accumulator of a key for a launch on a cluster (R308). -/
def sharedAcc (s : State) (launch cluster : Nat) (key : Word) : Option Nat :=
  (((claimants s cluster).filter fun g => g.launch = launch).flatMap fun g =>
    (g.accs.filter fun p => p.2.share = some key).map fun p => p.2.phys).head?

/-- Make a claim in its turn, and its status (R308). -/
def claimNow (s : State) (g kind first count : Nat) (key : Word) : State × Nat :=
  let gr := s.grp g
  let c := gr.cluster
  let ns := List.range' first count
  match kind with
  | 0 =>
    if ns.any fun n => (nfind gr.pslots n).isSome then (s, 2)
    else
      let free := freeOf (heldSlots s c) 128
      if free.length < count then (s, 1)
      else
        ((ns.zip free).foldl (fun x p =>
          (clearMem x (pantryKey c p.2 0) 8192).modGrp g fun y => { y with pslots := nset y.pslots p.1 p.2 }) s, 0)
  | 1 =>
    if ns.any fun n => (nfind gr.accs n).isSome then (s, 2)
    else
      let free := freeOf (heldAccs s c) 32
      if free.length < count then (s, 1)
      else
        ((ns.zip free).foldl (fun x p => (zeroAcc x c p.2).modGrp g fun y => { y with accs := nset y.accs p.1 { phys := p.2 } }) s, 0)
  | _ =>
    if (nfind gr.accs first).isSome then (s, 2)
    else
      match sharedAcc s gr.launch c key, freeOf (heldAccs s c) 32 with
      | some p, _ => (s.modGrp g fun y => { y with accs := nset y.accs first { phys := p, share := some key } }, 0)
      | none, [] => (s, 1)
      | none, p :: _ =>
        ((zeroAcc s c p).modGrp g fun y => { y with accs := nset y.accs first { phys := p, share := some key } }, 0)

/-! ### What an engine operation names (R307) -/

/-- The K of one slot of a format (Table 18.1). -/
def kOf (fmt : Nat) : Nat := match fmt with | 0 => 64 | 4 => 256 | _ => 128

/-- The record of a number as the group's words so far in group order leave it: an OPRES that waits for an OPFREE counts (R307). -/
def recOf (g : Group) (r : Nat) : Option OpRec :=
  match g.queue.reverse.findSome? fun o => match o with | .opres _ n d => if n = r then some d else none | _ => none with
  | some d => some d
  | none => nfind g.recs r

/-- Whether side A, or side B, spans two slots (Table 18.5). -/
def twoSlotA (fa fb : Nat) : Bool := (fa == 1 || fa == 2) && fb == 4
def twoSlotB (fa fb : Nat) : Bool := fa == 4 && (fb == 1 || fb == 2)

/-- Whether two formats pair (Table 18.5). -/
def pairOk (fa fb : Nat) : Bool :=
  match fa, fb with
  | 0, 0 | 3, 3 | 4, 4 => true
  | 1, b | 2, b => b == 1 || b == 2 || b == 4
  | 4, b => b == 1 || b == 2
  | _, _ => false

/-- A record that stands for one that a program error has taken away. -/
def noRec : OpRec := { first := 0, count := 1, fmt := 0, sc := false, blk := 0, sslot := 0, soff := 0, book := none }

/-- The operations of a queue that stand before one. -/
def opsBefore (q : List EngOp) (o : EngOp) : List EngOp := q.takeWhile (· ≠ o)

/-- The record of a number as a pass of the queue finds it: an OPRES that stands before it and waits for its turn counts (R307). -/
def recAt (g : Group) (pid r : Nat) : OpRec :=
  let new := (opsBefore g.queue (.pass pid)).reverse.findSome? fun o => match o with | .opres _ n d => if n = r then some d else none | _ => none
  (new.or (nfind g.recs r)).getD noRec

/-- The two records of a pass. -/
def passRecs (g : Group) (p : Pass) : OpRec × OpRec := (recAt g p.pid p.refA.rcd, recAt g p.pid p.refB.rcd)

/-- The local slots of one side at a step (R313, R316). -/
def sideSlots (r : OpRec) (idx inc : Nat) (two : Bool) (step : Nat) : List Nat :=
  let i := (idx + step * inc) % max r.count 1
  if two then [r.first + i, r.first + i + 1] else [r.first + i]

/-- The operand slots of a pass at a step: side A, side B. -/
def stepSlots (g : Group) (p : Pass) (step : Nat) : List Nat × List Nat :=
  let (ra, rb) := passRecs g p
  (sideSlots ra p.refA.idx p.incA (twoSlotA ra.fmt rb.fmt) step, sideSlots rb p.refB.idx p.incB (twoSlotB ra.fmt rb.fmt) step)

/-- The scale slots of a pass. -/
def scaleSlots (g : Group) (p : Pass) : List Nat :=
  let (ra, rb) := passRecs g p
  (if ra.sc then [ra.sslot] else []) ++ (if rb.sc then [rb.sslot] else [])

/-- Every slot that the steps of a pass read: a ring repeats after at most 128 steps. -/
def passSlots (g : Group) (p : Pass) : List Nat :=
  ((List.range (min p.steps 128)).flatMap fun i => (stepSlots g p i).1 ++ (stepSlots g p i).2) ++ scaleSlots g p

/-- What an operation names: slots that it reads, and that it writes or that must be its own; records so; accumulators. -/
structure Use where
  r : List Nat := []
  w : List Nat := []
  rcd : List Nat := []
  rcdW : List Nat := []
  accs : List Nat := []
  claim : Bool := false
  release : Bool := false
  deriving DecidableEq, Repr

/-- The slots that a pass streams into. -/
def streamSlots (g : Group) (p : Pass) : List Nat :=
  match p.stream with
  | none => []
  | some t => (List.range (min p.steps 128)).flatMap fun i => if t.side = 0 then (stepSlots g p i).1 else (stepSlots g p i).2

/-- What a queued operation names. -/
def opUse (s : State) (g : Group) (o : EngOp) : Use :=
  match o with
  | .pass id =>
    (match g.passes.find? fun p => p.pid = id with
     | some p => { r := passSlots g p, w := streamSlots g p, rcd := [p.refA.rcd, p.refB.rcd], accs := [p.acc] }
     | none => {})
  | .xfer id =>
    (match nfind s.xfers id with
     | none => {}
     | some x =>
       match x.kind with
       | .slotIn l | .slotOut l => { w := [l] }
       | .book r => { rcdW := [r] }
       | _ => {})
  | .release slots accs => { w := slots, accs := accs, release := true }
  | .opfree r => { rcdW := [r] }
  | .opres _ r _ => { rcdW := [r] }
  | .mzero accs => { accs := accs }
  | .accwr a _ _ => { accs := [a] }
  | .accrd a _ _ => { accs := [a] }
  | .claim _ kind first count _ =>
    if kind = 0 then { w := List.range' first count, claim := true } else { accs := List.range' first count, claim := true }

/-- Two local accumulators that are one: the same number, or one physical accumulator under two (R308). -/
def sameAcc (g : Group) (a b : Nat) : Bool :=
  a == b || (match nfind g.accs a, nfind g.accs b with | some x, some y => x.phys == y.phys | _, _ => false)

/-- Whether a later operation waits for an earlier one (R307, R308). -/
def Use.clash (g : Group) (a b : Use) : Bool :=
  let any (l m : List Nat) : Bool := l.any m.contains
  any a.w b.w || any a.w b.r || any a.r b.w || any a.rcdW b.rcdW || any a.rcdW b.rcd || any a.rcd b.rcdW ||
    (a.accs.any fun x => b.accs.any fun y => sameAcc g x y) || (a.release && b.claim) || (a.claim && b.claim)

/-- An operation that is no pass waits for an earlier one (R307). -/
def opWaits (s : State) (g : Group) (o : EngOp) : Bool :=
  (opsBefore g.queue o).any fun e => (opUse s g e).clash g (opUse s g o)

/-- The next step of a pass waits for an earlier operation: a pass on the same accumulator with steps left, a pass that streams into one
of the step's slots, or any other that it clashes with (R307, R321). -/
def passWaits (s : State) (g : Group) (p : Pass) : Bool :=
  let (a, b) := stepSlots g p p.granted
  let step : Use := { r := a ++ b ++ scaleSlots g p, w := streamSlots g p, rcd := [p.refA.rcd, p.refB.rcd], accs := [p.acc] }
  (opsBefore g.queue (.pass p.pid)).any fun o =>
    match o with
    | .pass j =>
      (match g.passes.find? fun q => q.pid = j with
       | some q => (sameAcc g q.acc p.acc && q.granted < q.limit) || (streamSlots g q).any step.r.contains
       | none => false)
    | _ => (opUse s g o).clash g step

/-- Change a pass of a group. -/
def modPass (s : State) (g pid : Nat) (f : Pass → Pass) : State :=
  s.modGrp g fun gr => { gr with passes := gr.passes.map fun p => if p.pid = pid then f p else p }

/-- The pass of a group with an id. -/
def passOf (s : State) (g pid : Nat) : Option Pass := (s.grp g).passes.find? fun p => p.pid = pid

/-! ### The queue -/

/-- Land a word in some returns at a tick from now on. -/
def landLater (s : State) (rets : List Nat) (w : Word) (tick : Nat) : State :=
  rets.foldl (fun x r => x.modRet r fun v => { v with est := true, data := bytesOfNat w.toNat 4, phase := .read tick }) s

/-- Give up claims (R308). -/
def releaseNow (s : State) (g : Nat) (slots accs : List Nat) : State :=
  s.modGrp g fun gr =>
    { gr with pslots := gr.pslots.filter fun p => !slots.contains p.1, accs := gr.accs.filter fun p => !accs.contains p.1 }

/-- Write a record into place (R309). -/
def reserveNow (s : State) (g r : Nat) (d : OpRec) : State × Nat :=
  if (nfind (s.grp g).recs r).isSome then (s, 1) else (s.modGrp g fun gr => { gr with recs := nset gr.recs r d }, 0)

/-- Make the effect of an operation that waits for nothing (R307, R308, R309, R320). -/
def opEffect (s : State) (g : Nat) (o : EngOp) : State :=
  let gr := s.grp g
  let phys (a : Nat) : Nat := ((nfind gr.accs a).map (·.phys)).getD 32
  match o with
  | .pass _ => s
  | .xfer id =>
    let s1 := s.modXfer id fun x => { x with started := true, at_ := s.now }
    (match nfind s1.xfers id with
     | some x => (match x.kind with | .book _ | .slotIn _ => startPieces s1 id | _ => s1)
     | none => s1)
  | .release slots accs => releaseNow s g slots accs
  | .opfree r => s.modGrp g fun y => { y with recs := ndel y.recs r }
  | .opres rets r d => let (s1, st) := reserveNow s g r d; landLater s1 rets (BitVec.ofNat 32 st) s.now
  | .mzero accs => accs.foldl (fun x a => if phys a < 32 then zeroAcc x gr.cluster (phys a) else x) s
  | .accwr a e v =>
    let key := accBase gr.cluster (phys a) + e
    if phys a < 32 then
      { s with accs := if v = 0 then ndel s.accs key else nset s.accs key v, accPoison := sdel s.accPoison key }
    else s
  | .accrd a e ret =>
    let key := accBase gr.cluster (phys a) + e
    s.modRet ret fun v =>
      { v with
        est := true, data := bytesOfNat (nget s.accs key 0).toNat 4, poisoned := s.accPoison.contains key, phase := .read (s.now + 2) }
  | .claim rets kind first count key =>
    let (s1, st) := claimNow s g kind first count key
    landLater s1 rets (BitVec.ofNat 32 st) s.now

/-- An operation stays in the queue after its turn begins: a pass until it is complete, a transfer until it has ended. -/
def opStays (o : EngOp) : Bool := match o with | .pass _ | .xfer _ => true | _ => false

/-- The first operation of a queue whose turn has come. -/
def opDue (s : State) (g : Group) : Option EngOp :=
  g.queue.find? fun o =>
    (match o with
     | .pass _ => false
     | .xfer id => (nfind s.xfers id).any fun x => !x.started
     | _ => true) && !opWaits s g o

/-- The bytes that a step streams: two slots on a two-slot side (R316). -/
def streamBytes (g : Group) (p : Pass) (t : Stream) : Nat :=
  let (ra, rb) := passRecs g p
  if (if t.side = 0 then twoSlotA ra.fmt rb.fmt else twoSlotB ra.fmt rb.fmt) then 16384 else 8192

/-- Whether the streamed load of a pass's next step may start: its slots are not read by an earlier step that is not yet applied, nor
named by an earlier operation (R316). -/
def streamReady (s : State) (g : Nat) (p : Pass) (t : Stream) : Bool :=
  let gr := s.grp g
  let slots (i : Nat) : List Nat := if t.side = 0 then (stepSlots gr p i).1 else (stepSlots gr p i).2
  let mine := slots p.sent
  let all (i : Nat) : List Nat := (stepSlots gr p i).1 ++ (stepSlots gr p i).2 ++ scaleSlots gr p
  p.link.isEmpty && p.sent < p.limit && p.done.isNone &&
    ((List.range' p.applied (p.sent - p.applied)).all fun i => !(all i).any mine.contains) &&
    (opsBefore gr.queue (.pass p.pid)).all fun o => !(opUse s gr o).clash gr { w := mine }

/-- Start the streamed load of a pass's next step; one outside the bounds stops the pass before that step (R316, R317). -/
def streamStart (s : State) (g : Nat) (p : Pass) : State :=
  match p.stream with
  | none => s
  | some t =>
    if !streamReady s g p t then s
    else
      let n := streamBytes (s.grp g) p t
      let va := (t.va + p.sent * t.inc) % 2 ^ 52
      let k := p.threads.headD (g * 2048)
      if !(t.base ≤ va && va + n ≤ t.top) || (t.space == 4 && !dieSpaceOk s k va n) then
        modPass s g p.pid fun q => q.halt q.sent (3, 2) s.now
      else
        let s1 := modPass s g p.pid fun q => { q with sent := q.sent + 1 }
        startPieces { s1 with
          ids := s.ids + 1
          xfers := nset s.xfers s.ids
            { kind := .stream p.pid p.sent, group := g, threads := [k], core := s.coreOf k, space := t.space, va := va
              units := n / 16, at_ := s.now, before := p.seq, started := true
              log := (nfind (s.grp g).passLog p.pid).map (· + p.sent) } } s.ids

/-- Start the streamed loads of a pass whose slots are free, in the order of their steps (R316). -/
def streamAll (s : State) (g pid : Nat) (fuel : Nat) : State :=
  match fuel with
  | 0 => s
  | fuel + 1 =>
    match passOf s g pid with
    | none => s
    | some p => if p.stream.any fun t => streamReady s g p t then streamAll (streamStart s g p) g pid fuel else s

/-- A C4 record of a pass has no valid codebook, and none is on its way before the pass (R311). -/
def bookMissing (s : State) (g : Group) (p : Pass) : Bool :=
  let need (n : Nat) (r : OpRec) : Bool :=
    r.fmt == 4 && r.book.isNone && !(opsBefore g.queue (.pass p.pid)).any fun o => (opUse s g o).rcdW.contains n
  let (ra, rb) := passRecs g p
  need p.refA.rcd ra || need p.refB.rcd rb

/-- Stop the passes whose codebook did not become valid (R311). -/
def stopBooks (s : State) (g : Nat) : State :=
  (s.grp g).passes.foldl (fun x p =>
    if p.done.isNone && p.granted < p.limit && bookMissing s (s.grp g) p then
      modPass x g p.pid fun q => { q with limit := q.granted, stop := some (3, 5) }
    else x) s

/-- Take each operation of a group whose turn has come, in group order (R307). -/
def runQueue (s : State) (g : Nat) (fuel : Nat) : State :=
  match fuel with
  | 0 => s
  | fuel + 1 =>
    match opDue s (s.grp g) with
    | none => s
    | some o =>
      let s1 := opEffect s g o
      let s2 := if opStays o then s1 else s1.modGrp g fun gr => { gr with queue := gr.queue.erase o }
      runQueue s2 g fuel

/-- Bring a group's engine work forward: its queue, passes without a codebook, streamed loads. A saved or killed group's rests. -/
def engineSettle (s : State) (g : Nat) : State :=
  if (s.grp g).residency ≠ .resident then s
  else
    let s1 := stopBooks (runQueue s g ((s.grp g).queue.length + 1)) g
    if saving s g then s1
    else (s1.grp g).passes.foldl (fun x p => streamAll x g p.pid 129) s1

/-- Put an operation last in its group's queue (R307). -/
def enqueue (s : State) (g : Nat) (o : EngOp) : State := engineSettle (s.modGrp g fun gr => { gr with queue := gr.queue ++ [o] }) g

/-! ### Claims and records -/

/-- A range descriptor of CLAIM and RELEASE: first number and count (R308); none for a bad one. -/
def claimRange (kind : Nat) (v : Word) : Option (Nat × Nat) :=
  let n := v.toNat
  match kind with
  | 0 =>
    let f := n % 256
    let c := n / 256
    if 1 ≤ c && c ≤ 128 && f + c ≤ 128 then some (f, c) else none
  | 1 =>
    let f := n % 32
    let c := n / 256
    if n / 32 % 8 == 0 && 1 ≤ c && c ≤ 32 && f + c ≤ 32 then some (f, c) else none
  | _ => if n < 32 then some (n, 1) else none

/-- A word that writes a status in every thread of the beat, at once if nothing of its group stands before it. -/
def statusWord (f : Fields) (ks : List Nat) (s : State) (g : Nat) (now : Bool) (act : State → State × Nat) (op : List Nat → EngOp) : State :=
  if now then
    let (s1, st) := act s
    ks.foldl (fun x k => x.modThr k fun t => t.wr f.d.toNat (BitVec.ofNat 32 st)) s1
  else
    let (s1, ids) := startAlike s ks { th := 0, kind := .word, dst := f.d.toNat, n := if f.d = 0 then 0 else 1 }
    enqueue s1 g (op ids)

/-- CLAIM: at once unless an earlier RELEASE or CLAIM has not acted (R308). -/
def claimWord (kind : Nat) (f : Fields) (ks : List Nat) (k : Nat) (s : State) : Act :=
  let t := s.thr k
  let g := gidOf k
  match claimRange kind (t.x f.a.toNat) with
  | none => .fault (matFlt 4)
  | some (first, count) =>
    let key := t.x f.b.toNat
    let waits := (s.grp g).queue.any fun o => (opUse s (s.grp g) o).release || (opUse s (s.grp g) o).claim
    .go (statusWord f ks s g (!waits) (fun x => claimNow x g kind first count key) fun ids => .claim ids kind first count key)

/-- CLAIM.slot (R308). -/
def execClaimSlot (f : Fields) (s : State) : Host.Outcome State Fault Refusal := issueGroup 0xD0 f (claimWord 0 f) s

/-- CLAIM.acc (R308). -/
def execClaimAcc (f : Fields) (s : State) : Host.Outcome State Fault Refusal := issueGroup 0xD0 f (claimWord 1 f) s

/-- CLAIM.share (R308). -/
def execClaimShare (f : Fields) (s : State) : Host.Outcome State Fault Refusal := issueGroup 0xD0 f (claimWord 2 f) s

/-- The numbers that the FIRST and COUNT of a range descriptor name among those that there are, whether or not other bits of it are set (R308, R327). -/
def namedRange (kind : Nat) (v : Word) : List Nat :=
  let n := v.toNat
  match kind with
  | 0 => (List.range 128).filter fun i => n % 256 ≤ i && i < n % 256 + n / 256 % 256
  | _ => (List.range 32).filter fun i => n % 32 ≤ i && i < n % 32 + n / 256 % 64

/-- RELEASE.kind (R308): the lowest cause is reported (R327). -/
def execRelease (f : Fields) (s : State) : Host.Outcome State Fault Refusal :=
  issueGroup 0xD1 f (fun _ k s =>
    let g := gidOf k
    let gr := s.grp g
    let v := (s.thr k).x f.a.toNat
    let ns := namedRange f.m.toNat v
    let have_ (n : Nat) : Bool := if f.m = 0 then (nfind gr.pslots n).isSome else (nfind gr.accs n).isSome
    match matCause [(1, !ns.all have_), (4, (claimRange f.m.toNat v).isNone)] with
    | some x => .fault x
    | none => .go (enqueue s g (if f.m = 0 then .release ns [] else .release [] ns))) s

/-- The record that a descriptor names, and whether a field of it is outside its limits (Table 18.3, R309). -/
def recOfWord (d : Double) : OpRec × Bool :=
  let n := d.toNat
  let r : OpRec :=
    { first := n % 256, count := n / 2 ^ 8 % 256, fmt := n / 2 ^ 16 % 8, sc := n.testBit 19, blk := n / 2 ^ 20 % 4
      sslot := n / 2 ^ 24 % 256, soff := n / 2 ^ 32 % 8192, book := none }
  let kk := kOf r.fmt
  let bl := 32 * 2 ^ r.blk
  let bad :=
    n / 2 ^ 22 % 4 != 0 || n / 2 ^ 45 != 0 || r.fmt ≥ 5 || r.blk == 3 || r.count == 0 || r.first + r.count > 128 ||
      (if r.sc then bl > kk || r.soff % 64 != 0 || r.soff + r.count * 64 * kk / bl > 8192 else r.sslot != 0 || r.soff != 0)
  (r, bad)

/-- A slot of a record, or its scale slot, is not claimed (R309). -/
def recUnclaimed (g : Group) (r : OpRec) : Bool :=
  ((List.range' r.first r.count).any fun n => (nfind g.pslots n).isNone) || (r.sc && (nfind g.pslots r.sslot).isNone)

/-- OPRES (R309): at once unless an earlier OPFREE of the record has not acted. -/
def execOpres (f : Fields) (s : State) : Host.Outcome State Fault Refusal :=
  issueGroup 0xD2 f (fun ks k s =>
    let t := s.thr k
    let g := gidOf k
    let n := (t.x f.a.toNat).toNat
    let (r, bad) := recOfWord (t.d f.b.toNat)
    match matCause [(1, recUnclaimed (s.grp g) r), (4, bad || n ≥ 16)] with
    | some x => .fault x
    | none =>
      let waits := (s.grp g).queue.any fun o => (match o with | .opfree m | .opres _ m _ => m == n | _ => false)
      .go (statusWord f ks s g (!waits) (fun x => reserveNow x g n r) fun ids => .opres ids n r)) s

/-- OPFREE (R309). -/
def execOpfree (f : Fields) (s : State) : Host.Outcome State Fault Refusal :=
  issueGroup 0xD3 f (fun _ k s =>
    let g := gidOf k
    let n := ((s.thr k).x f.a.toNat).toNat
    match matCause [(1, (recOf (s.grp g) (n % 16)).isNone), (4, n ≥ 16)] with
    | some x => .fault x
    | none => .go (enqueue s g (.opfree n))) s

/-! ### Codebooks and slots (R311, R312) -/

/-- Start a transfer of the engine, its status in every thread of the beat. -/
def startSlot (f : Fields) (ks : List Nat) (k : Nat) (kind : XferKind) (c : Counter) (units : Nat) (s : State) : State :=
  let g := gidOf k
  let (s1, ids) := startAlike s ks { th := k, kind := .xfer, dst := f.d.toNat, n := if f.d = 0 then 0 else 1, treg := some f.time, counter := c }
  let id := s1.ids
  let (space, va) := xferVa s k (capA s k f).space (addrOf s k f)
  let out := match kind with | .slotOut _ => true | _ => false
  let x : Xfer :=
    { kind := kind, group := g, threads := k :: ks.filter (· ≠ k), core := s.coreOf k, pc := (s.thr k).pc, rets := ids
      space := space, va := va, v := f.v, scope := f.scope, units := units, before := s.ids, hint := f.m.toNat
      prog := (s.thr k).prog, rcd := (s.thr k).digestN, staged := out && s.det k && space != 1
      log := (nextEntry s k).units }
  let s2 := { s1 with ids := id + 1, xfers := nset s1.xfers id x }
  let s3 := if out then s2.modThr k fun t => { t with digestN := t.digestN + units, prog := if x.staged then t.prog + 1 else t.prog } else s2
  enqueue s3 g (.xfer id)

/-- CBLD (R311). -/
def execCbld (f : Fields) (s : State) : Host.Outcome State Fault Refusal :=
  issueGroup 0xD4 f (fun ks k s =>
    let n := ((s.thr k).x f.d.toNat).toNat
    let r := recOf (s.grp (gidOf k)) (n % 16)
    match (accessFault s k (capA s k f) permLD (addrOf s k f) 32 32).or
        (matCause [(1, r.isNone), (4, n ≥ 16 || r.any fun d => d.fmt != 4)]) with
    | some x => .fault x
    | none => .go (startSlot f ks k (.book n) .loads 2 s)) s

/-- The matrix checks of SLOTLD and SLOTRD. -/
def slotCause (s : State) (k : Nat) (f : Fields) : Option Flt :=
  let n := ((s.thr k).x f.d.toNat).toNat
  matCause [(1, (nfind (s.grp (gidOf k)).pslots (n % 256)).isNone), (4, n ≥ 256)]

/-- SLOTLD (R312). -/
def execSlotld (f : Fields) (s : State) : Host.Outcome State Fault Refusal :=
  issueGroup 0xD5 f (fun ks k s =>
    match (accessFault s k (capA s k f) permLD (addrOf s k f) 8192 64 [0, 1, 3, 4]).or (slotCause s k f) with
    | some x => .fault x
    | none => .go (startSlot f ks k (.slotIn ((s.thr k).x f.d.toNat).toNat) .loads 512 s)) s

/-- SLOTRD (R312). -/
def execSlotrd (f : Fields) (s : State) : Host.Outcome State Fault Refusal :=
  issueGroup 0xD6 f (fun ks k s =>
    match (accessFault s k (capA s k f) permST (addrOf s k f) 8192 64 [0, 1, 4]).or (slotCause s k f) with
    | some x => .fault x
    | none => .go (startSlot f ks k (.slotOut ((s.thr k).x f.d.toNat).toNat) .stores 512 s)) s

/-- A transfer of the engine has ended: it leaves its group's queue. -/
def leaveQueue (s : State) (g id : Nat) : State := engineSettle (s.modGrp g fun gr => { gr with queue := gr.queue.erase (.xfer id) }) g

/-- CBLD_COMPLETE: the codebook becomes valid, or stays as it is (R311). -/
def cbldComplete (id : Nat) (s : State) : State :=
  match nfind s.xfers id with
  | none => s
  | some x =>
    match x.kind with
    | .book r =>
      if !x.booked || !piecesDone s id then s
      else
        let bs := x.gotAll.flatMap (·.data)
        let s1 := logUnits (logBytes s x.group 36) x.group id x.pieces
        let s2 :=
          if wholeStatus x.gotAll = 0 then s1.modGrp x.group fun g =>
            { g with
              recs := nmod g.recs r fun d =>
                { d with book := some ((List.range 16).map fun c => BitVec.ofNat 16 (natOfBytes ((bs.drop (2 * c)).take 2))) } }
          else s1
        leaveQueue (landWhole s2 id x) x.group id
    | _ => s

/-- CBLD_COMPLETE (R311). -/
def execCbldComplete (id : Nat) (s : State) : Host.Outcome State Fault Refusal := .next (cbldComplete id s)

/-- A load into slots has read its units: those that came are put in place, and the first that did not stops it as a copy (R312, R317). -/
def placeUnits (s : State) (x : Xfer) (place : Nat → Option Nat) : State × Xfer :=
  let gs := x.gotAll.zipIdx
  let good := gs.filter fun p => !p.1.absent && !p.1.poisoned
  let stop := (gs.find? fun p => p.1.absent || p.1.poisoned).map fun p => if p.1.absent then (1, 0) else (3, 3)
  (good.foldl (fun y p => match place p.2 with | some key => wrBytes y key p.1.data | none => y) s,
   { x with moved := good.map (·.2), stop := x.stop.or stop, absent := false })

/-- The place where a group's state stands while it is saved. -/
def savedPlace (g : Nat) : Nat := 1024 + g

/-- The key of a unit of a local slot: of a saved group's, of which SLOTRD may still read, in its saved image (R312, R329). -/
def slotKey (s : State) (g l u : Nat) : Option Nat :=
  let place := if (s.grp g).residency = .saved then savedPlace g else (s.grp g).cluster
  (nfind (s.grp g).pslots l).map fun p => pantryKey place p (16 * u)

/-- Write the units of a SLOTRD that may start, in ascending order; one that holds an uncorrectable error stops it (R312, R328). -/
def slotStores (s : State) (id l : Nat) (fuel : Nat) : State :=
  match fuel with
  | 0 => s
  | fuel + 1 =>
    match nfind s.xfers id with
    | none => s
    | some x =>
      if !unitDue (s.modXfer id fun y => { y with at_ := 0 }) id then s
      else
        match slotKey s x.group l x.next with
        | none => stopXfer s id 3 3
        | some key =>
          let src : Got := if poisonedAt s key 16 then .poisoned key else .bytes (rdBytes s key 16)
          let s1 := moveUnit s id x 1 x.space ((x.va + 16 * x.next) % 2 ^ 52) none src fun _ =>
            machineCheck (stopXfer s id 3 3) { cause := 2, sev := 1, unit := 9, die := dieOfCore x.core, who := (s.thr x.thread).owner }
          match nfind s1.xfers id with
          | some y => if y.next = x.next then s1 else slotStores s1 id l fuel
          | none => s1

/-- SLOT_TRANSFER_COMPLETE: a SLOTLD's reads, a SLOTRD's writes, and in the end the status (R312, Table 18.4). -/
def slotTransferComplete (id : Nat) (s : State) : State :=
  match nfind s.xfers id with
  | none => s
  | some x =>
    if !x.started then s
    else
      match x.kind with
      | .slotIn l =>
        if !x.booked || !piecesDone s id then s
        else
          let (s1, y) := placeUnits s x (slotKey s x.group l)
          leaveQueue (landXfer (logUnits (logBytes s1 y.group (20 * y.moved.length)) y.group id y.pieces) id { y with moved := [0] } y.status false) y.group id
      | .slotOut l =>
        if x.next < x.units && x.stop.isNone then (if x.at_ ≤ s.now then slotStores s id l (x.units + 1) else s)
        else if xferDone s x then leaveQueue (landXfer s id x x.status false) x.group id
        else s
      | _ => s

/-- SLOT_TRANSFER_COMPLETE (R312). -/
def execSlotTransferComplete (id : Nat) (s : State) : Host.Outcome State Fault Refusal := .next (slotTransferComplete id s)

/-- The streamed load of a step has come: what has come without a gap may be granted. -/
def Pass.arrive (p : Pass) (step : Nat) : Pass :=
  let all := sput p.early step
  let n := ((List.range' p.loaded (all.length + 1)).takeWhile all.contains).length
  { p with loaded := p.loaded + n, early := all.filter fun i => p.loaded + n ≤ i }

/-- STREAM_LOAD: the operand of a step has come into its slot; a load that failed has stopped the pass before that step (R316, R317). -/
def streamLoad (id : Nat) (s : State) : State :=
  match nfind s.xfers id with
  | none => s
  | some x =>
    match x.kind with
    | .stream pid step =>
      if !x.booked || !piecesDone s id then s
      else
        let g := s.grp x.group
        let slots := match passOf s x.group pid with
          | some p => (match p.stream with
            | some t => if t.side = 0 then (stepSlots g p step).1 else (stepSlots g p step).2
            | none => [])
          | none => []
        let (s1, y) := placeUnits s x fun u => (slots[u / 512]?).bind fun l => slotKey s x.group l (u % 512)
        let s2 := logUnits (logBytes { s1 with xfers := ndel s1.xfers id } x.group (20 * y.moved.length)) x.group (x.logKey id) x.pieces
        let s3 := modPass s2 x.group pid fun p => match y.stop with | none => p.arrive step | some o => p.halt step o s.now
        engineSettle s3 x.group
    | _ => s

/-- STREAM_LOAD (R316). -/
def execStreamLoad (id : Nat) (s : State) : Host.Outcome State Fault Refusal := .next (streamLoad id s)

/-! ### Passes (R313, R316) -/

/-- A reference's record and slot index (R313). -/
def refOf (n : Nat) : OpRef := { rcd := n % 16, idx := n / 256 % 128 }

/-- A reference of 15 bits with a nonzero bit outside its fields. -/
def refBad (n : Nat) : Bool := n / 16 % 16 != 0

/-- The parameters of a pass before its checks. -/
structure PassArgs where
  refA : Nat
  refB : Nat
  incA : Nat := 0
  incB : Nat := 0
  acc : Nat
  steps : Nat := 1
  /-- a nonzero bit outside the fields, or a field outside its limits -/
  bad : Bool := false
  stream : Option Stream := none
  deriving DecidableEq, Repr

/-- One side's slot indices are out of range, or odd where the side spans two slots (R313). -/
def sideBad (r : OpRec) (idx inc : Nat) (two : Bool) : Bool :=
  idx ≥ r.count || (two && (idx % 2 == 1 || inc % 2 == 1 || r.count % 2 == 1))

/-- A C4 record's codebook is neither valid nor on its way (R311). -/
def bookAbsent (s : State) (g : Group) (n : Nat) (r : OpRec) : Bool :=
  r.fmt == 4 && r.book.isNone &&
    !g.queue.any fun o => match o with
      | .xfer id => (nfind s.xfers id).any fun x => x.kind = .book n
      | _ => false

/-- The matrix fault of a pass, if any (R313, R327). -/
def passFault (s : State) (g : Group) (a : PassArgs) : Option Flt :=
  let ra := refOf a.refA
  let rb := refOf a.refB
  let bad4 := a.bad || refBad a.refA || refBad a.refB || a.refA ≥ 32768 || a.refB ≥ 32768 || a.acc ≥ 512 || a.acc / 32 % 8 != 0
  match recOf g ra.rcd, recOf g rb.rcd with
  | some x, some y =>
    matCause
      [(1, recUnclaimed g x || recUnclaimed g y || (nfind g.accs (a.acc % 32)).isNone), (2, !pairOk x.fmt y.fmt)
       , (3, sideBad x ra.idx a.incA (twoSlotA x.fmt y.fmt) || sideBad y rb.idx a.incB (twoSlotB x.fmt y.fmt)), (4, bad4)
       , (5, bookAbsent s g ra.rcd x || bookAbsent s g rb.rcd y)]
  | _, _ => some (matFlt 1)

/-- The next pass id: the count of passes, from 1, never 0 (R316). -/
def nextPid (n : Nat) : Nat := if (n + 1) % 2 ^ 32 = 0 then 1 else (n + 1) % 2 ^ 32

/-- The passes that a group keeps: its 16 most recent, and all that are not complete (R318). -/
def keepPasses (l : List Pass) : List Pass :=
  (l.zipIdx.filter fun p => p.1.done.isNone || l.length ≤ p.2 + 16).map (·.1)

/-- Post a pass: its id in every thread of the beat, their counters stepped, its entry in the reservation table (R316, R306, R321). -/
def postPass (f : Fields) (ks : List Nat) (k : Nat) (a : PassArgs) (s : State) : State :=
  let g := gidOf k
  let gr := s.grp g
  let pid := nextPid gr.passCount
  let p : Pass :=
    { pid := pid, seq := s.ids, refA := refOf a.refA, refB := refOf a.refB, incA := a.incA, incB := a.incB, acc := a.acc % 32
      zero := a.acc.testBit 8, steps := a.steps, limit := a.steps, stream := a.stream, link := gr.links.map fun l => (l.1, l.2.1)
      threads := k :: ks.filter (· ≠ k) }
  let s1 := s.fresh.modGrp g fun y =>
    { y with
      passCount := pid, passes := keepPasses (y.passes ++ [p])
      passLog := match y.replays, (nextEntry s k).units with | some _, some u => nset y.passLog pid u | _, _ => y.passLog }
  let s2 := ks.foldl (fun x j => x.modThr j fun t => { t with passes := t.passes + 1 }.wr f.d.toNat (BitVec.ofNat 32 pid)) s1
  enqueue s2 g (.pass pid)

/-- A pass word: not ready without an entry (R321). -/
def passWord (f : Fields) (ks : List Nat) (k : Nat) (a : PassArgs) (s : State) : Act :=
  let g := s.grpOf k
  if engineEntries s g.cluster ≥ 64 then .stay s
  else
    match passFault s g a with
    | some x => .fault x
    | none => .go (postPass f ks k a s)

/-- MMA: a pass of one step (R316). -/
def execMma (f : Fields) (s : State) : Host.Outcome State Fault Refusal :=
  issueGroup 0xD8 f (fun ks k s =>
    let t := s.thr k
    let r (j : BitVec 9) : Nat := (t.x j.toNat).toNat
    passWord f ks k { refA := r f.a, refB := r f.b, acc := r f.c } s) s

/-- The parameters of MLOOP's block (Table 18.6). -/
def loopArgs (f : Fields) (k : Nat) (s : State) : PassArgs :=
  let b := blockReg (s.thr k) f
  let n2 := b 2
  let str := n2.testBit 10
  let c := (s.thr k).cap f.a.toNat
  { refA := b 0 % 32768, refB := b 1 % 32768, incA := b 0 / 65536 % 256, incB := b 1 / 65536 % 256, acc := n2 % 512, steps := n2 / 65536
    bad := b 0 / 32768 % 2 != 0 || b 0 / 2 ^ 23 != 0 || b 1 / 32768 % 2 != 0 || b 1 / 2 ^ 23 != 0 || n2 / 4096 % 16 != 0 || n2.testBit 9 ||
      n2 / 65536 == 0 || (if str then b 3 % 64 != 0 else f.a != 0)
    stream := if str then some { side := n2 / 2048 % 2, va := c.cursor, inc := b 3, base := c.base, top := c.base + c.length, space := c.space }
      else none }

/-- MLOOP's capability and alignment checks for the first step's bytes, when it streams (R316). -/
def loopAccess (f : Fields) (k : Nat) (a : PassArgs) (s : State) : Option Flt :=
  match a.stream with
  | none => none
  | some t =>
    let g := s.grpOf k
    let fa := ((recOf g (refOf a.refA).rcd).map (·.fmt)).getD 0
    let fb := ((recOf g (refOf a.refB).rcd).map (·.fmt)).getD 0
    let two := if t.side = 0 then twoSlotA fa fb else twoSlotB fa fb
    accessFault s k ((s.thr k).cap f.a.toNat) permLD t.va (if two then 16384 else 8192) 64 [0, 3, 4]

/-- MLOOP: a pass of N steps (R316). -/
def execMloop (f : Fields) (s : State) : Host.Outcome State Fault Refusal :=
  issueGroup 0xD9 f (fun ks k s =>
    let a := loopArgs f k s
    match loopAccess f k a s with
    | some x => .fault x
    | none => passWord f ks k a s) s

/-! ### Accumulators seen from lanes (R320) -/

/-- MZERO (R320). -/
def execMzero (f : Fields) (s : State) : Host.Outcome State Fault Refusal :=
  issueGroup 0xD7 f (fun _ k s =>
    let g := gidOf k
    let ns := (List.range 32).filter fun i => ((s.thr k).x f.a.toNat).getLsbD i
    if ns.any fun n => (nfind (s.grp g).accs n).isNone then .fault (matFlt 1) else .go (enqueue s g (.mzero ns))) s

/-- The accumulator and the element that ACCRD and ACCWR name, or their fault (R320). -/
def accArgs (f : Fields) (k : Nat) (s : State) : Sum Flt (Nat × Nat) :=
  let t := s.thr k
  let a := (t.x f.a.toNat).toNat
  let e := (t.x f.b.toNat).toNat
  match matCause [(1, (nfind (s.grpOf k).accs (a % 32)).isNone), (4, a ≥ 32 || e ≥ 4096)] with
  | some x => .inl x
  | none => .inr (a, e)

/-- ACCRD (R320). -/
def execAccrd (f : Fields) (s : State) : Host.Outcome State Fault Refusal :=
  issue 0xDA f (fun k s =>
    match accArgs f k s with
    | .inl x => .fault x
    | .inr (a, e) =>
      let id := s.ids
      let s1 := startRet s k
        { th := k, kind := .word, dst := f.d.toNat, n := if f.d = 0 then 0 else 1, core := s.coreOf k, issued := s.now, pc := (s.thr k).pc }
      .go (enqueue s1 (gidOf k) (.accrd a e id))) s

/-- ACCWR (R320). -/
def execAccwr (f : Fields) (s : State) : Host.Outcome State Fault Refusal :=
  issue 0xDB f (fun k s =>
    match accArgs f k s with
    | .inl x => .fault x
    | .inr (a, e) => .go (enqueue s (gidOf k) (.accwr a e ((s.thr k).x f.c.toNat)))) s

/-! ### Status, cancelling, priority, links -/

/-- A pass whose status the group keeps: among its 16 most recent (R318). -/
def knownPass (g : Group) (v : Word) : Option Pass := (g.passes.reverse.take 16).find? fun p => p.pid = v.toNat

/-- The status word of a pass as it stands (Table 18.7). -/
def passStatus (p : Pass) : Word :=
  match p.done with
  | some w => w
  | none => BitVec.ofNat 32 (2 ^ 16 + p.applied)

/-- The status of an unknown id: OUT 3, DET 4 (R318). -/
def unknownPass : Word := BitVec.ofNat 32 (3 * 2 ^ 30 + 4 * 2 ^ 24)

/-- Write P with a tick to the time register of some returns that are bound to it. -/
def reportAll (s : State) (rets : List Nat) (rep : TReg → TReg) : State :=
  rets.foldl (fun x r => match nfind x.rets r with | some v => report x v.th v.treg r rep | none => x) s

/-- Land some returns that bring no word, with what they report to their time registers. -/
def landAll (s : State) (rets : List Nat) (rep : Nat → TReg → TReg) : State :=
  rets.foldl (fun x r => match nfind x.rets r with | some v => landRet x r v (some []) false (rep v.th) | none => x) s

/-- P at a tick that a thread reads on its die. -/
def atTick (s : State) (k tick : Nat) : TReg → TReg := fun _ => { p := true, tick := s.onDie (s.dieOf k) tick }

/-- MSTAT.time (R318): the estimate at issue + 2, the firm tick once the last step is granted, which ends the binding (R193); in a deterministic launch P with the start
tick after the pass completes (R332). -/
def execMstatTime (f : Fields) (s : State) : Host.Outcome State Fault Refusal :=
  issueGroup 0xDD f (fun ks k s =>
    let g := gidOf k
    let r : Ret := { th := k, kind := .word, treg := some f.d.toNat }
    match knownPass (s.grp g) ((s.thr k).x f.a.toNat) with
    | none => .go (startAlike s ks { r with est := true, phase := .read (s.now + 2) }).1
    | some p =>
      if p.done.isSome then
        let (s1, ids) := startAlike s ks r
        .go (landAll s1 ids fun j => if s.det j then fun _ => { p := true, tick := s.startOf j } else atTick s j p.doneAt)
      else
        let known := p.firm.isSome && !s.det k
        let (s1, ids) := startAlike s ks (if s.det k || known then r else { r with est := true, phase := .probe (s.now + 2) 0 0 })
        .go (if known then landAll s1 ids fun j => atTick s j (p.firm.getD 0)
          else modPass s1 g p.pid fun q => { q with watch := q.watch ++ ids })) s

/-- MSTAT.wait, and MSTAT.peek in a deterministic launch (R318, R332). -/
def statWait (f : Fields) (ks : List Nat) (k : Nat) (s : State) : State :=
  let g := gidOf k
  let r : Ret := { th := k, kind := .word, dst := f.d.toNat, n := if f.d = 0 then 0 else 1 }
  let now (w : Word) : State := (startAlike s ks { r with data := bytesOfNat w.toNat 4, phase := .read (s.now + 2) }).1
  match knownPass (s.grp g) ((s.thr k).x f.a.toNat) with
  | none => now unknownPass
  | some p =>
    match p.done with
    | some w => now w
    | none =>
      let (s1, ids) := startAlike s ks r
      modPass s1 g p.pid fun q => { q with waits := q.waits ++ ids }

/-- MSTAT.wait (R318). -/
def execMstatWait (f : Fields) (s : State) : Host.Outcome State Fault Refusal :=
  issueGroup 0xDD f (fun ks k s => .go (statWait f ks k s)) s

/-- MSTAT.peek: the word at issue + 2 (R318). -/
def execMstatPeek (f : Fields) (s : State) : Host.Outcome State Fault Refusal :=
  issueGroup 0xDD f (fun ks k s =>
    if s.det k then .go (statWait f ks k s)
    else
      let w := match knownPass (s.grpOf k) ((s.thr k).x f.a.toNat) with | some p => passStatus p | none => unknownPass
      .go (startAlike s ks
        { th := k, kind := .word, dst := f.d.toNat, n := if f.d = 0 then 0 else 1, data := bytesOfNat w.toNat 4
          phase := .read (s.now + 2) }).1) s

/-- MCANCEL.pass (R323). -/
def execMcancelPass (f : Fields) (s : State) : Host.Outcome State Fault Refusal :=
  issueGroup 0xDE f (fun _ k s => .go (modPass s (gidOf k) ((s.thr k).x f.a.toNat).toNat Pass.cancel)) s

/-- MCANCEL.all (R323). -/
def execMcancelAll (f : Fields) (s : State) : Host.Outcome State Fault Refusal :=
  issueGroup 0xDE f (fun _ k s => .go (s.modGrp (gidOf k) fun g => { g with passes := g.passes.map Pass.cancel })) s

/-- MPRIO (R324). -/
def execMprio (f : Fields) (s : State) : Host.Outcome State Fault Refusal :=
  issueGroup 0xDF f (fun _ k s => .go (s.modGrp (gidOf k) fun g => { g with mprio := f.imm18.toNat % 4 })) s

/-- One BAR.ARR update by the engine (R326, R255). -/
def engineArrive (s : State) (key : Nat) : State := wakeWriters (barArrive s key).2 key 16

/-- MLINK.arr: at once for a pass that is complete or unknown, else when it completes (R326). -/
def execMlinkArr (f : Fields) (s : State) : Host.Outcome State Fault Refusal :=
  issueGroup 0xDC f (fun ks k s => onObject f k s fun s key =>
    let (s1, ids) := startAlike s ks { th := k, kind := .word, treg := some f.time }
    let pending := (knownPass (s.grpOf k) ((s.thr k).x f.d.toNat)).any fun p => p.done.isNone
    .go (if pending then
      modPass s1 (gidOf k) ((s.thr k).x f.d.toNat).toNat fun p => { p with arrivals := p.arrivals ++ [(key, ids)] }
    else landAll (engineArrive s1 key) ids fun j => atTick s j s.now)) s

/-- A link of a group is met: its returns receive the tick, and its passes are no longer held by it (R326). -/
def linkMet (s : State) (g : Nat) (l : Nat × Word × List Nat) : State :=
  let s1 := s.modGrp g fun gr =>
    { gr with
      links := gr.links.filter (· ≠ l)
      passes := gr.passes.map fun p => { p with link := p.link.filter (· ≠ (l.1, l.2.1)) } }
  engineSettle (landAll s1 l.2.2 fun j => atTick s j s.now) g

/-- A link of a resident group whose object's generation has passed the ticket (R326). -/
def linkDue (s : State) : Option (Nat × (Nat × Word × List Nat)) :=
  s.groups.findSome? fun p =>
    if p.2.residency ≠ .resident then none
    else (p.2.links.find? fun l => barPast (barGen s l.1) l.2.1).map fun l => (p.1, l)

/-- MLINK.wait: the passes that the group posts from now on are held until the generation has passed the ticket (R326). -/
def execMlinkWait (f : Fields) (s : State) : Host.Outcome State Fault Refusal :=
  issueGroup 0xDC f (fun ks k s => onObject f k s fun s key =>
    let (s1, ids) := startAlike s ks { th := k, kind := .word, treg := some f.time }
    let l := (key, (s.thr k).x f.d.toNat, ids)
    let s2 := s1.modGrp (gidOf k) fun g => { g with links := g.links ++ [l] }
    .go (if barPast (barGen s key) l.2.1 then linkMet s2 (gidOf k) l else s2)) s

/-! ### Grants (R319, R321) -/

/-- The ticks of 16 cluster cycles (R319). -/
def stepTicks (s : State) (cluster : Nat) : Nat := ceilDiv (16 * 1250) (s.cluster cluster).mhz

/-- Whether a pass's next step may be granted (R321). -/
def eligible (s : State) (g : Group) (p : Pass) : Bool :=
  p.done.isNone && p.granted < p.limit && p.link.isEmpty && (p.stream.isNone || p.granted < p.loaded) && !bookMissing s g p && !passWaits s g p

/-- The eligible entries of a cluster: group, pass, priority; none of a group that is being saved (R329). -/
def candidates (s : State) (cluster : Nat) : List (Nat × Pass × Nat) :=
  s.groups.flatMap fun p =>
    if p.2.cluster = cluster && p.2.residency = .resident && !saving s p.1 then
      (p.2.passes.filter (eligible s p.2)).map fun q => (p.1, q, p.2.mprio)
    else []

/-- The better of two entries: the greater score 64·p + W, then the one posted first (R321). -/
def betterEntry (a b : Nat × Pass × Nat) : Bool :=
  let score (e : Nat × Pass × Nat) : Nat := 64 * e.2.2 + e.2.1.wait
  score b < score a || (score a == score b && a.2.1.seq < b.2.1.seq)

/-- Grant a step of a pass; the firm tick is known when it is the last (R319). -/
def Pass.grant (p : Pass) (tick : Nat) : Pass :=
  { p with
    granted := p.granted + 1, wait := 0, due := p.due ++ [tick]
    firm := if p.granted + 1 = p.limit ∧ p.stop.isNone then some tick else p.firm }

/-- ENGINE_GRANT: at a step boundary, or when the engine is idle, the best entry is granted a step (R321). -/
def engineGrant (cluster : Nat) (s : State) : State :=
  let cs := candidates s cluster
  match cs with
  | [] => s
  | c :: rest =>
    if s.now < (s.cluster cluster).engine then s
    else
      let best := rest.foldl (fun b e => if betterEntry e b then e else b) c
      let tick := s.now + stepTicks s cluster + 4
      let named (g pid : Nat) : Bool := cs.any fun e => e.1 = g && e.2.1.pid = pid
      let mark (g : Nat) (q : Pass) : Pass :=
        if g = best.1 && q.pid = best.2.1.pid then q.grant tick
        else if named g q.pid then { q with wait := min (q.wait + 1) 4095 }
        else { q with wait := 0 }
      let gs : NMap Group := s.groups.map fun p =>
        if p.2.cluster = cluster then (p.1, { p.2 with passes := p.2.passes.map (mark p.1) }) else p
      let s1 : State := { s with groups := gs }
      let s2 := s1.modCluster cluster fun c => { c with engine := s.now + stepTicks s cluster }
      match passOf s2 best.1 best.2.1.pid with
      | some p =>
        if p.firm.isSome then
          let (later, now) := p.watch.partition fun r => (nfind s2.rets r).any fun v => s.det v.th
          landAll (modPass s2 best.1 p.pid fun q => { q with watch := later }) now fun j => atTick s j tick
        else s2
      | none => s2

/-- ENGINE_GRANT (R321). -/
def execEngineGrant (cluster : Nat) (s : State) : Host.Outcome State Fault Refusal := .next (engineGrant cluster s)

/-! ### A step (R304, R310, R314, R315) -/

/-- The bytes of a range of memory that is read at many places: its cells picked out once. -/
def bulkBytes (s : State) (key n : Nat) : Array Byte :=
  let cells := s.mem.filter fun c => key ≤ c.1 && c.1 < key + n
  ((List.range' key n).map (Memory.read cells)).toArray

/-- One side of a step: its record, its slots' bytes, its scale slot's bytes, the index of its first slot in the record. -/
structure Side where
  rcd : OpRec
  slots : List (Array Byte)
  scales : Array Byte
  idx : Nat

/-- The code of element k of a line (Table 18.1). -/
def elemCode (fmt : Nat) (a : Array Byte) (line k : Nat) : Nat :=
  let b (i : Nat) : Nat := (a.getD (128 * line + i) 0).toNat
  match fmt with
  | 0 => b (2 * k) + 256 * b (2 * k + 1)
  | 4 => b (k / 2) / (if k % 2 = 0 then 1 else 16) % 16
  | _ => b k

/-- The value of a code (R304, R311). -/
def codeValue (r : OpRec) (c : Nat) : Real :=
  match r.fmt with
  | 0 => bf16.read false c
  | 1 => e4m3.read false c
  | 2 => e5m2.read false c
  | 3 => if c < 128 then .fin false c 0 else .fin true (256 - c) 0
  | _ => bf16.read false ((r.book.getD []).getD c 0).toNat

/-- The scale of element k of a line of the record's slot r (R310). -/
def scaleOf (d : Side) (slot line k : Nat) : Real :=
  let kk := kOf d.rcd.fmt
  let bl := 32 * 2 ^ d.rcd.blk
  let e := (d.scales.getD (d.rcd.soff + slot * (64 * kk / bl) + line * (kk / bl) + k / bl) 0).toNat
  if e = 255 then .nan else .fin false 1 ((e : Int) - 127)

/-- Element k of a line of a side, exactly (R314). -/
def Side.value (d : Side) (line k : Nat) : Real :=
  let kk := kOf d.rcd.fmt
  let v := codeValue d.rcd (elemCode d.rcd.fmt (d.slots.getD (k / kk) #[]) line (k % kk))
  if d.rcd.sc then mulR v (scaleOf d (d.idx + k / kk) line (k % kk)) else v

/-- The signed byte at k of a line (R315). -/
def Side.byte (d : Side) (line k : Nat) : Int := ((d.slots.getD 0 #[]).getD (128 * line + k) 0).toInt

/-- Round32 under RNE. -/
def round32 (v : Real) : Real := fp32.read false (fp32.round .rne false v)

/-- The exact sum of some reals. -/
def sumR (l : List Real) : Real :=
  match l with
  | [] => .fin false 0 0
  | x :: xs => xs.foldl (addR false) x

/-- The blocks of 16 products, each summed exactly and rounded once. -/
def blockSums (l : List Real) (n : Nat) : List Real :=
  match n with
  | 0 => []
  | n + 1 => round32 (sumR (l.take 16)) :: blockSums (l.drop 16) n

/-- One level of the pairwise tree. -/
def pairSums : List Real → List Real
  | a :: b :: r => round32 (addR false a b) :: pairSums r
  | l => l

/-- The whole tree, of `n` levels. -/
def treeSum (l : List Real) (n : Nat) : Real :=
  match n with
  | 0 => l.headD (.fin false 0 0)
  | n + 1 => treeSum (pairSums l) n

/-- An element's new value on the FP path (R314). -/
def fpElem (va vb : List Real) (kk : Nat) (old : Word) : Word :=
  let s0 := treeSum (blockSums (va.zipWith mulR vb) (kk / 16)) (Nat.log2 (kk / 16))
  BitVec.ofNat 32 (fp32.round .rne false (addR false (fp32.read false old.toNat) s0))

/-- An element's new value on the integer path (R315). -/
def intElem (va vb : List Int) (old : Word) : Word := old + BitVec.ofInt 32 ((va.zipWith (· * ·) vb).foldl (· + ·) 0)

/-- The 4,096 new elements of a step, row by row. -/
def stepElems (a b : Side) (old : List Word) : List Word :=
  let lines := List.range 64
  if a.rcd.fmt = 3 && !a.rcd.sc && !b.rcd.sc then
    let ints (d : Side) : List (List Int) := lines.map fun l => (List.range 128).map (d.byte l)
    let vb := ints b
    ((ints a).flatMap fun ra => vb.map fun rb => (ra, rb)).zipWith (fun p o => intElem p.1 p.2 o) old
  else
    let kk := max (kOf a.rcd.fmt) (kOf b.rcd.fmt)
    let reals (d : Side) : List (List Real) := lines.map fun l => (List.range kk).map (d.value l)
    let vb := reals b
    ((reals a).flatMap fun ra => vb.map fun rb => (ra, rb)).zipWith (fun p o => fpElem p.1 p.2 kk o) old

/-- A side of a step as its slots stand. -/
def sideOf (s : State) (g : Nat) (r : OpRec) (slots : List Nat) (idx : Nat) : Side :=
  let bytes (l : Nat) : Array Byte := match slotKey s g l 0 with | some key => bulkBytes s key 8192 | none => #[]
  { rcd := r, slots := slots.map bytes, scales := if r.sc then bytes r.sslot else #[], idx := idx }

/-- Apply a step of a pass to its accumulator, indivisibly (R314, R315); an uncorrectable error in a slot that it reads stops the pass,
and marks the elements poisoned (R328). -/
def stepApply (s : State) (g : Nat) (p : Pass) : State :=
  let gr := s.grp g
  let (ra, rb) := passRecs gr p
  let (sa, sb) := stepSlots gr p p.applied
  let phys := ((nfind gr.accs p.acc).map (·.phys)).getD 32
  let base := accBase gr.cluster phys
  let poisoned := (sa ++ sb ++ scaleSlots gr p).any fun l => (slotKey s g l 0).any fun key => poisonedAt s key 8192
  let s0 := if p.zero && p.applied = 0 && phys < 32 then zeroAcc s gr.cluster phys else s
  if poisoned then
    machineCheck
      (modPass { s0 with accPoison := (List.range' base 4096).foldl sput s0.accPoison } g p.pid fun q =>
        { q with limit := q.applied, granted := q.applied, due := [], firm := none, stop := some (3, 3) })
      { cause := 2, sev := 1, unit := 9, die := dieOfCluster gr.cluster, who := (s.thr (p.threads.headD 0)).owner }
  else
    let old := (List.range' base 4096).map fun i => nget s0.accs i 0
    let new := stepElems (sideOf s g ra sa ((p.refA.idx + p.applied * p.incA) % max ra.count 1))
      (sideOf s g rb sb ((p.refB.idx + p.applied * p.incB) % max rb.count 1)) old
    modPass (if phys < 32 then putAcc s0 gr.cluster phys new else s0) g p.pid fun q => 
      { q with applied := q.applied + 1, due := q.due.drop 1, doneAt := s.now }

/-- The number of an entry of a reservation table: its group and its pass. -/
def entryId (g pid : Nat) : Nat := g * 2 ^ 32 + pid

/-- STEP_APPLY: a granted step is applied at its tick (R319). -/
def applyDue (id : Nat) (s : State) : State :=
  match passOf s (id / 2 ^ 32) (id % 2 ^ 32) with
  | none => s
  | some p => if p.due.any (· ≤ s.now) then engineSettle (stepApply s (id / 2 ^ 32) p) (id / 2 ^ 32) else s

/-- STEP_APPLY (R319). -/
def execStepApply (id : Nat) (s : State) : Host.Outcome State Fault Refusal := .next (applyDue id s)

/-- Whether a pass has come to its end: every step that it may be granted is applied. -/
def Pass.ended (p : Pass) : Bool := p.done.isNone && p.due.isEmpty && p.granted ≥ p.limit

/-- PASS_COMPLETE: the status, the counters, what waits for it, and its linked arrivals (R316, R317, R318, R326). One that an absent page stopped
completes at the application of its last step, or at its stop (R334); of one that stopped so before its first step the zeroing stays, in its place in group order, so
that the pass that continues it leaves the same bits (R333, R307). -/
def passComplete (id : Nat) (s : State) : State :=
  let g := id / 2 ^ 32
  match passOf s g (id % 2 ^ 32) with
  | none => s
  | some p =>
    if !p.ended then s
    else
      let (out, det) := p.stop.getD (0, 0)
      let w : Word := BitVec.ofNat 32 (out * 2 ^ 30 + det * 2 ^ 24 + p.applied)
      let at_ := if out = 1 then (if p.applied > 0 then p.doneAt else p.stopAt) else s.now
      let left : List EngOp := if out = 1 && p.zero && p.applied = 0 then [.mzero [p.acc]] else []
      let s1 := modPass s g p.pid fun q => { q with done := some w, doneAt := at_, watch := [], waits := [], arrivals := [] }
      let s2 := p.threads.foldl (fun x k => x.modThr k fun t =>
        let u := { t with passes := t.passes - 1 }
        if out = 1 then u.setStatus statusNRES else u) s1
      let s3 := landAll s2 p.watch fun j => if s.det j then fun _ => { p := true, tick := s.startOf j } else atTick s j at_
      let s4 := landLater s3 p.waits w (s.now + 2)
      let s5 := p.arrivals.foldl (fun x a => landAll (engineArrive x a.1) a.2 fun j => atTick s j s.now) s4
      engineSettle (s5.modGrp g fun gr =>
        { gr with queue := gr.queue.flatMap (fun o => if o = .pass p.pid then left else [o]), passes := keepPasses gr.passes }) g

/-- PASS_COMPLETE (R316). -/
def execPassComplete (id : Nat) (s : State) : Host.Outcome State Fault Refusal := .next (passComplete id s)

end Sys2Proof.Machine
end

