-- ==== Sys2Proof/Machine/Work.lean ====
section
/-! DEFINITION. Class 0xE (spec/20): launch records and kernel headers, the work hierarchy, cancelling, and the queries. -/

namespace Sys2Proof.Machine

/-! ### Kernel headers (R336) -/

/-- A field of a word. -/
def bitsOf (w lo n : Nat) : Nat := w / 2 ^ lo % 2 ^ n

/-- The general registers of a thread, rounded (R18). -/
def roundRegs (n : Nat) : Nat := (n + 7) / 8 * 8

/-- The rows of a kernel that one core holds (R18). -/
def rowsPerCore (regs : Nat) : Nat := min 16 (2048 / regs)

/-- The rows of a group that stand on the core of a position (R19). -/
def rowsAt (rows j : Nat) : Nat := (rows + 3 - j) / 4

/-- Whether a word of a kernel header breaks Table 20.2, or shows that no group could ever fit on a cluster (R336). -/
def headerWordBad (ws : List Nat) (i : Nat) : Bool :=
  let w := ws.getD i 0
  match i with
  | 0 => w == 0 || w ≥ 2 ^ 24
  | 1 =>
    bitsOf w 28 4 != 0 || bitsOf w 20 6 > bitsOf w 14 6 || bitsOf w 9 5 > 16 ||
      rowsAt (bitsOf w 14 6 + 1) 0 > rowsPerCore (roundRegs (bitsOf w 0 9 + 1))
  | 2 | 3 => w > 65536
  | 4 => bitsOf w 26 6 != 0 || bitsOf w 5 11 != 0 || bitsOf w 16 10 > 768
  | 5 | 6 => false
  | 7 => w > 65536 || 64 * (w + ws.getD 2 0) > Config.sramBytes
  | 8 => w > 1048576
  | _ => w != 0

/-- The first bad word of a kernel header. -/
def headerBadWord (ws : List Nat) : Option Nat := (List.range 16).find? (headerWordBad ws)

/-- What a kernel header gives (Table 20.2). -/
def kernelOf (ws : List Nat) : Kernel :=
  let w (i : Nat) : Nat := ws.getD i 0
  { extent := w 0
    regs := roundRegs (bitsOf (w 1) 0 9 + 1)
    tregs := bitsOf (w 1) 9 5
    rows := bitsOf (w 1) 14 6 + 1
    producer := bitsOf (w 1) 20 6
    det := bitsOf (w 1) 26 1 == 1
    idemk := bitsOf (w 1) 27 1 == 1
    clusterBytes := 64 * w 2
    privateBytes := 16 * w 3
    feat := bitsOf (w 4) 0 5
    canon := bitsOf (w 4) 16 10
    splits := (List.range 8).map fun j => bitsOf (w (5 + j / 4)) (8 * (j % 4)) 8
    shareBytes := 64 * w 7
    dieBytes := 64 * w 8 }

/-! ### Launch records (R338) -/

/-- A control word of a record. -/
def LaunchRec.word (r : LaunchRec) (i : Nat) : Nat := r.words.getD i 0

/-- A capability slot of a record. -/
def LaunchRec.slot (r : LaunchRec) (i : Nat) : CapReg :=
  { w0 := BitVec.ofNat 32 (r.word (4 * i)), w1 := BitVec.ofNat 32 (r.word (4 * i + 1)), w2 := BitVec.ofNat 32 (r.word (4 * i + 2))
    w3 := BitVec.ofNat 32 (r.word (4 * i + 3)), tag := r.tags.getD i false }

/-- The fields of Table 20.3. -/
def LaunchRec.gx (r : LaunchRec) : Nat := bitsOf (r.word 16) 0 16
def LaunchRec.gy (r : LaunchRec) : Nat := bitsOf (r.word 16) 16 16
def LaunchRec.gz (r : LaunchRec) : Nat := bitsOf (r.word 17) 0 16
def LaunchRec.groups (r : LaunchRec) : Nat := r.gx * r.gy * r.gz
def LaunchRec.pmode (r : LaunchRec) : Nat := bitsOf (r.word 17) 16 2
def LaunchRec.pdie (r : LaunchRec) : Nat := bitsOf (r.word 17) 18 4
def LaunchRec.ratio (r : LaunchRec) : Nat := bitsOf (r.word 17) 22 2
def LaunchRec.llog (r : LaunchRec) : Nat := bitsOf (r.word 17) 24 4
def LaunchRec.prio (r : LaunchRec) : Nat := bitsOf (r.word 17) 28 2
def LaunchRec.gmode (r : LaunchRec) : Nat := bitsOf (r.word 18) 0 2
def LaunchRec.dep (r : LaunchRec) : Bool := bitsOf (r.word 18) 2 1 == 1

/-- Read a record in cluster space, with its tags (R127, R338). -/
def readRecord (s : State) (key : Nat) : LaunchRec :=
  { words := (List.range 32).map fun i => rdNat s (key + 4 * i) 4
    tags := (List.range 4).map fun i => s.memTags.contains (key / 16 + i) }

/-- An empty capability slot. -/
def emptySlot (c : CapReg) : Bool := !c.tag && c.w0 == 0 && c.w1 == 0 && c.w2 == 0 && c.w3 == 0

/-- A capability may be placed in a record: tagged, with some permissions, in some spaces. -/
def slotHas (c : CapReg) (p : BitVec 6) (spaces : List Nat) : Bool := c.tag && c.has p && spaces.contains c.space

/-- A capability's bounds cover some bytes from its cursor. -/
def coversAt (c : CapReg) (n : Nat) : Bool := c.base ≤ c.cursor && c.cursor + n ≤ c.base + c.length

/-- The words of the kernel header that KCAP names; where no page is present they read as 0, which no header may hold (R336). -/
def headerWords (s : State) (tenant : Nat) (kcap : CapReg) : List Nat :=
  match keyNow s tenant kcap.cursor with
  | some key => (List.range 16).map fun i => rdNat s (key + 4 * i) 4
  | none => []

/-- Whether a cluster lies in a tenant's partition. -/
def inPartition (s : State) (tenant c : Nat) : Bool := ((s.tenant tenant).part.getD (c / 32) 0).getLsbD (c % 32)

/-- The clusters of a tenant's partition. -/
def partition (s : State) (tenant : Nat) : List Nat := (List.range Config.nClusters).filter (inPartition s tenant)

/-- The cores of a cluster. -/
def coresOf (c : Nat) : List Nat := [4 * c, 4 * c + 1, 4 * c + 2, 4 * c + 3]

/-- The live cores of a tenant's partition. -/
def partitionCores (s : State) (tenant : Nat) : List Nat := ((partition s tenant).flatMap coresOf).filter s.liveCore

/-- Whether a core has some features. -/
def coreCovers (s : State) (feat c : Nat) : Bool := (s.featOf c &&& feat) == feat

/-- Whether a die may hold groups of a launch: it is live, and has a cluster of the partition (R339 status 5). -/
def dieAllowed (s : State) (tenant d : Nat) : Bool :=
  d < Config.nDies && s.liveDie d && (List.range' (12 * d) 12).any (inPartition s tenant)

/-- The die that the placement map names for a group: a byte of a page that is not there reads as 0 (R346, R209). -/
def mapByte (s : State) (tenant : Nat) (mcap : CapReg) (g : Nat) : Nat :=
  match keyNow s tenant ((mcap.cursor + g) % 2 ^ 52) with
  | some key => rdNat s key 1
  | none => 0

/-- The launch that a handle names, if it is live (R344): one that has completed is, until its slot is used again (R340). -/
def liveHandle (s : State) (h : Nat) : Option Nat :=
  match nfind s.launches (h % 4096) with
  | some l => if h / 4096 = l.gen then some (h % 4096) else none
  | none => none

/-- Whether a word of a record breaks R338, and for a host submission R422. -/
def recordWordBad (s : State) (tenant : Nat) (host : Bool) (r : LaunchRec) (i : Nat) : Bool :=
  match i with
  | 0 =>
    let k := r.slot 0
    !(slotHas k (permLD ||| permXL) [0, 3] && coversAt k 64 &&
      coversAt k (64 + 8 * bitsOf ((headerWords s tenant k).getD 0 0) 0 24))
  | 4 => !(emptySlot (r.slot 1) || slotHas (r.slot 1) permXL [0, 3])
  | 8 => !(emptySlot (r.slot 2) || slotHas (r.slot 2) permXL [0, 4])
  | 12 => r.pmode == 2 && !(slotHas (r.slot 3) permLD [0, 3] && coversAt (r.slot 3) r.groups)
  | 16 => r.gx == 0 || r.gy == 0
  | 17 =>
    r.gz == 0 || r.pmode == 3 || !(r.llog == 0 || (5 ≤ r.llog && r.llog ≤ 10)) || r.prio > (s.tenant tenant).pcap ||
      bitsOf (r.word 17) 30 2 != 0
  | 18 => r.word 18 ≥ 8 || (host && r.word 18 != 0)
  | 19 | 20 => false
  | _ => 21 ≤ i && r.word i != 0

/-- The status and the detail of a record and its header, 0 for a good one (Table 20.4, but for what is full and for R422). A header
that is not aligned to 64 names its word 0. -/
def checkRecord (s : State) (tenant : Nat) (host : Bool) (r : LaunchRec) : Nat × Nat :=
  let ws := headerWords s tenant (r.slot 0)
  let k := kernelOf ws
  match (List.range 32).find? (recordWordBad s tenant host r) with
  | some i => (3, i)
  | none =>
    if (r.slot 0).cursor % 64 != 0 then (4, 0)
    else
      match headerBadWord ws with
      | some i => (4, i)
      | none =>
        if !((partitionCores s tenant).any (coreCovers s k.feat)) then (4, 4)
        else if (r.pmode == 1 && !dieAllowed s tenant r.pdie) ||
            (r.pmode == 2 && (List.range r.groups).any fun g => !dieAllowed s tenant (mapByte s tenant (r.slot 3) g)) then (5, 0)
        else if (r.dep && (liveHandle s (r.word 20)).isNone) || (r.gmode == 3 && (liveHandle s (r.word 19)).isNone) then (6, 0)
        else
          match (if k.det then (List.range 8).find? fun j => k.splits.getD j 1 == 0 else none) with
          | some j => (7, j)
          | none => (0, 0)

/-! ### Placing a launch in the larder (R339, R343) -/

/-- Graph, phase and job records that are in use: those not complete (R339). -/
def openGraphs (s : State) : Nat := (s.graphs.filter fun p => graphOpen s p.1 != 0).length
def openPhases (s : State) : Nat := (s.phases.filter fun p => phaseOpen s p.1 != 0).length
def openJobs (s : State) : Nat := (s.jobs.filter fun p => jobOpen s p.1 != 0).length

/-- What is full for a record: the larder, a work table (Table 20.4 statuses 1 and 2). -/
def recordFull (s : State) (host : Bool) (gmode : Nat) : Nat × Nat :=
  if (freeSlot s).isNone then (1, 0)
  else if (host || gmode == 1 || gmode == 2) && openGraphs s ≥ 1024 then (2, 1)
  else if (host || gmode == 2) && openPhases s ≥ 256 then (2, 2)
  else if host && openJobs s ≥ 64 then (2, 2)
  else (0, 0)

/-- A new record of work in a table, under a parent. -/
def newGraph (s : State) (parent : Nat) : State × Nat := ({ s with ids := s.ids + 1, graphs := nset s.graphs s.ids { parent := parent } }, s.ids)
def newPhase (s : State) (parent : Nat) : State × Nat := ({ s with ids := s.ids + 1, phases := nset s.phases s.ids { parent := parent } }, s.ids)
def newJob (s : State) : State × Nat := ({ s with ids := s.ids + 1, jobs := nset s.jobs s.ids {} }, s.ids)

/-- The graph that a launch joins: by GMODE for one of a launch, a new job for one of the host (R343, R422). -/
def joinGraph (s : State) (issuer : Option Nat) (r : LaunchRec) : State × Nat :=
  match issuer with
  | none =>
    let (s1, j) := newJob s
    let (s2, p) := newPhase s1 j
    newGraph s2 p
  | some l =>
    let g := (s.lch l).graph
    let p := (nget s.graphs g {}).parent
    match r.gmode with
    | 0 => (s, g)
    | 1 => newGraph s p
    | 2 =>
      let (s1, q) := newPhase s (nget s.phases p {}).parent
      newGraph s1 q
    | _ => (s, ((liveHandle s (r.word 19)).map fun i => (s.lch i).graph).getD g)

/-- The next generation of a larder slot: modulo 2^19, skipping 0 (R339). -/
def nextGen (s : State) (slot : Nat) : Nat :=
  let g := ((nfind s.launches slot).map (·.gen)).getD 0
  if (g + 1) % 2 ^ 19 = 0 then 1 else (g + 1) % 2 ^ 19

/-- The handle of a launch (R344). -/
def handleOf (s : State) (slot : Nat) : Word := BitVec.ofNat 32 ((s.lch slot).gen * 4096 + slot)

/-- Place an accepted record in a larder slot: its launch. `after` is what must be complete before it starts. -/
def placeRecord (s : State) (slot tenant : Nat) (system : Bool) (issuer : Option Nat) (after : List Nat) (r : LaunchRec) : State :=
  let ws := headerWords s tenant (r.slot 0)
  let (s1, g) := joinGraph s issuer r
  let l : Launch :=
    { gen := nextGen s slot, tenant := tenant, system := system, root := issuer.isNone, kernel := kernelOf ws
      kcap := r.slot 0, acap := r.slot 1, wcap := r.slot 2, mcap := r.slot 3
      gx := r.gx, gy := r.gy, gz := r.gz, pmode := r.pmode, pdie := r.pdie, ratio := r.ratio
      lease := if r.llog = 0 then 128 else 2 ^ r.llog, prio := r.prio
      dep := if r.dep then some (r.word 20) else none, graph := g, after := after, order := s.ids
      todo := List.range r.groups, open_ := r.groups
      dies := if r.pmode = 2 then (List.range r.groups).map fun i => (i, mapByte s tenant (r.slot 3) i) else []
      audit := s.csrs.audctl }
  { s1 with ids := s1.ids + 1, launches := nset s1.launches slot l }

/-- The status word of a record that is not accepted (R339). -/
def launchStatus (st : Nat × Nat) : Word := BitVec.ofNat 32 (2 ^ 31 + st.2 * 256 + st.1)

/-! ### LAUNCH and LAUNCHW -/

/-- What a launch of a thread waits for: its stores, atomics and copy writes so far (R341, R342). -/
def issuedBefore (s : State) (k : Nat) : List Nat :=
  ((s.upds.filter fun p => p.2.th = some k).map (·.1)) ++ ((s.xfers.filter fun p => p.2.threads.contains k && p.2.writes).map (·.1))

/-- The record that a thread names still waits for a store of that thread, or lies in a tile that fills (R202, R292). -/
def recordHeld (s : State) (k key : Nat) : Bool :=
  inFilling s key 128 || (updsOf s k).any fun u => u.unapplied && meets u.key u.bytes key 128

/-- Land a word in x[D] two ticks on; the time register has the tick of this issue (R339). -/
def launchAnswer (f : Fields) (k : Nat) (s : State) (w : Word) : State :=
  let id := s.ids
  let s1 := startRet s k
    { th := k, kind := .word, dst := f.d.toNat, n := if f.d = 0 then 0 else 1, treg := some f.time, core := s.coreOf k, issued := s.now
      pc := (s.thr k).pc, data := bytesOfNat w.toNat 4, phase := .read (s.now + 2) }
  report s1 k (some f.time) id fun t => { t with p := true, tick := s.nowOf k }

/-- The answer of a LAUNCHW that has waited: its handle lands two ticks on, and its time register has this tick (R339). -/
def larderAnswer (s : State) (k ret : Nat) (w : Word) : State :=
  match nfind s.rets ret with
  | none => s
  | some r =>
    (report s k r.treg ret fun t => { t with p := true, tick := s.nowOf k }).modRet ret fun v =>
      { v with data := bytesOfNat w.toNat 4, phase := .read (s.now + 2) }

/-- Accept a thread's record: its launch, and the handle (R339, R341). -/
def acceptRecord (s : State) (k : Nat) (r : LaunchRec) : State × Word :=
  let me := (s.grpOf k).launch
  let slot := (freeSlot s).getD 0
  let s1 := placeRecord s slot (s.lch me).tenant false (some me) (issuedBefore s k) r
  (s1, handleOf s1 slot)

/-- LAUNCH and LAUNCHW (R339): `wait` parks the thread while the larder or a work table is full; its record has been read and checked once. -/
def launchWord (wait : Bool) (f : Fields) (k : Nat) (s : State) : Act :=
  let a := addrOf s k f
  match accessFault s k (capA s k f) (permLD ||| permCL) a 128 16 [1] with
  | some x => .fault x
  | none =>
    let key := directKey s k 1 a
    if recordHeld s k key then .stay s
    else if poisonedAt s key 128 then .fault { cause := causePoison, addr := a }
    else
      let r := readRecord s key
      let st := checkRecord s (s.lchOf k).tenant false r
      let full := recordFull s false r.gmode
      if st.1 != 0 then .go (launchAnswer f k s (launchStatus st))
      else if full.1 != 0 then
        if wait then
          .set ((startRet s k
            { th := k, kind := .word, dst := f.d.toNat, n := if f.d = 0 then 0 else 1, treg := some f.time, core := s.coreOf k
              issued := s.now, pc := (s.thr k).pc }).modThr k fun t => { t with wait := .larder r s.ids })
        else .go (launchAnswer f k s (launchStatus full))
      else
        let (s1, w) := acceptRecord s k r
        .go (launchAnswer f k s1 w)

/-- LAUNCH (R339). -/
def execLaunch (f : Fields) (s : State) : Host.Outcome State Fault Refusal := issue 0xE0 f (launchWord false f) s

/-- LAUNCHW (R339). -/
def execLaunchw (f : Fields) (s : State) : Host.Outcome State Fault Refusal := issue 0xE1 f (launchWord true f) s

/-! ### Cancelling (R345, R32) -/

/-- Cancel a running group: its threads stop at their next header, those that stand at one at once (R32). A thread in a wait stays in it until it
ends, and then goes on to its header: the spec takes it out of no wait (log 51). -/
def cancelGroup (s : State) (g : Nat) : State :=
  (threadsOf s g).foldl (fun x k =>
    let t := x.thr k
    if t.life != .exited && t.atHeader then endThread x k else x)
    (s.modGrp g fun gr => { gr with cancelled := true, preempt := false, retryAt := none })

/-- Cancel a launch: its groups not yet dispatched never start (R345). -/
def cancelLaunch (s : State) (l : Nat) : State :=
  if (s.lch l).complete || (nfind s.launches l).isNone then s
  else
    let gs := (s.groups.filter fun p => p.2.launch = l).map (·.1)
    gs.foldl cancelGroup (s.modLch l fun x => { x with cancelled := true, todo := [], open_ := gs.length })

/-- The launches that the record at a level that contains a launch contains. -/
def levelLaunches (s : State) (l level : Nat) : List Nat :=
  let graph (i : Nat) : Nat := (s.lch i).graph
  let phase (i : Nat) : Nat := (nget s.graphs (graph i) {}).parent
  let job (i : Nat) : Nat := (nget s.phases (phase i) {}).parent
  (s.launches.map (·.1)).filter fun i =>
    match level with
    | 0 => i == l
    | 1 => graph i == graph l
    | 2 => phase i == phase l
    | _ => job i == job l

/-- CANCEL.lvl (R345). -/
def execCancel (f : Fields) (s : State) : Host.Outcome State Fault Refusal :=
  issue 0xE2 f (fun k s =>
    let answer (x : State) (n : Nat) : State := x.modThr k fun t => t.wr f.d.toNat (BitVec.ofNat 32 n)
    match handleSlot s k ((s.thr k).x f.a.toNat) with
    | none => .go (answer s 2)
    | some l =>
      let ls := levelLaunches s l f.m.toNat
      if ls.all fun i => (s.lch i).complete then .go (answer s 1) else .go (answer (ls.foldl cancelLaunch s) 0)) s

/-! ### Queries (R349, R350, R351, R353) -/

/-- A query: x[D] takes a value. -/
def query (f : Fields) (v : State → Nat → Nat) : Nat → State → Act :=
  regs fun k s t => t.wr f.d.toNat (BitVec.ofNat 32 (v s k))

/-- The tenant of a thread. -/
def tenantOf (s : State) (k : Nat) : Nat := (s.lchOf k).tenant

/-- SPLITQ: a factor; for an auto one, the live clusters of the partition (Table 20.6). -/
def splitFactor (f : Fields) (s : State) (k : Nat) : Nat :=
  let n := (s.kernOf k).splits.getD (f.imm18.toNat % 8) 1
  if n = 0 && !s.det k then ((partition s (tenantOf s k)).filter fun c => (coresOf c).any s.liveCore).length else n

/-- SPLITQ (R350). -/
def execSplitq (f : Fields) (s : State) : Host.Outcome State Fault Refusal := issue 0xE3 f (query f (splitFactor f)) s

/-- The canonical core count (Table 20.7). -/
def canonCount (s : State) (k : Nat) : Nat := let n := (s.kernOf k).canon; if n = 0 then 768 else n

/-- CORES (R350). -/
def execCores (f : Fields) (s : State) : Host.Outcome State Fault Refusal :=
  issue 0xE4 f (query f fun s k =>
    if s.det k then canonCount s k
    else ((partitionCores s (tenantOf s k)).filter fun c => !(s.core c).cullet).length) s

/-- THRARM: the group's arm bits (R356). -/
def execThrarm (f : Fields) (s : State) : Host.Outcome State Fault Refusal :=
  issue 0xE5 f (fun k s =>
    let v := (s.thr k).x f.a.toNat
    .go (s.modGrp (gidOf k) fun g => { g with armStart := v.getLsbD 0, armEnd := v.getLsbD 1 })) s

/-- THRACK's word (R356). -/
def throttleWord (s : State) (k : Nat) : Word :=
  let g := s.grpOf k
  BitVec.ofNat 32 ((s.cluster g.cluster).throttled.toNat + g.firedStart.toNat * 2 + g.firedEnd.toNat * 4 + min g.edges 255 * 256)

/-- THRACK: reads and clears, and arms again every edge that has fired (R356). -/
def execThrack (f : Fields) (s : State) : Host.Outcome State Fault Refusal :=
  issue 0xE6 f (fun k s =>
    let v := if s.det k then 0 else throttleWord s k
    .go ((s.modThr k fun t => t.wr f.d.toNat v).modGrp (gidOf k) fun g =>
      { g with
        armStart := g.armStart || g.firedStart, armEnd := g.armEnd || g.firedEnd, firedStart := false, firedEnd := false, edges := 0 })) s

/-! ### Budgets (R348, R349) -/

/-- The groups of a tenant that stand on clusters, but for replays, which no budget counts (R405). -/
def tenantGroups (s : State) (tenant : Nat) : List Group :=
  (s.groups.map (·.2)).filter fun g => (s.lch g.launch).tenant = tenant && g.residency = .resident && g.replays.isNone

/-- The cores on which a group of some rows on a cluster stands. -/
def groupCores (cluster rows : Nat) : List Nat := ((List.range 4).filter fun j => rowsAt rows j > 0).map fun j => 4 * cluster + j

/-- The cores that hold groups of a tenant. -/
def tenantCores (s : State) (tenant : Nat) : List Nat :=
  (tenantGroups s tenant).foldl (fun l g => (groupCores g.cluster (s.lch g.launch).kernel.rows).foldl sput l) []

/-- Every thread on a cluster is parked (R102, R358). -/
def allParked (s : State) (cluster : Nat) : Bool :=
  s.groups.all fun p =>
    p.2.cluster != cluster || p.2.residency != .resident ||
      (threadsOf s p.1).all fun k => (s.thr k).life == .exited || parkedNow s k

/-- Some group is resident on a cluster. -/
def holdsGroup (s : State) (c : Nat) : Bool := s.groups.any fun p => p.2.cluster == c && p.2.residency != .saved

/-- The power estimate of a cluster, in watts (Table 20.5): one without a group is not 'resident', and runs unless it is gated. -/
def clusterPower (s : State) (c : Nat) : Nat :=
  let x := s.cluster c
  if x.gated then 1 else if holdsGroup s c && allParked s c then 6 else match x.ratio with | 0 => 18 | 1 => 28 | _ => 44

/-- A cluster's grant in bytes; one for which the power controller has set no limit counts as the figure at which s.budget saturates (log 4). -/
def grantOf (s : State) (c : Nat) : Nat := ((s.cluster c).grant).getD (65535 * 64)

/-- The sum of the damper's grants to some clusters (R348). -/
def grantSum (s : State) (clusters : List Nat) : Nat := clusters.foldl (fun n c => n + grantOf s c) 0

/-- The power controller sets the grants of a tenant's clusters within its budget of bytes, from the next interval boundary on (R354): each is a free
value, at least one line where the budget has one, at most an equal share (log 4). -/
def setGrants (s : State) (tenant : Nat) : State :=
  let cs := partition s tenant
  let share := (s.tenant tenant).bytes * 4096 / max 1 cs.length
  cs.foldl (fun x c =>
    x.drawn.modCluster c fun y =>
      { y with nextGrant := some (intervalOf (x.nowOn (dieOfCluster c)) + 1, min share (max 64 (Config.freeGrant x.free))) }) s

/-- The power of some clusters (R348). -/
def powerSum (s : State) (clusters : List Nat) : Nat := clusters.foldl (fun n c => n + clusterPower s c) 0

/-- A tenant's used figures: cores that hold its groups, units of 4 KiB an interval and watts of its partition's clusters (R348, R349). -/
def budgetUsed (s : State) (tenant : Nat) : Nat × Nat × Nat :=
  ((tenantCores s tenant).length, grantSum s (partition s tenant) / 4096, powerSum s (partition s tenant))

/-- The undispatched groups of a tenant (R349). -/
def tenantTodo (s : State) (tenant : Nat) : Nat :=
  s.launches.foldl (fun n p => if p.2.tenant = tenant then n + p.2.todo.length else n) 0

/-- BUDGET's word: used at [15:0], the limit at [31:16]; .gate the budgets that stand at their limits, and the groups that wait
(R349). -/
def budgetState (s : State) (k m : Nat) : Nat :=
  let x := s.tenant (tenantOf s k)
  let (c, b, p) := budgetUsed s (tenantOf s k)
  let pair (u l : Nat) : Nat := min u 65535 + min l 65535 * 65536
  if s.det k then 0xFFFFFFFF
  else
    match m with
    | 0 => pair c x.cores
    | 1 => pair b x.bytes
    | 2 => pair p x.power
    | _ =>
      (decide (x.cores ≤ c)).toNat + (decide (x.bytes ≤ b)).toNat * 2 + (decide (x.power ≤ p)).toNat * 4 +
        min (tenantTodo s (tenantOf s k)) 65535 * 65536

/-- BUDGET.what (R349). -/
def execBudget (f : Fields) (s : State) : Host.Outcome State Fault Refusal :=
  issue 0xE7 f (query f fun s k => budgetState s k f.m.toNat) s

/-- FEATQ's word (Tables 20.6, 20.7). -/
def featWord (s : State) (k : Nat) (x : Word) : Nat :=
  let n := if x = 0xFFFFFFFF then s.coreOf k else x.toNat
  if s.det k then (if x.toNat < canonCount s k then 0x11F else 0)
  else if n ≥ Config.nCores then 0
  else s.featOf n + (s.liveCore n).toNat * 256 + (s.core n).cullet.toNat * 512

/-- FEATQ (R350). -/
def execFeatq (f : Fields) (s : State) : Host.Outcome State Fault Refusal :=
  issue 0xE8 f (query f fun s k => featWord s k ((s.thr k).x f.a.toNat)) s

/-- CLKQ's word (Tables 20.6, 20.7). -/
def clockWord (s : State) (k m : Nat) : Nat :=
  let c := s.cluster (s.grpOf k).cluster
  match m, s.det k with
  | 0, false => c.ratio
  | 0, true => 1
  | 1, false => c.mhz
  | 1, true => 1250
  | _, false => c.ratioReq.getD 0xFFFFFFFF
  | _, true => 0xFFFFFFFF

/-- CLKQ.what (R350). -/
def execClkq (f : Fields) (s : State) : Host.Outcome State Fault Refusal := issue 0xE9 f (query f fun s k => clockWord s k f.m.toNat) s

/-- SETPRIO: clamped to the tenant's cap (R351). -/
def execSetprio (f : Fields) (s : State) : Host.Outcome State Fault Refusal :=
  issue 0xEA f (fun k s =>
    .go (s.modGrp (gidOf k) fun g => { g with prio := min (f.imm18.toNat % 4) (s.tenant (tenantOf s k)).pcap })) s

/-- The pages that each die homes of a range: of die space, the die that an address names (R346). -/
def windowHomes (s : State) (tenant : Nat) (space va len : Nat) : NMap Nat :=
  if space = 4 then
    (List.range Config.nDies).filterMap fun d =>
      let lo := max va (d * 2 ^ 32)
      let hi := min (va + len) ((d + 1) * 2 ^ 32)
      if s.liveDie d && lo < hi then some (d, (hi - 1) / 4096 + 1 - lo / 4096) else none
  else homeCounts s tenant space va len

/-- HOMEQ: x[D] is the length, from 1 to 2^31 (R350); its word comes with the return of its walks. -/
def homeq (f : Fields) (k : Nat) (s : State) : Act :=
  let c := capA s k f
  let a := addrOf s k f
  let n := ((s.thr k).x f.d.toNat).toNat
  match accessFault s k c permLD a (max n 1) 1 with
  | some x => .fault x
  | none =>
    if n = 0 || n > 2 ^ 31 then .fault { cause := causeCapability, sub := 4, addr := a }
    else
      let core := s.coreOf k
      let r : Ret :=
        { th := k, kind := .homeq (a + n) [], dst := f.d.toNat, n := if f.d = 0 then 0 else 1, treg := some f.time
          space := c.space, va := a, core := core, issued := s.now, pc := (s.thr k).pc, 
          phase := walkPhase s core (tenantOf s k) (s.tva k c.space a) }
      if translated c.space then .go (startRet s k r)
      else
        .go (startRet s k
          { r with kind := .word, est := true, data := bytesOfNat (homeWord s k (windowHomes s (tenantOf s k) c.space a n)).toNat 4, phase := .read (s.now + 2) })

/-- HOMEQ (R350). -/
def execHomeq (f : Fields) (s : State) : Host.Outcome State Fault Refusal := issue 0xEB f (homeq f) s

/-- DETQ (Table 20.6). -/
def execDetq (f : Fields) (s : State) : Host.Outcome State Fault Refusal :=
  issue 0xEC f (query f fun s k => (s.det k).toNat + ((s.lchOf k).audit.getLsbD 5).toNat * 2) s

/-- ROWWAKE: the threads of a row, or of every row, that PARK, SLEEP or IDLE parked (R352, R371). -/
def rowWake (s : State) (g : Nat) (row : Word) : State :=
  (threadsOf s g).foldl (fun x k =>
    if row = 0xFFFFFFFF || rowOf k = row.toNat then
      match (x.thr k).wait with
      | .park _ | .woken _ | .tick _ | .idle _ => wakeOn x k
      | _ => x
    else x) s

/-- ROWWAKE (R352). -/
def execRowwake (f : Fields) (s : State) : Host.Outcome State Fault Refusal :=
  issue 0xED f (fun k s => .go (rowWake s (gidOf k) ((s.thr k).x f.a.toNat))) s

/-- PRIOQ's word (R351, R353). -/
def prioWord (s : State) (k : Nat) : Nat :=
  let g := s.grpOf k
  let cap := if s.det k then 3 else (s.tenant (tenantOf s k)).pcap
  g.prio % 4 + (s.lchOf k).prio % 4 * 4 + cap % 4 * 16 + g.mprio % 4 * 256

/-- PRIOQ (R351). -/
def execPrioq (f : Fields) (s : State) : Host.Outcome State Fault Refusal := issue 0xEE f (query f prioWord) s

/-- CYCLES (R350, R353). -/
def execCycles (f : Fields) (s : State) : Host.Outcome State Fault Refusal :=
  issue 0xEF f (regs fun k s t =>
    t.wrd f.d.toNat (if s.det k then 0 else BitVec.ofNat 64 (cycleCount s (s.grpOf k).cluster))) s

/-! ### The ends of waits -/

/-- A parked thread wakes: at its tick, or when what it waits for holds (R102, R263, R264, R260, R339, R262). PARK's wakes at its wake tick, 16 before, and
stands stalled until W (R101). A counter's fall is seen a tick later: the larder keeps it for every die (R270, log 96). -/
def parkWake (k : Nat) (s : State) : State :=
  match (s.thr k).wait with
  | .park w => if s.nowOf k + 16 < w then s else s.modThr k fun t => { t with wait := .woken w }
  | .tick w | .idle w | .woken w | .fallen w => if s.nowOf k < w then s else wakeOn s k
  | .barrier key (some _) _ from_ => if s.now < from_ then s else wakeBars s key
  | .release scope => if releaseReady s k scope || (s.thr k).refusal.isSome then wakeAgain s k else s
  | .count level work n => if openOf s level work ≤ n then s.modThr k fun t => { t with wait := .fallen (s.nowOf k + 1) } else s
  | .larder r ret =>
    if (recordFull s false r.gmode).1 ≠ 0 then s
    else
      let (s1, w) := acceptRecord s k r
      wakeOn (larderAnswer s1 k ret w) k
  | .row => rowRelease s k
  | _ => s

/-- PARK_WAKE (R102). -/
def execParkWake (k : Nat) (s : State) : Host.Outcome State Fault Refusal := .next (parkWake k s)

end Sys2Proof.Machine
end

