-- ==== Sys2Proof/Machine/Groups.lean ====
section
/-! DEFINITION. The course of launches and groups (spec/01, 04, 20, 21): starts, placement and dispatch, pre-emption, saving and
resuming, the ends of groups and launches, and kills. Each is an event that acts when its condition holds and else changes nothing. -/

namespace Sys2Proof.Machine

/-! ### Kernel boundaries (R82, R204) -/

/-- The updates that the lehr holds, in the order of their ticks. -/
def lehrOrder (s : State) : List (Nat × Nat) :=
  ((s.upds.foldl (fun (m : NMap (Nat × Nat)) p =>
    match p.2.phase with
    | .lehr c => if homeIsDie (homeOf p.2.key) then nset m (c * 2 ^ 64 + p.1) (p.1, c) else m
    | _ => m) []).map (·.2))

/-- The lehr lets go what it held only for leases, still one update a tick on a line, in arrival order (R204, R232). -/
def lehrEarly (s : State) : State :=
  ((lehrOrder s).foldl (fun (x : State × NMap Nat) p =>
    match nfind x.1.upds p.1 with
    | none => x
    | some u =>
      let line := lineOf u.key
      let c := min p.2 (max (max s.now u.notBefore) (nget x.2 line 0))
      (x.1.modUpd p.1 fun v => { v with phase := .lehr c }, nset x.2 line (c + 1))) (s, [])).1

/-- A kernel boundary: every L1 drops its lines, pinned ones too, and each home the leases that belonged to them (R204); instruction
caches hold nothing that memory does not (R82). The lines that a home's own cache pins stay. -/
def kernelBoundary (s : State) : State :=
  let s1 := { s with
    cores := s.cores.map fun p => (p.1, { p.2 with l1 := [], l1low := [], icache := [] })
    leases := []
    pins := s.pins.filter fun p => p.1 % 1024 = 1023 }
  lehrEarly s1

/-! ### The start of a launch (R433) -/

/-- What a launch waits for is complete: an update that has completed, or gone; a transfer that has written all its units (R341, R342,
R422). -/
def afterMet (s : State) (id : Nat) : Bool :=
  (match nfind s.upds id with | none => true | some u => u.phase != .staged && u.fenced s.now 5) &&
    (nfind s.xfers id).isNone && s.upds.all fun p => p.2.xfer != some id || (p.2.phase != .staged && p.2.fenced s.now 5)

/-- The end of an earlier launch is seen by a later one: on another die than that of its last group a tick later, as everywhere but on a die that the later
one is pinned to (R270). -/
def endSeen (s : State) (x : Launch) (earlier : Nat) : Bool :=
  match (s.lch earlier).ended with
  | some (t, d) => t + (if x.pmode = 1 && x.pdie = d then 0 else 1) ≤ s.now
  | none => true

/-- A handle's launch has completed, as a later one sees it, or its slot has been used again (R340). -/
def handleDone (s : State) (x : Launch) (h : Nat) : Bool :=
  match liveHandle s h with
  | some l => (s.lch l).complete && endSeen s x l
  | none => true

/-- The phase of a launch. -/
def phaseOf (s : State) (l : Nat) : Nat := (nget s.graphs (s.lch l).graph {}).parent

/-- Every earlier phase of a launch's job has completed (R343). -/
def phasesBefore (s : State) (l : Nat) : Bool :=
  let p := phaseOf s l
  let earlier (q : Nat) : Bool := q < p && (nget s.phases q {}).parent == (nget s.phases p {}).parent
  (s.phases.all fun q => !earlier q.1 || phaseOpen s q.1 == 0) &&
    s.launches.all fun y => !((nfind s.phases (phaseOf s y.1)).isSome && earlier (phaseOf s y.1)) || endSeen s (s.lch l) y.1

/-- The conditions on a launch's start hold (R433). -/
def startDue (s : State) (l : Nat) : Bool :=
  match nfind s.launches l with
  | none => false
  | some x =>
    x.startTick.isNone && !x.cancelled && !x.complete && x.after.all (afterMet s) && phasesBefore s l &&
      (match x.dep with | some h => handleDone s x h | none => true)

/-- The die with the fewest undispatched groups, the lower on a tie (R346). -/
def idlestDie (s : State) : Nat :=
  let count (d : Nat) : Nat :=
    s.launches.foldl (fun n p =>
      n + (if p.2.pmode = 1 then (if p.2.pdie = d then p.2.todo.length else 0)
           else (p.2.todo.filter fun i => nfind p.2.dies i = some d).length)) 0
  let ds := liveDies s
  ds.foldl (fun b d => if count d < count b then d else b) (ds.headD 0)

/-- The die of a group under PMODE 0: that which homes the most pages of its part of the window (R346). -/
def autoDie (s : State) (l i : Nat) : Nat :=
  let x := s.lch l
  let n := x.gx * x.gy * x.gz
  let part := ceilDiv (ceilDiv x.wcap.length n) 4096 * 4096
  let lo := min (i * part) x.wcap.length
  let len := min part (x.wcap.length - lo)
  let counts := if x.wcap.tag && len > 0 then windowHomes s x.tenant x.wcap.space (x.wcap.base + lo) len else []
  match mostHomed counts with
  | some (d, _) => d
  | none => idlestDie s

/-- LAUNCH_START: the start tick is kept, a kernel boundary is made, and the groups' dies are chosen (R433, R341, R346). -/
def launchStart (l : Nat) (s : State) : State :=
  if !startDue s l then s
  else
    let s1 := kernelBoundary (s.modLch l fun x => { x with startTick := some s.now })
    if (s.lch l).pmode = 0 then
      (s.lch l).todo.foldl (fun y i => let d := autoDie y l i; y.modLch l fun x => { x with dies := nset x.dies i d }) s1
    else s1

/-- LAUNCH_START (R433). -/
def execLaunchStart (l : Nat) (s : State) : Host.Outcome State Fault Refusal := .next (launchStart l s)

/-! ### Fitting a group on a cluster (R19, R347) -/

/-- A thread has ended and the last of its stores, atomics and copies has completed (R94). -/
def threadGone (s : State) (k : Nat) : Bool :=
  (s.thr k).life == .exited &&
    (s.upds.all fun p => p.2.th != some k || (match p.2.phase with | .far _ => true | _ => false)) &&
    s.xfers.all fun p => !p.2.threads.contains k

/-- A row of a resident group no longer holds its slot: each of its threads has ended so (R94). -/
def rowGone (s : State) (g row : Nat) : Bool :=
  (s.grp g).residency == .resident && ((threadsOf s g).filter fun k => rowOf k = row).all (threadGone s)

/-- The rows that hold slots on a core: the slot, and the registers of a thread. -/
def busyRows (s : State) (core : Nat) : List (Nat × Nat) :=
  s.groups.flatMap fun p =>
    let g := p.2
    if g.cluster ≠ core / 4 || g.residency = .saved then []
    else
      (g.slots.zipIdx.filter fun q => q.2 % 4 = core % 4 && !rowGone s p.1 q.2).map fun q => (q.1, (s.lch g.launch).kernel.regs)

/-- Slots for some rows on a cluster: the lowest free on each row's core, while its registers last (R18, R19). -/
def slotPlan (s : State) (cluster regs : Nat) (rows : List Nat) : Option (NMap Nat) :=
  rows.foldl (fun (acc : Option (NMap Nat)) r =>
    match acc with
    | none => none
    | some m =>
      let busy := busyRows s (4 * cluster + r % 4)
      let mine := m.filter fun p => p.1 % 4 = r % 4
      if busy.foldl (fun n p => n + p.2) 0 + regs * (mine.length + 1) > 2048 then none
      else
        match (List.range 16).find? fun i => !(busy.map (·.1)).contains i && !(mine.map (·.2)).contains i with
        | some i => some (nset m r i)
        | none => none) (some [])

/-- An allocation's bytes: the least length that a capability can state (R122, log 11). -/
def allocBytes (n : Nat) : Nat := let (e, m) := encLen n; if e = 0 then m else (64 + m) * 2 ^ (e - 1)

/-- An allocation's alignment (R122, log 11). -/
def allocAlign (n : Nat) : Nat := let (e, _) := encLen n; if e = 0 then 64 else max 64 (2 ^ (e - 1))

/-- The ranges of a cluster's SRAM that are taken. -/
def takenSram (s : State) (cluster : Nat) : List (Nat × Nat) :=
  (s.groups.filterMap fun p =>
    if p.2.cluster = cluster && p.2.residency ≠ .saved then
      some (p.2.sramBase, allocBytes (s.lch p.2.launch).kernel.clusterBytes) else none) ++
    s.launches.filterMap fun p => (nfind p.2.shares cluster).map fun o => (o, allocBytes p.2.kernel.shareBytes)

/-- The lowest place for an allocation beside others. -/
def firstFit (taken : List (Nat × Nat)) (n align : Nat) : Option Nat :=
  let ok (o : Nat) : Bool := o + n ≤ Config.sramBytes && (n = 0 || taken.all fun t => t.2 = 0 || !meets o n t.1 t.2)
  (0 :: taken.map fun t => ceilDiv (t.1 + t.2) align * align).foldl (fun b o =>
    if ok o && b.all (o < ·) then some o else b) none

/-- A place for a group on a cluster. -/
structure Spot where
  cluster : Nat
  slots : NMap Nat
  base : Nat
  /-- a new shared allocation of its launch -/
  share : Option Nat := none
  deriving DecidableEq, Repr

/-- The cores of a cluster that some rows need may take them: live, with the features, neither halted nor on the cullet list (R347,
R367). -/
def coresFit (s : State) (cluster feat : Nat) (rows : List Nat) : Bool :=
  rows.all fun r =>
    let c := 4 * cluster + r % 4
    s.liveCore c && coreCovers s feat c && !(s.core c).halted && !(s.core c).cullet

/-- A cluster's lane ratio matches a launch's RATIO (R347). -/
def ratioFits (s : State) (l cluster : Nat) : Bool := (s.lch l).ratio = 0 || (s.cluster cluster).ratio + 1 = (s.lch l).ratio

/-- What R347 asks of a cluster for a launch, beside the fit and the lane ratio: the partition, no pending change (R22, R23). -/
def clusterFits (s : State) (l cluster : Nat) : Bool :=
  let c := s.cluster cluster
  inPartition s (s.lch l).tenant cluster && c.ratioReq.isNone && c.mhzReq.isNone

/-- The power of a cluster that runs (Table 20.5). -/
def runPower (s : State) (c : Nat) : Nat := match (s.cluster c).ratio with | 0 => 18 | 1 => 28 | _ => 44

/-- The tenant's budgets, counted with a new group on a cluster, stay within their limits (R348). -/
def budgetAllows (s : State) (l cluster : Nat) : Bool :=
  let t := (s.lch l).tenant
  let x := s.tenant t
  let cores := (groupCores cluster (s.lch l).kernel.rows).foldl sput (tenantCores s t)
  let others := (partition s t).filter (· ≠ cluster)
  cores.length ≤ x.cores && grantSum s (cluster :: others) ≤ x.bytes * 4096 && powerSum s others + runPower s cluster ≤ x.power

/-- The launch's die allocation is made, or fits on every live die (R31). -/
def dieFits (s : State) (l : Nat) : Bool :=
  let n := (s.lch l).kernel.dieBytes
  n = 0 || (s.lch l).dieHeld ||
    s.launches.foldl (fun m p => if p.2.dieHeld then m + p.2.kernel.dieBytes else m) n ≤ Config.dieSpaceBytes

/-- A place for a new group of a launch on a cluster, its lane ratio aside (R14, R19, R347, R348). -/
def spotAny (s : State) (l cluster : Nat) : Option Spot :=
  let k := (s.lch l).kernel
  let rows := List.range k.rows
  if !(clusterFits s l cluster && coresFit s cluster k.feat rows && budgetAllows s l cluster && dieFits s l) then none
  else
    match slotPlan s cluster k.regs rows, firstFit (takenSram s cluster) (allocBytes k.clusterBytes) (allocAlign k.clusterBytes) with
    | some m, some b =>
      if k.shareBytes = 0 || (nfind (s.lch l).shares cluster).isSome then some { cluster := cluster, slots := m, base := b }
      else
        (firstFit ((b, allocBytes k.clusterBytes) :: takenSram s cluster) (allocBytes k.shareBytes) (allocAlign k.shareBytes)).map
          fun o => { cluster := cluster, slots := m, base := b, share := some o }
    | _, _ => none

/-- A place for a new group of a launch on a cluster (R347). -/
def spotOn (s : State) (l cluster : Nat) : Option Spot := if ratioFits s l cluster then spotAny s l cluster else none

/-- The clusters of a die. -/
def clustersOf (d : Nat) : List Nat := List.range' (12 * d) 12

/-- Steps on the package network between two dies (R10). -/
def hops (a b : Nat) : Nat :=
  let d (x y : Nat) : Nat := max x y - min x y
  d (a % 4) (b % 4) + d (a / 4) (b / 4)

/-- The live dies by their distance from one, ties to the lower. -/
def nearestDies (s : State) (d : Nat) : List Nat :=
  ((liveDies s).foldl (fun (m : NMap Nat) e => nset m (hops d e * 16 + e) e) []).map (·.2)

/-- The die of a group (R346). -/
def dieFor (s : State) (l i : Nat) : Nat := if (s.lch l).pmode = 1 then (s.lch l).pdie else nget (s.lch l).dies i 0

/-- The tick since which a group waits to be dispatched: its launch's start, or the end of its kill (R347, R384). -/
def waitsSince (s : State) (l i : Nat) : Option Nat := (nfind (s.lch l).since i).or (s.lch l).startTick

/-- The dies to which a group that waits may go: its own; under PMODE 0, after 4,096 ticks, the nearest that fits (R347). -/
def diesFor (s : State) (l i : Nat) : List Nat :=
  if (s.lch l).pmode = 0 && (waitsSince s l i).any (· + 4096 ≤ s.now) then nearestDies s (dieFor s l i) else [dieFor s l i]

/-- The place that a group takes now. -/
def spotFor (s : State) (l i : Nat) : Option Spot := (diesFor s l i).findSome? fun d => (clustersOf d).findSome? (spotOn s l)

/-! ### Resuming (R106, R330) -/

/-- The rows of a group that still have threads. -/
def liveRows (s : State) (g : Nat) : List Nat :=
  (List.range (s.lch (s.grp g).launch).kernel.rows).filter fun r =>
    (threadsOf s g).any fun k => rowOf k = r && (s.thr k).life != .exited

/-- A group that may resume on one cluster alone, the one it was saved on: it has a shared cluster allocation, or a shared accumulator (R14, R330). -/
def staysPut (s : State) (g : Nat) : Bool :=
  (s.lch (s.grp g).launch).kernel.shareBytes ≠ 0 || (s.grp g).accs.any fun p => p.2.share.isSome

/-- Every store and atomic of its threads has retired (R238). -/
def storesRetired (s : State) (g : Nat) : Bool :=
  s.upds.all fun p =>
    !(p.2.th.any fun k => gidOf k = g) || p.2.xfer.isSome || (match p.2.phase with | .staged | .far _ => true | _ => false)

/-- The audit whose replay, or tiebreak, a group is. -/
def replayAudit (s : State) (g : Nat) : Option Audit := (s.grp g).replays.bind (nfind s.audits)

/-- What R405 asks of a cluster for a replay, and R411 for a tiebreak, beside the fit: not that of the original, nor one with a core in question; no core of it on the
cullet list, nor halted; no pending change. -/
def replayTakes (s : State) (a : Audit) (cluster : Nat) : Bool :=
  let c := s.cluster cluster
  let asked : List Nat := match a.phase with | .tied _ _ (m :: _) => m.core :: a.cores.filter (fun c => c % 4 = m.pos) | _ => []
  cluster ≠ a.cluster && (asked.all fun x => x / 4 ≠ cluster) && ((coresOf cluster).all fun i => !(s.core i).cullet && !(s.core i).halted) &&
    c.ratioReq.isNone && c.mhzReq.isNone

/-- A place for a saved group on a cluster, its lane ratio aside: its own offset in cluster SRAM, and room for its claims, its tile entries and its reservations
(R330, R288, R321). A replay's is as R405 lays down. -/
def resumeAny (s : State) (g cluster : Nat) : Option Spot :=
  let gr := s.grp g
  let takes := match replayAudit s g with | some a => replayTakes s a cluster | none => clusterFits s gr.launch cluster
  let k := (s.lch gr.launch).kernel
  let rows := liveRows s g
  let n := allocBytes k.clusterBytes
  let old : NMap Nat := rows.map fun r => (r, gr.slots.getD r 0)
  if !(takes && coresFit s cluster k.feat rows) || (staysPut s g && cluster ≠ gr.cluster) then none
  else if !(n = 0 || (takenSram s cluster).all fun t => t.2 = 0 || !meets gr.sramBase n t.1 t.2) then none
  else if (freeOf (heldSlots s cluster) 128).length < gr.pslots.length ||
      (freeOf (heldAccs s cluster) 32).length < (gr.accs.filter fun p => p.2.share.isNone).length ||
      tileCount s cluster + gr.tiles.length > 256 || engineEntries s cluster + (gr.passes.filter (·.done.isNone)).length > 64 then none
  else
    match slotPlan s cluster k.regs rows with
    | none => none
    | some m =>
      if cluster ≠ gr.cluster then some { cluster := cluster, slots := m, base := gr.sramBase }
      else if old.all fun p => !((busyRows s (4 * cluster + p.1 % 4)).map (·.1)).contains p.2 then
        some { cluster := cluster, slots := old, base := gr.sramBase }
      else none

/-- A place for a saved group on a cluster (R106, R330). -/
def resumeOn (s : State) (g cluster : Nat) : Option Spot := if ratioFits s (s.grp g).launch cluster then resumeAny s g cluster else none

/-- The clusters to which a saved group may go, in the order in which they are tried: its own, in its own slots (R16); another of its die; and only under PMODE 0,
once it has waited 4,096 ticks, another die (R347). A replay: its own, and then as it was first placed (R405, log 103). -/
def resumeClusters (s : State) (g : Nat) : List Nat :=
  let gr := s.grp g
  match replayAudit s g with
  | some a =>
    let (near, far) := (List.range Config.nClusters).partition fun c => dieOfCluster c = dieOfCluster a.cluster
    gr.cluster :: (far ++ near)
  | none =>
    let d := dieOfCluster gr.cluster
    let ds := if (s.lch gr.launch).pmode = 0 && gr.savedAt + 4096 ≤ s.now then nearestDies s d else [d]
    gr.cluster :: ds.flatMap clustersOf

/-- The place that a saved group takes now. -/
def resumeSpot (s : State) (g : Nat) : Option Spot :=
  if !storesRetired s g then none else (resumeClusters s g).findSome? (resumeOn s g)

/-- No core can take a saved group: none with its features is live, or the one cluster that could has lost a core that it needs (R14,
R106). -/
def noCoreFor (s : State) (g : Nat) : Bool :=
  let gr := s.grp g
  let feat := (s.lch gr.launch).kernel.feat
  !((List.range Config.nCores).any fun c => s.liveCore c && coreCovers s feat c) ||
    (staysPut s g && !coresFit s gr.cluster feat (liveRows s g))

/-! ### The distributor's order (R347, R351) -/

/-- What waits for a place. -/
inductive Waiting where
  | new (launch index : Nat)
  | saved (g : Nat)
  deriving DecidableEq, Repr

/-- All that waits, higher priority first, then the earlier launch, then the lower index. -/
def waitingOrder (s : State) : List Waiting :=
  let rank (prio order index : Nat) : Nat := ((3 - prio) * 2 ^ 64 + order) * 2 ^ 64 + index
  let m := s.launches.foldl (fun (m : NMap Waiting) p =>
    if p.2.startTick.isSome then p.2.todo.foldl (fun m i => nset m (rank p.2.prio p.2.order i) (.new p.1 i)) m else m) []
  (s.groups.foldl (fun (m : NMap Waiting) p =>
    if p.2.residency = .saved then nset m (rank p.2.prio (s.lch p.2.launch).order p.2.index) (.saved p.1) else m) m).map (·.2)

/-- The place that one takes now. -/
def placeFor (s : State) (w : Waiting) : Option Spot := match w with | .new l i => spotFor s l i | .saved g => resumeSpot s g

/-- The first that has a place. -/
def nextPlace (s : State) : Option (Waiting × Spot) := (waitingOrder s).findSome? fun w => (placeFor s w).map fun p => (w, p)

/-- The cluster for which the distributor requests a lane ratio: clusters of the die fit but for it, and none of them matches RATIO; then the lowest-numbered of them
that has no resident group (R357, log 109). -/
def ratioWanted (s : State) (w : Waiting) : Option Nat :=
  let empty (c : Nat) : Bool := s.groups.all fun p => p.2.cluster ≠ c || p.2.residency = .saved
  let pick (l die : Nat) (fits : Nat → Bool) : Option Nat :=
    if (s.lch l).ratio = 0 then none
    else
      let cs := (clustersOf die).filter fits
      if cs.any (ratioFits s l) then none else cs.find? empty
  match w with
  | .new l i => pick l (dieFor s l i) fun c => (spotAny s l c).isSome
  | .saved g =>
    if storesRetired s g && (s.grp g).replays.isNone then pick (s.grp g).launch (dieOfCluster (s.grp g).cluster) fun c => (resumeAny s g c).isSome else none

/-- The first that wants one, unless another before it has a place. -/
def nextRatio (s : State) : Option (Waiting × Nat) :=
  ((waitingOrder s).findSome? fun w =>
    match ratioWanted s w with
    | some c => some (some (w, c))
    | none => if (placeFor s w).isSome then some none else none).join

/-- Ask that a cluster's lane ratio become a launch's; a later request replaces an earlier one (R357). -/
def askRatio (s : State) (l c : Nat) : State := s.modCluster c fun x => { x with ratioReq := some ((s.lch l).ratio - 1) }

/-! ### Dispatch (R131, R402) -/

/-- The capabilities and the identity that a thread starts with (R131, Table 5.12). -/
def startThread (s : State) (l : Nat) (cluster base : Nat) (share : Nat) (row lane slot : Nat) : Thread :=
  let x := s.lch l
  let k := x.kernel
  let core := 4 * cluster + row % 4
  let owner := core * 1024 + lane * 32 + slot * 2
  let t : Thread :=
    { mode := if k.det then 0x100 else 0, sys := x.system, owner := owner, since := s.curSlot core }
  let t := if x.acap.tag then t.wrCap 4 x.acap else t
  let t := t.wrCap 8 (mkCap 1 0x1F base k.clusterBytes base 0)
  let t := t.wrCap 12 (mkCap 2 0x7 0 k.privateBytes 0 owner)
  let t := if x.wcap.tag then t.wrCap 16 x.wcap else t
  let t := if k.shareBytes ≠ 0 then t.wrCap 20 (mkCap 1 0x1F share k.shareBytes share 0) else t
  let t := if k.dieBytes ≠ 0 then t.wrCap 24 (mkCap 4 0x7 0 (2 ^ 36) (dieOfCluster cluster * 2 ^ 32) 0) else t
  { t with regs := t.regs.filter fun p => p.1 < k.regs, tags := t.tags.filter fun q => 4 * q < k.regs }

/-- Whether the gaffer selects a group of a launch (R402). -/
def auditSelects (x : Launch) (index : Nat) : Bool :=
  let k := x.audit.toNat % 16
  let lid := mix32 x.kcap.w0 (if x.wcap.tag then x.wcap.w0 else 0)
  !x.audit.getLsbD 4 && !x.system && ((mix32 lid (BitVec.ofNat 32 index)).toNat / 2 ^ (32 - k) == 0)

/-- Replay logs in use (R404). -/
def logsInUse (s : State) : Nat :=
  (s.groups.filter fun p => p.2.selected).length + (s.audits.filter fun p => p.2.segment.isNone).length

/-- Locked lines displace others from a die's memory-side cache (R31). -/
def lockLines (s : State) (d : Nat) : State := { s with cached := s.cached.filter fun l => !(displaced s (.die d) 0).contains l }

/-- The allocations of a launch that a dispatch to a cluster makes, zero-filled (R14, R31). -/
def makeShared (s : State) (l : Nat) (p : Spot) : State :=
  let k := (s.lch l).kernel
  let s1 :=
    if k.dieBytes = 0 || (s.lch l).dieHeld then s
    else
      (liveDies s).foldl (fun x d => lockLines (clearMem x (dieKey l d 0) k.dieBytes) d) (s.modLch l fun x => { x with dieHeld := true })
  match p.share with
  | some o => (clearMem s1 (sramKey p.cluster o) (allocBytes k.shareBytes)).modLch l fun x => { x with shares := nset x.shares p.cluster o }
  | none => s1

/-- Ask that a gated cluster run. A gating of this same tick is withdrawn: the cluster runs on, without a slot of the slew limiter (R358). -/
def wakeCluster (s : State) (c : Nat) : State :=
  let x := s.cluster c
  if !x.gated then s
  else if x.gatedAt = some s.now then s.modCluster c fun x => { x with gated := false, wakeReq := none, wakeGrid := false }
  else if x.wakeReq.isNone then s.modCluster c fun x => { x with wakeReq := some s.now }
  else s

/-- A group placed on a cluster leaves the instances of BAR.CLU and BAR.DIE at the places that it was covered at before (R257). -/
def leaveBars (s : State) (launch index cluster : Nat) : State :=
  { s with
    hwbars := s.hwbars.map fun p =>
      let b := p.2
      if b.launch = launch && b.released.isNone &&
          ((b.level = 1 && b.place ≠ cluster) || (b.level = 2 && b.place ≠ dieOfCluster cluster)) then
        (p.1, { b with members := b.members.filter (· ≠ index) })
      else p }

/-- Dispatch a new group (R347): its allocation zero-filled, its threads at word 0, its rows' generators set (R166), and its log if it is
selected (R402, R404). -/
def dispatchGroup (s : State) (l i : Nat) (p : Spot) : State :=
  let s1 := leaveBars (makeShared s l p) l i p.cluster
  let x := s1.lch l
  let k := x.kernel
  let g := s1.ids
  let chosen := auditSelects x i
  let room := logsInUse s1 < 1024
  let gr : Group :=
    { launch := l, index := i, cluster := p.cluster, slots := (List.range k.rows).map fun r => nget p.slots r 0, prio := x.prio
      sramBase := p.base, sramCluster := p.cluster, firstCluster := p.cluster, cores := groupCores p.cluster k.rows
      gens := (List.range k.rows).map fun r => (r, genInit ^^^ BitVec.ofNat 64 (64 * i + r))
      selected := chosen && room, logBytes := if chosen && room then 128 * k.rows else 0 }
  let first (r lane : Nat) : Thread := startThread s1 l p.cluster p.base (nget x.shares p.cluster 0) r lane (nget p.slots r 0)
  let lanes := (List.range k.rows).flatMap fun r => (List.range 32).map fun lane => (r, lane)
  let gr := if gr.selected then { gr with start := lanes.map fun e => (e.1 * 32 + e.2, first e.1 e.2) } else gr
  let gaf := if chosen then { s1.gaffer with sel := satUp s1.gaffer.sel } else s1.gaffer
  let gaf := if chosen && !room then { gaf with drop := satUp gaf.drop } else gaf
  let new := lanes.map fun e => (g * 2048 + e.1 * 32 + e.2, first e.1 e.2)
  let s2 := { clearMem s1 (sramKey p.cluster p.base) (allocBytes k.clusterBytes) with
    ids := g + 1, groups := nset s1.groups g gr, threads := s1.threads ++ new, gaffer := gaf }
  wakeCluster (s2.modLch l fun y => { y with todo := y.todo.erase i }) p.cluster

/-- GROUP_DISPATCH: the distributor asks for a lane ratio, or dispatches the first group that has a place on its own die (R347, R357). -/
def groupDispatch (l i : Nat) (s : State) : State :=
  match nextRatio s with
  | some (w, c) => if w = .new l i then askRatio s l c else s
  | none =>
    match nextPlace s with
    | some (w, p) => if w = .new l i && dieOfCluster p.cluster = dieFor s l i then dispatchGroup s l i p else s
    | none => s

/-- GROUP_DISPATCH (R347). -/
def execGroupDispatch (l i : Nat) (s : State) : Host.Outcome State Fault Refusal := .next (groupDispatch l i s)

/-- GROUP_SPILL: a group of PMODE 0 that has waited 4,096 ticks goes to the nearest die that fits (R347). -/
def groupSpill (l i : Nat) (s : State) : State :=
  match nextPlace s with
  | some (w, p) => if (nextRatio s).isNone && w = .new l i && dieOfCluster p.cluster ≠ dieFor s l i then dispatchGroup s l i p else s
  | none => s

/-- GROUP_SPILL (R347). -/
def execGroupSpill (l i : Nat) (s : State) : Host.Outcome State Fault Refusal := .next (groupSpill l i s)

/-! ### Pre-emption (R104) -/

/-- The waits that R104 rewinds. -/
def rewindable (w : Wait) : Bool :=
  match w with
  | .park _ | .woken _ | .tick _ | .barrier _ _ _ _ | .hw _ _ _ | .flag _ _ _ _ _ _ _ | .release _ | .count _ _ _ | .row => true
  | _ => false

/-- A wait for a hardware barrier that has released, and comes to its slot (R258): it is no wait for others. -/
def releasedWait (s : State) (w : Wait) : Bool :=
  match w with
  | .hw i _ _ => (nfind s.hwbars i).any fun b => b.released.isSome
  | _ => false

/-- Rewind a thread to its block's header: its arrival at a hardware barrier is withdrawn, and its wait no longer binds its time
register (R104 step 2); a read of its flag is discarded (R302). -/
def rewind (s : State) (k : Nat) : State :=
  let t := s.thr k
  let bound := match t.wait with
    | .barrier _ _ (some i) _ => ndel t.bound i
    | .flag _ _ _ _ _ _ f => ndel t.bound f.time
    | _ => t.bound
  let logs := match t.wait with | .barrier _ _ _ _ | .hw _ _ _ | .flag _ _ _ _ _ _ _ => true | _ => false
  let s0 := if logs then logDrop s k else s
  let s1 := s0.setThr k { t with wait := .none, bound := bound, pc := t.hdr, atHeader := true, together := 0 }
  { s1 with
    rets := s1.rets.filter fun p => !(p.2.th == k && p.2.kind == .flag)
    hwbars := s1.hwbars.map fun p =>
      if p.2.released.isNone then (p.1, { p.2 with arrived := sdel p.2.arrived k }) else p }

/-- The threads of a group that are parked in such a wait, in a block with the given IDEM. -/
def parkedIn (s : State) (g : Nat) (idem : Bool) : List Nat :=
  (threadsOf s g).filter fun k =>
    let t := s.thr k
    t.life == .live && rewindable t.wait && !releasedWait s t.wait && hdrIdem t.hdrWord == idem

/-- A request that marks a group, and rewinds the threads parked in blocks with IDEM = 1 (R104 steps 1 and 2). -/
def requestPreempt (s : State) (g : Nat) : State :=
  let gr := s.grp g
  if (nfind s.groups g).isNone || gr.residency ≠ .resident || gr.cancelled then s
  else
    let s1 := s.modGrp g fun x => { x with preempt := true, retryAt := none }
    (parkedIn s1 g true).foldl rewind s1

/-- The scheduler pre-empts groups of lower priority first: no other group that stands on the cluster unmarked has a lower one (R351, log 57). -/
def preemptTurn (s : State) (g : Nat) : Bool :=
  s.groups.all fun p =>
    p.2.cluster ≠ (s.grp g).cluster || p.2.residency ≠ .resident || p.2.preempt || p.2.cancelled || (s.grp g).prio ≤ p.2.prio

/-- PREEMPT_REQUEST: a request of the scheduler (R104, R351). -/
def execPreemptRequest (g : Nat) (s : State) : Host.Outcome State Fault Refusal := when s (preemptTurn s g) (requestPreempt s g)

/-- A thread of a marked group has parked in a block with IDEM = 1: it is rewound. -/
def rewindDue (s : State) (g : Nat) : Bool := (s.grp g).preempt && !(parkedIn s g true).isEmpty

/-- The pause is to be lifted (R104 step 4). -/
def liftDue (s : State) (g : Nat) : Bool :=
  let gr := s.grp g
  let parked := parkedIn s g false
  gr.preempt && gr.residency == .resident && !parked.isEmpty &&
    (threadsOf s g).all fun k => parked.contains k || pausedOrGone (s.thr k)

/-- PREEMPT_RETRY: the pause is lifted, and dropped after PRECAP retries, or a lifted request is made again (R104, cause 18). -/
def preemptRetry (g : Nat) (s : State) : State :=
  let gr := s.grp g
  if liftDue s g then
    if gr.retries ≥ s.csrs.precap.toNat % 256 then
      postEvent (s.modGrp g fun x => { x with preempt := false, retries := 0 }) 1 (dieOfCluster gr.cluster) 0 18
    else s.modGrp g fun x => { x with preempt := false, retries := x.retries + 1, retryAt := some (s.now + 4096) }
  else if gr.retryAt.any (· ≤ s.now) then requestPreempt s g
  else s

/-- PREEMPT_RETRY (R104). -/
def execPreemptRetry (g : Nat) (s : State) : Host.Outcome State Fault Refusal := .next (preemptRetry g s)

/-! ### Saving a group (R105, R329) -/

/-- A return is the status of a copy, which runs on when its group is saved (R295). -/
def Ret.ofCopy (r : Ret) : Bool := r.kind == .xfer && r.counter == Counter.copies

/-- The returns that report to time registers what the entries and the links of a group bring: saved with these, they carry on (R329, R330). -/
def Group.timed (g : Group) : List Nat :=
  g.passes.flatMap (fun p => p.watch ++ p.arrivals.flatMap (·.2)) ++ g.links.flatMap fun l => l.2.2

/-- An access by its number runs on while its group is saved: a copy (R295), or a pass or a link that a time register is bound to (R330). -/
def runsOn (s : State) (g id : Nat) : Bool := (nfind s.rets id).any Ret.ofCopy || (s.grp g).timed.contains id

/-- Every pending write to the saved registers of a thread has landed, but for the time registers of what runs on (R105, R211, R295, R330). -/
def settled (s : State) (k : Nat) : Bool :=
  let t := s.thr k
  t.life == .exited ||
    (match savedCounts s k with
     | none => false
     | some (live, tl) => (t.pend.all fun p => p.1 > live) && t.bound.all fun p => p.1 ≥ tl || runsOn s (gidOf k) p.2)

/-- What the save of a group's engine state waits for (R329), and its tables' loads (R170). -/
def engineSettled (s : State) (g : Nat) : Bool :=
  ((s.grp g).passes.all fun p => p.due.isEmpty && (p.firm.isNone || p.done.isSome)) &&
    s.xfers.all fun p => p.2.group ≠ g || !p.2.started || p.2.writes

/-- Its stores to cluster space have been applied. -/
def clusterStoresDone (s : State) (g : Nat) : Bool :=
  s.upds.all fun p => !(p.2.th.any fun k => gidOf k = g) || p.2.space ≠ 1 || !p.2.unapplied

/-- The save of a group may be made (R104 step 5). -/
def saveDue (s : State) (g : Nat) : Bool :=
  let gr := s.grp g
  gr.preempt && gr.residency == .resident && !gr.cancelled &&
    ((threadsOf s g).all fun k => pausedOrGone (s.thr k) && settled s k) && engineSettled s g && clusterStoresDone s g &&
    (threadsOf s g).any fun k => (s.thr k).life != .exited

/-- A thread with its saved context alone (Table 4.4); a live time register stays bound to what runs on (R295, R330). -/
def Thread.trim (t : Thread) (live tl : Nat) (on : Nat → Bool) : Thread :=
  { t with
    regs := t.regs.filter fun p => p.1 ≤ live
    tags := t.tags.filter fun q => 4 * q + 3 ≤ live
    poison := t.poison.filter (· ≤ live)
    treg := t.treg.filter fun p => p.1 < tl
    bound := t.bound.filter fun p => p.1 < tl && on p.2
    pend := [], reconv := none, held := false, yieldBar := 0, together := 0, acquire := none, loads := 0, latch := none, walking := false
    walked := none, freshWalk := false, faultWaits := false }

/-- Move some bytes of memory, with their tags and poison. -/
def moveMem (s : State) (src dst n : Nat) : State :=
  let here (a : Nat) : Bool := src ≤ a && a < src + n
  let cells := s.mem.filter fun c => here c.1
  let marks := s.memPoison.filter here
  let tags := s.memTags.filter fun t => here (16 * t)
  let s1 := clearMem (clearMem s src n) dst n
  { s1 with
    mem := cells.foldl (fun m c => Memory.write m (dst + (c.1 - src)) c.2) s1.mem
    memPoison := marks.foldl (fun m a => sput m (dst + (a - src))) s1.memPoison
    memTags := tags.foldl (fun m t => sput m ((dst + (16 * t - src)) / 16)) s1.memTags }

/-- Move the elements of an accumulator. -/
def moveAcc (s : State) (c p c' p' : Nat) : State :=
  let src := accBase c p
  let dst := accBase c' p'
  let here (a : Nat) : Bool := src ≤ a && a < src + 4096
  let vals := s.accs.filter fun e => here e.1
  let marks := s.accPoison.filter here
  let s1 := zeroAcc (zeroAcc s c p) c' p'
  { s1 with
    accs := vals.foldl (fun m e => nset m (dst + (e.1 - src)) e.2) s1.accs
    accPoison := marks.foldl (fun m a => sput m (dst + (a - src))) s1.accPoison }

/-- A key of a group's cluster SRAM when that moves from one place to another. -/
def moveKey (src dst n key : Nat) : Nat := if src ≤ key && key < src + n then dst + (key - src) else key

/-- Move a group's cluster SRAM between clusters, and with it the keys of the objects that its passes name (R326, R329). -/
def moveSram (s : State) (g c c' : Nat) : State :=
  let gr := s.grp g
  let n := allocBytes (s.lch gr.launch).kernel.clusterBytes
  let src := sramKey c gr.sramBase
  let dst := sramKey c' gr.sramBase
  let key := moveKey src dst n
  (moveMem s src dst n).modGrp g fun x =>
    { x with
      links := x.links.map fun l => (key l.1, l.2)
      passes := x.passes.map fun p =>
        { p with link := p.link.map (fun l => (key l.1, l.2)), arrivals := p.arrivals.map fun a => (key a.1, a.2) } }

/-- Save a group (R105, R295, R329): its threads' contexts, its cluster SRAM, slots and private accumulators. Loads to other registers
are discarded on arrival and count as completed; the completion of a copy, and what an entry or a link brings, go with the thread, to the time register if
that is live (R330). -/
def saveGroup (s : State) (g : Nat) : State :=
  let gr := s.grp g
  let s1 := (threadsOf s g).foldl (fun x k =>
    match savedCounts s k with
    | some (live, tl) => if (s.thr k).life = .exited then x else x.modThr k fun t => t.trim live tl (runsOn s g)
    | none => x) s
  let s2 := { s1 with
    rets := s1.rets.map fun p =>
      if gidOf p.2.th ≠ g then p
      else
        (p.1, { p.2 with
          discard := true
          counter := if p.2.counter = .loads then .none else p.2.counter
          treg := if runsOn s g p.1 then p.2.treg else none }) }
  let s3 := moveSram s2 g gr.cluster (savedPlace g)
  let s4 := gr.pslots.foldl (fun x p => moveMem x (pantryKey gr.cluster p.2 0) (pantryKey (savedPlace g) p.2 0) 8192) s3
  let s5 := gr.accs.foldl (fun x p => if p.2.share.isSome then x else moveAcc x gr.cluster p.2.phys (savedPlace g) p.2.phys) s4
  s5.modGrp g fun x => { x with residency := .saved, savedAt := s.now, preempt := false, retries := 0, retryAt := none, featWait := false }

/-- CONTEXT_SAVE: every thread is paused or has ended, and what the save waits for has come (R105). -/
def execContextSave (g : Nat) (s : State) : Host.Outcome State Fault Refusal := when s (saveDue s g) (saveGroup s g)

/-- Make a saved group's claims again on a cluster (R330). -/
def reclaim (s : State) (g cluster : Nat) : State :=
  let gr := s.grp g
  let slots := gr.pslots.zip (freeOf (heldSlots s cluster) 128)
  let accs := (gr.accs.filter fun p => p.2.share.isNone).zip (freeOf (heldAccs s cluster) 32)
  let s1 := slots.foldl (fun x p => moveMem x (pantryKey (savedPlace g) p.1.2 0) (pantryKey cluster p.2 0) 8192) s
  let s2 := accs.foldl (fun x p => moveAcc x (savedPlace g) p.1.2.phys cluster p.2) s1
  s2.modGrp g fun x =>
    { x with
      pslots := slots.foldl (fun m p => nset m p.1.1 p.2) x.pslots
      accs := accs.foldl (fun m p => nset m p.1.1 { p.1.2 with phys := p.2 }) x.accs
      passes := x.passes.map fun p => { p with wait := 0 } }

/-- Resume a saved group on a cluster (R106, R16): each thread at the header at which it paused. A throttled cluster gives an armed group
the start edge (R356). -/
def resumeGroup (s : State) (g : Nat) (p : Spot) : State :=
  let gr := s.grp g
  let c := p.cluster
  let s1 := reclaim (moveSram (leaveBars s gr.launch gr.index c) g (savedPlace g) c) g c
  let s2 := s1.modGrp g fun x =>
    { x with
      cluster := c, residency := .resident
      slots := (List.range (s.lch gr.launch).kernel.rows).map fun r => nget p.slots r (x.slots.getD r 0)
      cores := (groupCores c (s.lch gr.launch).kernel.rows).foldl sput x.cores
      moves := if c = gr.cluster then x.moves else x.moves + 1 }
  let s3 := { (threadsOf s2 g).foldl (fun x k => x.modThr k fun t => { t with since := s2.curSlot (s2.coreOf k), stood := s.now, atHeader := true }) s2 with
    upds := s2.upds.map fun u =>
      if u.2.phase = .staged && (u.2.th.any fun k => gidOf k = g) then
        let k := u.2.th.getD 0
        (u.1, { u.2 with core := s2.coreOf k, die := s2.dieOf k })
      else u }
  let s4 := engineSettle (wakeCluster s3 c) g
  if (s.cluster c).throttled && gr.armStart && !(s.lch gr.launch).kernel.det then
    raiseThrottle (s4.modGrp g fun x => { x with armStart := false, firedStart := true, edges := x.edges + 1 }) g true
  else s4

/-- GROUP_RESUME: the distributor asks for a lane ratio for it, or the saved group whose turn it is resumes; one that no core can take is reported once (R106,
R357, cause 19). -/
def groupResume (g cluster : Nat) (s : State) : State :=
  match nextRatio s, nextPlace s with
  | some (w, c), _ => if w = .saved g then askRatio s (s.grp g).launch c else s
  | none, some (w, p) => if w = .saved g && cluster = p.cluster then resumeGroup s g p else s
  | none, none =>
    if (s.grp g).residency = .saved && !(s.grp g).featWait && noCoreFor s g then
      postEvent (s.modGrp g fun x => { x with featWait := true }) 1 (dieOfCluster (s.grp g).cluster) 0 19
    else s

/-- GROUP_RESUME (R106). -/
def execGroupResume (g cluster : Nat) (s : State) : Host.Outcome State Fault Refusal := .next (groupResume g cluster s)

/-! ### The end of a group and of a launch (R94, R340) -/

/-- Every thread of a group has ended, and its stores, page words, transfers and passes are complete (R94, R331). -/
def groupQuiet (s : State) (g : Nat) : Bool :=
  ((threadsOf s g).all fun k => (s.thr k).life == .exited) &&
    (s.upds.all fun p => !(p.2.th.any fun k => gidOf k = g) || (match p.2.phase with | .staged | .far _ => true | _ => false)) &&
    (s.rets.all fun p => gidOf p.2.th ≠ g || (match p.2.kind with | .page _ _ => false | _ => true)) &&
    (s.xfers.all fun p => p.2.group ≠ g) && (s.grp g).passes.all fun p => p.done.isSome

/-- GROUP_END acts, but for a replay, which its audit ends: the group's threads have ended; in a deterministic launch its last release is made first (R94, R245). -/
def endDue (s : State) (g : Nat) : Bool :=
  let gr := s.grp g
  let det := (s.lch gr.launch).kernel.det
  (nfind s.groups g).isSome && gr.replays.isNone && (match gr.residency with | .killed _ _ => false | _ => true) && groupQuiet s g &&
    (if det then !gr.ended || (gr.stage.isEmpty && gr.releasing.isEmpty && gr.cleared ≠ some false && !(heldGroup s g && gr.cleared.isNone)) else true)

/-- Take a group away: what it held is free, and its launch counts it, with the tick and the die of its end (R264, R270). -/
def removeGroup (s : State) (g : Nat) : State :=
  let l := (s.grp g).launch
  let end_ := (s.now, dieOfCluster (s.grp g).cluster)
  { s with
    groups := ndel s.groups g
    threads := s.threads.filter fun p => gidOf p.1 ≠ g
    rets := s.rets.filter fun p => gidOf p.2.th ≠ g }.modLch l fun x =>
      { x with open_ := x.open_ - 1, ended := some end_, ticketFrom := if x.ticket = (s.grp g).index then some end_ else x.ticketFrom }

/-- Take a replay away, with the record that stood for its launch (R406). -/
def removeReplay (s : State) (g : Nat) : State :=
  let l := (s.grp g).launch
  { s with
    groups := ndel s.groups g
    threads := s.threads.filter fun p => gidOf p.1 ≠ g
    rets := s.rets.filter fun p => gidOf p.2.th ≠ g
    xfers := s.xfers.filter fun p => p.2.group ≠ g
    launches := ndel s.launches l }

/-- The resting replay of a held group that needs it no more goes, and its audit with it (R416). -/
def dropResting (s : State) (g : Nat) : State :=
  match restingAudit s g with
  | some (id, _, h, _) => let x := removeReplay s h; { x with audits := ndel x.audits id }
  | none => s

/-- The audit of a group that has ended: one that a hold has audited segment by segment has no more (R403, R405, R416). -/
def endAudit (s : State) (g : Nat) : State :=
  let gr := s.grp g
  if !gr.selected then s
  else if heldGroup s g && gr.cleared = some true then dropResting s g
  else if auditable gr && !gr.cancelled then openAudit s g false
  else dropResting { s with gaffer := { s.gaffer with una := satUp s.gaffer.una } } g

/-- GROUP_END (R94). -/
def groupEnd (g : Nat) (s : State) : State :=
  if !endDue s g then s
  else if (s.lch (s.grp g).launch).kernel.det && !(s.grp g).ended then s.modGrp g fun x => { x with ended := true }
  else removeGroup (endAudit s g) g

/-- GROUP_END (R94). -/
def execGroupEnd (g : Nat) (s : State) : Host.Outcome State Fault Refusal := .next (groupEnd g s)

/-- A launch has completed: every group has ended (R340). -/
def completeDue (s : State) (l : Nat) : Bool :=
  match nfind s.launches l with
  | none => false
  | some x => !x.complete && x.open_ = 0 && x.todo.isEmpty && (x.startTick.isSome || x.cancelled)

/-- LAUNCH_COMPLETE: its allocations are free, its end is a kernel boundary, and a root launch's is told to the host (R340, R341,
R423). -/
def launchComplete (l : Nat) (s : State) : State :=
  if !completeDue s l then s
  else
    let s1 := s.modLch l fun x => { x with complete := true, shares := [], dieHeld := false }
    let s2 := if (s.lch l).startTick.isSome then kernelBoundary s1 else s1
    let s3 := { s2 with hwbars := s2.hwbars.filter fun p => p.2.launch ≠ l }
    if (s.lch l).root then postEvent s3 3 0 0 (handleOf s l) else s3

/-- LAUNCH_COMPLETE (R340). -/
def execLaunchComplete (l : Nat) (s : State) : Host.Outcome State Fault Refusal := .next (launchComplete l s)

/-! ### Killed groups (R383, R384) -/

/-- The stores of a killed group have retired, its transfers ended and its steps in progress applied (R383 step 4, R331). -/
def killDone (s : State) (g : Nat) : Bool :=
  (s.upds.all fun p => !(p.2.th.any fun k => gidOf k = g) || (match p.2.phase with | .far _ => true | _ => false)) &&
    (s.xfers.all fun p => p.2.group ≠ g) && (s.grp g).passes.all fun p => p.due.isEmpty

/-- The kill is reported; the group is dispatched again, or its launch is cancelled (R383, R384). A replay goes without more: its audit finds it gone, which
counts as a divergence (log 103). -/
def finishKill (s : State) (g cause who : Nat) : State :=
  let gr := s.grp g
  let die := dieOfCluster gr.cluster
  let x := s.lch gr.launch
  let n := nget x.killed gr.index 0 + 1
  let s1 := machineCheck s { cause := 6, sev := 2, unit := if cause = 17 then 8 else 0, die := die, who := who, aux := BitVec.ofNat 32 gr.index }
  let s2 := postEvent (postEvent s1 1 die who (BitVec.ofNat 32 cause)) 2 die who (BitVec.ofNat 32 gr.index)
  let s3 := if gr.selected then dropResting { s2 with gaffer := { s2.gaffer with una := satUp s2.gaffer.una } } g else s2
  if gr.replays.isSome then removeReplay s2 g
  else
  if x.kernel.idemk && cause = 17 && n < 4 && !x.cancelled then
    (removeGroup s3 g).modLch gr.launch fun y =>
      
      { y with
        open_ := y.open_ + 1, todo := sput y.todo gr.index, killed := nset y.killed gr.index n, since := nset y.since gr.index s.now }
  else removeGroup (cancelLaunch s3 gr.launch) g

/-- GROUP_KILL: a group is killed at once; when its stores have retired it goes (R383). -/
def groupKill (g cause who : Nat) (s : State) : State :=
  match nfind s.groups g with
  | none => s
  | some gr =>
    match gr.residency with
    | .killed c w => if killDone s g then finishKill s g c w else s
    | _ => killGroup s g cause who

/-- GROUP_KILL (R383). -/
def execGroupKill (g cause who : Nat) (s : State) : Host.Outcome State Fault Refusal := .next (groupKill g cause who s)

end Sys2Proof.Machine
end

