-- ==== Sys2Proof/Machine/TimeRegs.lean ====
section
/-! DEFINITION. The time instructions of class 0x9 (spec/09, R215 to R223), with their canonical results in deterministic mode
(Table 9.7). -/

namespace Sys2Proof.Machine

/-- TNOW: Now(), in deterministic mode the launch's start tick (R218, R216). -/
def execTnow (f : Fields) (s : State) : Host.Outcome State Fault Refusal :=
  issue 0x99 f (regs fun k s t => t.setT f.d.toNat { p := true, tick := sreadNow s k }) s

/-- Put an index into a list ordered by tick, ties by the index. -/
def byTick (t : Thread) (i : Nat) : List Nat → List Nat
  | [] => [i]
  | j :: r => if (t.readT i).tick < (t.readT j).tick then i :: j :: r else j :: byTick t i r

/-- The masked time registers in order of TICK, ties to the lower number; in deterministic mode in order of index (R219, R216). -/
def sortTimes (s : State) (k : Nat) (f : Fields) : List Nat :=
  let t := s.thr k
  if s.det k then maskedTimes t f else (maskedTimes t f).foldl (fun l i => byTick t i l) []

/-- The indices, one a nibble, the rest 0xF (R219). -/
def nibbles (l : List Nat) : Double :=
  BitVec.ofNat 64 ((List.range 16).foldl (fun n j => n + l.getD j 15 * 16 ^ j) 0)

/-- TSORT (R219). -/
def execTsort (f : Fields) (s : State) : Host.Outcome State Fault Refusal :=
  issue 0x9A f (regs fun k s t => t.wrd f.d.toNat (nibbles (sortTimes s k f))) s

/-- TMIN (R219). -/
def execTmin (f : Fields) (s : State) : Host.Outcome State Fault Refusal :=
  issue 0x9B f (regs fun k s t =>
    t.wr f.d.toNat (match sortTimes s k f with | [] => 0xFFFFFFFF | i :: _ => BitVec.ofNat 32 i)) s

/-- TDIFF: the signed difference of two ticks, or of a tick and Now(); 0 in deterministic mode (R220, R216). -/
def execTdiff (f : Fields) (s : State) : Host.Outcome State Fault Refusal :=
  issue 0x9C f (regs fun k s t =>
    let a : Int := (t.readT f.a.toNat).tick
    let b : Int := if f.m = 0 then (t.readT f.b.toNat).tick else s.nowOf k
    t.wrd f.d.toNat (if s.det k then 0 else BitVec.ofInt 64 (a - b))) s

/-- A time register as TMOV.get and TMOV.raw give it in deterministic mode: P, A as delivered, the launch's start tick (Table 9.7). -/
def detTime (s : State) (k : Nat) (v : TReg) : TReg := { p := true, a := v.a, tick := s.startOf k }

/-- TMOV: copies a time register; tA keeps its own binding (R221). -/
def execTmov (f : Fields) (s : State) : Host.Outcome State Fault Refusal :=
  issue 0x9D f (regs fun _ _ t => t.setT f.d.toNat (t.readT f.a.toNat)) s

/-- TMOV.get (R221). -/
def execTmovGet (f : Fields) (s : State) : Host.Outcome State Fault Refusal :=
  issue 0x9D f (regs fun k s t =>
    let v := t.readT f.a.toNat
    t.wrd f.d.toNat (if s.det k then detTime s k v else v).bits) s

/-- TMOV.raw: the bits as they stand (R221, R194). -/
def execTmovRaw (f : Fields) (s : State) : Host.Outcome State Fault Refusal :=
  issue 0x9D f (regs fun k s t =>
    let v := t.t f.a.toNat
    t.wrd f.d.toNat (if s.det k then detTime s k v else v).bits) s

/-- TMOV.set: sets P when neither P nor E is given (R221). -/
def execTmovSet (f : Fields) (s : State) : Host.Outcome State Fault Refusal :=
  issue 0x9D f (regs fun _ _ t =>
    let v := TReg.ofBits (t.d f.a.toNat)
    t.setT f.d.toNat (if !v.p && !v.e then { v with p := true } else v)) s

/-- TWAIT: it goes on once its wait has ended (R222; `ownReady` holds the wait). -/
def execTwait (f : Fields) (s : State) : Host.Outcome State Fault Refusal := issue 0x9E f (fun _ s => .go s) s

/-- The outcome of a condition of Table 9.8, in deterministic mode of Table 9.7. -/
def timeCond (s : State) (k : Nat) (f : Fields) : Bool :=
  let t := s.thr k
  let a := f.a.toNat
  let b := f.b.toNat
  match s.det k, f.cond with
  | true, 6 | true, 8 => false
  | true, 9 => true
  | true, 7 | false, 7 => (t.t a).a
  | false, 6 => (t.t a).l
  | false, 8 => (t.t a).e
  | false, 9 => (t.readT a).p
  | true, c => intCond c a b
  | false, c => intCond c (t.readT a).tick (t.readT b).tick

/-- TCMP.cc (R223). -/
def execTcmp (f : Fields) (s : State) : Host.Outcome State Fault Refusal :=
  issue 0x9F f (regs fun k s t =>
    let d := f.d.toNat
    t.wrBit d f.bit (mergeBit f.m.toNat ((t.x d).getLsbD f.bit) (timeCond s k f))) s

end Sys2Proof.Machine
end

