-- ==== Sys2Proof/Machine/System.lean ====
section
/-! DEFINITION. Class 0xF (spec/21): the control and status registers, context images, the cullet list and the audit control, halting,
gating, machine-check records, table entries, IDLE and the debugger's steps. -/

namespace Sys2Proof.Machine

/-! ### Cores taken out of service (R367, R374, R415) -/

/-- The resident groups that stand on a core. -/
def groupsOn (s : State) (core : Nat) : List Nat :=
  (s.groups.filter fun p =>
    p.2.residency = .resident && (groupCores p.2.cluster (s.lch p.2.launch).kernel.rows).contains core).map (·.1)

/-- Pre-empt the groups on a core (R104). -/
def clearCore (s : State) (core : Nat) : State := (groupsOn s core).foldl requestPreempt s

/-- CORHALT (R367). -/
def haltCore (s : State) (core : Nat) : State :=
  if s.liveCore core then clearCore (s.modCore core fun c => { c with halted := true }) core else s

/-- Put a core on the cullet list (R366, R415). -/
def addCullet (s : State) (core : Nat) : State := clearCore (s.modCore core fun c => { c with cullet := true }) core

/-- The gaffer, or AUDCFG.set, puts a core on the list: the host receives event 6 (R414). -/
def quarantine (s : State) (core : Nat) : State :=
  postEvent (addCullet s core) 6 (dieOfCore core) (core * 1024) (BitVec.ofNat 32 (s.core core).score)

/-- Write the audit control word: QPOL set from 0 to 1 puts the cores whose score is 512 or more on the list (R414). -/
def writeAudctl (s : State) (v : Word) : State :=
  let s1 := { s with csrs := { s.csrs with audctl := v &&& 0x7F } }
  if v.getLsbD 6 && !s.csrs.audctl.getLsbD 6 then
    s.cores.foldl (fun x p => if p.2.score ≥ 512 && !p.2.cullet then quarantine x p.1 else x) s1
  else s1

/-- Write FMASK: a written 0 clears a bit. A cleared LIVE acts as CORHALT, a cleared feature pre-empts the groups that declare it
(R374). -/
def writeFmask (s : State) (core : Nat) (v : Word) : State :=
  let old := (s.core core).fmask
  let new := old &&& v.setWidth 9
  let s1 := s.modCore core fun c => { c with fmask := new }
  let lost := (old.toNat % 32) - (new.toNat % 32)
  let s2 := (groupsOn s core).foldl (fun x g =>
    if (s.lch (s.grp g).launch).kernel.feat &&& lost != 0 then requestPreempt x g else x) s1
  if old.getLsbD 8 && !new.getLsbD 8 then clearCore (s2.modCore core fun c => { c with halted := true }) core else s2

/-! ### Control and status registers (R363, R373) -/

/-- A write to HDOOR wakes every thread in IDLE (R371). -/
def hdoorWrite (s : State) : State :=
  s.threads.foldl (fun x p => match p.2.wait with | .idle _ => wakeOn x p.1 | _ => x) s

/-- A write to CLKREQ: the pending request of a cluster, which a later one replaces (R23, R357). A ratio code 3 and a frequency outside
25 to 50 ask for nothing. -/
def clockRequest (s : State) (v : Word) : State :=
  let n := v.toNat
  let c := n % 256
  let ratio := if n / 1024 % 2 = 1 || n / 256 % 4 = 3 then none else some (n / 256 % 4)
  let f := n / 4096 % 64
  let mhz := if 25 ≤ f && f ≤ 50 then some (25 * f) else none
  if c ≥ Config.nClusters || (ratio.isNone && mhz.isNone) then s
  else s.modCluster c fun x => { x with ratioReq := ratio, mhzReq := mhz }

/-- The tenant that TNSEL selects. -/
def selected (s : State) : Nat := s.csrs.tnsel.toNat % 16

/-- Read a CSR, for a core (Table 21.2); a write-only register reads 0 (R8). -/
def csrRead (s : State) (core n : Nat) : Word :=
  let c := s.csrs
  let t := s.tenant (selected s)
  match n with
  | 0x000 => c.devid
  | 0x001 => c.diemask
  | 0x002 => BitVec.ofNat 32 core
  | 0x010 => c.sextl
  | 0x011 => c.sexth
  | 0x012 => c.sextn
  | 0x013 => c.stvec
  | 0x014 => c.tbasel
  | 0x015 => c.tbaseh
  | 0x020 => if (s.core core).dbgen then 1 else 0
  | 0x021 => (s.core core).fmask.setWidth 32
  | 0x022 => if (s.core core).halted then 1 else 0
  | 0x030 => c.precap
  | 0x040 => c.audctl
  | 0x050 => c.tnsel
  | 0x051 | 0x052 | 0x053 | 0x054 | 0x055 | 0x056 => t.part.getD (n - 0x051) 0
  | 0x057 => BitVec.ofNat 32 t.cores
  | 0x058 => BitVec.ofNat 32 t.bytes
  | 0x059 => BitVec.ofNat 32 t.power
  | 0x05A => BitVec.ofNat 32 t.pcap
  | 0x060 => c.mclost
  | _ => 0

/-- Write a CSR, for a core, under its access code (Tables 0.1, 21.2); reserved bits, and the low bits of an address that is a multiple,
stay 0 (R9). A new partition or budget of bytes has the power controller set the tenant's grants anew (R354, log 4). -/
def csrWrite (s : State) (core n : Nat) (v : Word) : State :=
  let c := s.csrs
  match n with
  | 0x010 => { s with csrs := { c with sextl := v &&& ~~~0x3F } }
  | 0x011 => { s with csrs := { c with sexth := v &&& 0xFFFFF } }
  | 0x012 => { s with csrs := { c with sextn := v } }
  | 0x013 => { s with csrs := { c with stvec := v } }
  | 0x014 => { s with csrs := { c with tbasel := v &&& ~~~0xFFF } }
  | 0x015 => { s with csrs := { c with tbaseh := v &&& 0xFFFFF } }
  | 0x020 => s.modCore core fun x => { x with dbgen := v.getLsbD 0 }
  | 0x021 => writeFmask s core v
  | 0x030 => { s with csrs := { c with precap := v &&& 0xFF } }
  | 0x031 => hdoorWrite s
  | 0x040 => writeAudctl s v
  | 0x050 => { s with csrs := { c with tnsel := v &&& 0xF } }
  | 0x051 | 0x052 | 0x053 | 0x054 | 0x055 | 0x056 =>
    setGrants (s.modTenant (selected s) fun t => { t with part := t.part.set (n - 0x051) v }) (selected s)
  | 0x057 => s.modTenant (selected s) fun t => { t with cores := v.toNat % 2 ^ 10 }
  | 0x058 => setGrants (s.modTenant (selected s) fun t => { t with bytes := v.toNat % 2 ^ 24 }) (selected s)
  | 0x059 => s.modTenant (selected s) fun t => { t with power := v.toNat % 2 ^ 16 }
  | 0x05A => s.modTenant (selected s) fun t => { t with pcap := v.toNat % 4 }
  | 0x060 => { s with csrs := { c with mclost := c.mclost &&& ~~~v } }
  | 0x070 => clockRequest s v
  | _ => s

/-- SRET (R376, R372; `ownReady` holds it while a write to the thread's registers is pending). -/
def execSret (f : Fields) (s : State) : Host.Outcome State Fault Refusal := issue 0xF0 f (fun k s => .set (debugStop (returnTrap s k) k)) s

/-- CSRR (R363). -/
def execCsrr (f : Fields) (s : State) : Host.Outcome State Fault Refusal :=
  issue 0xF1 f (regs fun k s t => t.wr f.d.toNat (csrRead s (s.coreOf k) f.imm18.toNat)) s

/-- CSRW: takes effect before the thread's next issue (R363). -/
def execCsrw (f : Fields) (s : State) : Host.Outcome State Fault Refusal :=
  issue 0xF2 f (fun k s => .go (csrWrite s (s.coreOf k) f.imm18.toNat ((s.thr k).x f.a.toNat))) s

/-! ### TLBs (R364) -/

/-- TLBINV.all: the sweep of every core takes no ticks here (R364). -/
def execTlbinvAll (f : Fields) (s : State) : Host.Outcome State Fault Refusal := issue 0xF3 f (fun _ s => .go (sweepAll s)) s

/-- TLBINV.page: bits [63:52] of d[A] must be zero (R364). -/
def execTlbinvPage (f : Fields) (s : State) : Host.Outcome State Fault Refusal :=
  issue 0xF3 f (fun k s =>
    let a := ((s.thr k).d f.a.toNat).toNat
    if a ≥ 2 ^ 52 then .fault { cause := causeIllegal, sub := 1 } else .go (sweepPage s a)) s

/-! ### Context images (R365) -/

/-- The bytes of an image. -/
def imageBytes : Nat := 2320

/-- The key of a page of a multi-page store: its leaf is in the core's TLB, or it is resolved as a store's is (R228). -/
def pageKey (s : State) (k space va : Nat) : Resolved :=
  match (if translated space then leafOf s k space va else none) with
  | some l => leafStore (s.modThr k fun t => if t.walked = some (.leaf l) then { t with walked := none } else t) k space va l
  | none => resolve s k space va

/-- The stores of an image: 145 of 16 bytes, the last bound to the time register; one of them holds the counter (R365, R252). -/
def storeImage (f : Fields) (k : Nat) (space va : Nat) (img : List Byte) (s : State) (key0 key1 : Nat) : State :=
  let room := 4096 - va % 4096
  let before := (s.thr k).stores
  let first := s.ids
  let s1 := (List.range 145).foldl (fun x i =>
    let off := 16 * i
    startUpd x k
      { kind := .store ((img.drop off).take 16) false, space := space, va := (va + off) % 2 ^ 52
        key := if off < room then key0 + off else key1 + (off - room), bytes := 16
        treg := if i = 144 then some f.time else none, phase := .staged }) s
  let counted := (s1.upds.filter fun p => first ≤ p.1 && p.2.counted).map (·.1)
  { s1.modThr k fun t => { t with stores := before + min counted.length 1 } with
    upds := s1.upds.map fun p => if first ≤ p.1 then (p.1, { p.2 with counted := counted.head? = some p.1 }) else p }

/-- The host has refused the copy-on-write of a page that CTXSV writes: the word writes nothing, its time register receives the tick, and the thread holds the
refusal with code 5 (R240, R285, R397, log 106). -/
def ctxsvRefused (s : State) (k : Nat) (f : Fields) (space a : Nat) : State :=
  let here : Bool := match walk s (s.lchOf k).tenant (s.tva k space a) with | .leaf l => l.state = 1 | .notMapped => false
  let s1 := s.modThr k fun t => { t.setT f.time { p := true, tick := s.nowOf k } with cowRefused := false }
  machineCheck (holdRefusal s1 k (s.thr k).pc (if here then a else a / 4096 * 4096 + 4096) 5)
    { cause := 5, sev := 1, die := s.dieOf k, who := (s.thr k).owner }

/-- CTXSV: the thread's registers as they stand, PC the word itself (R365). -/
def ctxsv (f : Fields) (k : Nat) (s : State) : Act :=
  let c := capA s k f
  let a := addrOf s k f
  match accessFault s k c permST a imageBytes 64 with
  | some x => .fault x
  | none =>
    let t := s.thr k
    let img := bytesOfWords (imageWords t (statusOf s k t.status) (s.kernOf k).regs t.pc 0 0 0)
    if t.cowRefused then .go (ctxsvRefused s k f c.space a)
    else
    match pageKey s k c.space a with
    | .fault x => .fault x
    | .hold s' => .stay s'
    | .key s1 key0 =>
      if porchFull s1 (s1.dieOf k) key0 then .stay s1
      else if a % 4096 + imageBytes ≤ 4096 || !translated c.space then .go (storeImage f k c.space a img s1 key0 (key0 + (4096 - a % 4096)))
      else
        match pageKey s1 k c.space (a / 4096 * 4096 + 4096) with
        | .fault x => .fault x
        | .hold s' => .stay s'
        | .key s2 key1 => if porchFull s2 (s2.dieOf k) key1 then .stay s2 else .go (storeImage f k c.space a img s2 key0 key1)

/-- CTXSV (R365). -/
def execCtxsv (f : Fields) (s : State) : Host.Outcome State Fault Refusal := issue 0xF4 f (ctxsv f) s

/-- CTXLD: the image is read as loads read, and checked; a bad one, and one that is not there or poisoned, is a double fault (R365). -/
def ctxld (f : Fields) (k : Nat) (s : State) : Act :=
  let c := capA s k f
  let a := addrOf s k f
  match accessFault s k c permLD a imageBytes 64 with
  | some x => .fault x
  | none =>
    let t := s.thr k
    let regs := (s.kernOf k).regs
    let kill : Act := .set (killGroup s (gidOf k) 16 t.owner)
    let (space, va) := xferVa s k c.space a
    match readUnit s (gidOf k) (s.dieOf k) space va imageBytes { k := k, before := s.ids, own := true } with
    | .bytes img => if imageValid t regs img then .go (s.setThr k (t.restore regs img)) else kill
    | .wait _ | .later _ => .stay s
    | .absent | .poisoned _ => kill

/-- CTXLD (R365). -/
def execCtxld (f : Fields) (s : State) : Host.Outcome State Fault Refusal := issue 0xF5 f (ctxld f) s

/-! ### Quarantine and audit control (R366) -/

/-- QUAR's word: the score, the list, the report bit, as they stood (R366). -/
def quarWord (s : State) (core : Nat) : Word :=
  let c := s.core core
  if core ≥ Config.nCores then 0xFFFFFFFF
  else BitVec.ofNat 32 (c.score % 65536 + c.cullet.toNat * 65536 + c.report.toNat * 131072)

/-- A QUAR word: what it does to a core, and the word it writes. -/
def quar (f : Fields) (act : State → Nat → State) (k : Nat) (s : State) : Act :=
  let core := ((s.thr k).x f.a.toNat).toNat
  .go ((if core ≥ Config.nCores then s else act s core).modThr k fun t => t.wr f.d.toNat (quarWord s core))

/-- QUAR.add (R366). -/
def execQuarAdd (f : Fields) (s : State) : Host.Outcome State Fault Refusal := issue 0xF6 f (quar f addCullet) s

/-- QUAR.rem (R366). -/
def execQuarRem (f : Fields) (s : State) : Host.Outcome State Fault Refusal :=
  issue 0xF6 f (quar f fun s c => s.modCore c fun x => { x with cullet := false }) s

/-- QUAR.get (R366). -/
def execQuarGet (f : Fields) (s : State) : Host.Outcome State Fault Refusal := issue 0xF6 f (quar f fun s _ => s) s

/-- AUDCFG.set (R366). -/
def execAudcfgSet (f : Fields) (s : State) : Host.Outcome State Fault Refusal :=
  issue 0xF7 f (fun k s =>
    .go ((writeAudctl s ((s.thr k).x f.a.toNat)).modThr k fun t => t.wr f.d.toNat s.csrs.audctl)) s

/-- AUDCFG.get (R366). -/
def execAudcfgGet (f : Fields) (s : State) : Host.Outcome State Fault Refusal :=
  issue 0xF7 f (regs fun _ s t => t.wr f.d.toNat s.csrs.audctl) s

/-! ### Halting and gating (R367, R368) -/

/-- The core that CORHALT and CORWAKE name. -/
def namedCore (s : State) (k : Nat) (f : Fields) : Nat :=
  let v := (s.thr k).x f.a.toNat
  if v = 0xFFFFFFFF then s.coreOf k else v.toNat

/-- CORHALT (R367). -/
def execCorhalt (f : Fields) (s : State) : Host.Outcome State Fault Refusal :=
  issue 0xF8 f (fun k s => .go (haltCore s (namedCore s k f))) s

/-- CORWAKE (R367). -/
def execCorwake (f : Fields) (s : State) : Host.Outcome State Fault Refusal :=
  issue 0xF9 f (fun k s =>
    let c := namedCore s k f
    .go (if s.liveCore c then s.modCore c fun x => { x with halted := false } else s)) s

/-- A cluster may be gated: it holds no group, or every thread on it is parked (R358). -/
def idleCluster (s : State) (c : Nat) : Bool := allParked s c

/-- A cluster with a live core. -/
def liveCluster (s : State) (c : Nat) : Bool := c < Config.nClusters && (coresOf c).any s.liveCore

/-- Gate a cluster (R358). -/
def gateCluster (s : State) (c : Nat) : State :=
  s.modCluster c fun x => { x with gated := true, gatedAt := some s.now, wakeReq := none, wakeGrid := false }

/-- A dispatch to a cluster is to be made at this tick (R358, R368). -/
def dispatchNow (s : State) (c : Nat) : Bool := (nextPlace s).any fun p => p.2.cluster == c

/-- PWRGATE's status and effect (R368). -/
def pwrgate (gate : Bool) (s : State) (c : Nat) : State × Nat :=
  let x := s.cluster c
  if !liveCluster s c then (s, 2)
  else if gate then
    if x.gated then (if x.wakeReq.isSome then (s, 1) else (s, 2))
    else if idleCluster s c && !dispatchNow s c then (gateCluster s c, 0)
    else (s, 1)
  else if x.gated && x.wakeReq.isNone then (wakeCluster s c, 0)
  else (s, 2)

/-- A PWRGATE word. -/
def pwrgateWord (gate : Bool) (f : Fields) (k : Nat) (s : State) : Act :=
  let (s1, st) := pwrgate gate s ((s.thr k).x f.a.toNat).toNat
  .go (s1.modThr k fun t => t.wr f.d.toNat (BitVec.ofNat 32 st))

/-- PWRGATE.gate (R368). -/
def execPwrgateGate (f : Fields) (s : State) : Host.Outcome State Fault Refusal := issue 0xFA f (pwrgateWord true f) s

/-- PWRGATE.wake (R368). -/
def execPwrgateWake (f : Fields) (s : State) : Host.Outcome State Fault Refusal := issue 0xFA f (pwrgateWord false f) s

/-! ### Machine-check records (R369) -/

/-- The words of the oldest record of a die; zeros for an empty queue. -/
def oldestRecord (s : State) (die : Nat) : List Word :=
  match (s.die die).mcq with
  | [] => List.replicate 8 0
  | r :: _ => r.words

/-- An MCREAD word: four words of the record, and then what becomes of the queue (R369). -/
def mcread (f : Fields) (first : Nat) (pop : Bool) (k : Nat) (s : State) : Act :=
  let v := ((s.thr k).x f.a.toNat).toNat
  if v ≥ 16 then .fault { cause := causeIllegal, sub := 1 }
  else
    let ws := ((oldestRecord s v).drop first).take 4
    let s1 := if pop then s.modDie v fun d => { d with mcq := d.mcq.drop 1 } else s
    .go (s1.modThr k fun t => (ws.zipIdx.foldl (fun u p => u.wr (f.d.toNat + p.2) p.1) t))

/-- MCREAD.lo (R369). -/
def execMcreadLo (f : Fields) (s : State) : Host.Outcome State Fault Refusal := issue 0xFB f (mcread f 0 false) s

/-- MCREAD.hi (R369). -/
def execMcreadHi (f : Fields) (s : State) : Host.Outcome State Fault Refusal := issue 0xFB f (mcread f 4 false) s

/-- MCREAD.pop (R369). -/
def execMcreadPop (f : Fields) (s : State) : Host.Outcome State Fault Refusal := issue 0xFB f (mcread f 4 true) s

/-! ### Table entries (R370) -/

/-- Start the update of a table entry: it is no store of a counter, and no deterministic launch stages it (R370, R252). -/
def startPte (s : State) (k : Nat) (treg : Nat) (va key : Nat) (e : Double) : State :=
  let id := s.ids
  let u : Upd :=
    { th := some k, core := s.coreOf k, lane := laneOf k, die := s.dieOf k, kind := .pte e, va := va, key := key, bytes := 8, v := true
      treg := some treg, pc := (s.thr k).pc, issued := s.now, phase := .staged }
  sendUpd ({ s with ids := id + 1, upds := nset s.upds id u }.modThr k fun t => t.bind treg id) id

/-- PTESET (R370). -/
def execPteset (f : Fields) (s : State) : Host.Outcome State Fault Refusal :=
  issue 0xFC f (fun k s =>
    let a := addrOf s k f
    match accessFault s k (capA s k f) permST a 8 8 [0] with
    | some x => .fault x
    | none =>
      match resolve s k 0 a with
      | .fault x => .fault x
      | .hold s' => .stay s'
      | .key s' key =>
        if porchFull s' (s'.dieOf k) key then .stay s' else .go (startPte s' k f.time a key ((s'.thr k).d f.d.toNat))) s

/-- A table entry that a page operation at the host waits for has been written since: the operation, and the entry (R397, R400). -/
def entrySettled (s : State) : Option (Nat × Double) :=
  s.pageOps.findSome? fun p =>
    let e := BitVec.ofNat 64 (rdNat s p.2.leaf.entry 8)
    match p.2.kind, p.2.phase with
    | .pagein _, .host => if pteV e && pteState e = 0 then some (p.2.leaf.entry, e) else none
    | .cow _ _, .host => if e ≠ p.2.leaf.raw then some (p.2.leaf.entry, e) else none
    | _, _ => none

/-! ### IDLE and the debugger (R371, R372) -/

/-- IDLE (R371). -/
def execIdle (f : Fields) (s : State) : Host.Outcome State Fault Refusal :=
  issue 0xFD f (fun k s =>
    let w := ((s.thr k).d f.a.toNat).toNat % 2 ^ 60
    parkUntil s k w (.idle w)) s

/-- The thread whose owner identity is a number: a stopped one before any other. -/
def ownedBy (s : State) (n : Nat) : Option Nat :=
  let ks := (s.threads.filter fun p => p.2.owner = n && p.2.life ≠ .exited && (s.grpOf p.1).residency = .resident).map (·.1)
  (ks.find? fun k => (s.thr k).life == .stopped) <|> ks.head?

/-- DBGSTEP's status, and the stopped thread it lets go (R372). -/
def dbgstep (step : Bool) (f : Fields) (k : Nat) (s : State) : Act :=
  let answer (x : State) (n : Nat) : Act := .go (x.modThr k fun t => t.wr f.d.toNat (BitVec.ofNat 32 n))
  match ownedBy s (((s.thr k).x f.a.toNat).toNat % 2 ^ 20) with
  | none => answer s 1
  | some j =>
    if (s.thr j).life != .stopped then answer s 1
    else if !(s.core (s.coreOf j)).dbgen then answer s 2
    else answer (s.modThr j fun t => { t with life := .live, debugStep := step }) 0

/-- DBGSTEP.step (R372). -/
def execDbgstepStep (f : Fields) (s : State) : Host.Outcome State Fault Refusal := issue 0xFE f (dbgstep true f) s

/-- DBGSTEP.run (R372). -/
def execDbgstepRun (f : Fields) (s : State) : Host.Outcome State Fault Refusal := issue 0xFE f (dbgstep false f) s

end Sys2Proof.Machine
end

