-- ==== Sys2Proof/Machine/Power.lean ====
section
/-! DEFINITION. Power, clocks, time and soft errors (spec/01, 20, 21, 24): the damper's intervals, the slew limiter, gating, changes of
ratio and clock, temperatures, the comparison of the copies of device time, soft errors, and the safe state. Each is an event that acts
when its condition holds and else changes nothing. -/

namespace Sys2Proof.Machine

/-! ### The damper (R354, R355) -/

/-- The interval in which a cluster stands, on its die's copy of device time (R26, R354). -/
def damperNow (s : State) (c : Nat) : Nat := intervalOf (s.nowOn (dieOfCluster c))

/-- A new grant of a cluster counts from the interval in which it stands, or from one before it. -/
def grantDue (i : Nat) (c : Cluster) : Bool := c.nextGrant.any (·.1 ≤ i)

/-- An interval in which no booking was moved lies behind a throttled cluster (R355). -/
def throttleEnds (i : Nat) (c : Cluster) : Bool := c.throttled && c.movedIn.all (· + 2 ≤ i)

/-- A cluster has something to do as an interval begins: a new grant, charges of past intervals, the end of throttling. -/
def damperWork (i : Nat) (c : Cluster) : Bool := grantDue i c || (c.used.any fun p => p.1 < i) || throttleEnds i c

/-- DAMPER_INTERVAL acts. -/
def damperDue (s : State) : Bool := s.clusters.any fun p => damperWork (damperNow s p.1) p.2

/-- One cluster as an interval begins: the new grant takes effect, past charges are dropped; throttling ends after an interval in which
no booking was moved (R354, R355). -/
def damperCluster (s : State) (c : Nat) : State :=
  let i := damperNow s c
  let x := s.cluster c
  let s1 := s.modCluster c fun y =>
    { y with
      grant := if grantDue i y then y.nextGrant.map (·.2) else y.grant
      nextGrant := if grantDue i y then none else y.nextGrant
      used := y.used.filter fun p => i ≤ p.1, moved := y.moved.filter fun p => i ≤ p.1, throttled := y.throttled && !throttleEnds i y }
  if throttleEnds i x then throttleEdge s1 c false else s1

/-- DAMPER_INTERVAL (R354). -/
def damperInterval (s : State) : State := if damperDue s then (s.clusters.map (·.1)).foldl damperCluster s else s

/-- DAMPER_INTERVAL (R354). -/
def execDamperInterval (s : State) : Host.Outcome State Fault Refusal := .next (damperInterval s)

/-- A lower grant for a cluster, from an interval on: the least of it, of the grant and of one that is to come. -/
def lowerGrant (i grant : Nat) (x : Cluster) : Cluster :=
  { x with nextGrant := some (i, ((x.nextGrant.map (·.2)).toList ++ x.grant.toList).foldl min grant) }

/-- JUNCTION_OVERTEMP: the power controller lowers the grants of a die's clusters at the next interval boundary (R431). -/
def execJunctionOvertemp (die grant : Nat) (s : State) : Host.Outcome State Fault Refusal :=
  .next ((clustersOf (die % 16)).foldl (fun x c => x.modCluster c (lowerGrant (damperNow s c + 1) grant)) s)

/-! ### Gating and the slew limiter (R358, R359) -/

/-- A thread needs its cluster to run now: it is not parked, or its wake tick lies at most 64 ticks ahead (R358); of PARK, and of a wait for data, the
wake tick lies 16 before what it waits for (R101). -/
def needsRunning (s : State) (k : Nat) : Bool :=
  let t := s.thr k
  let paused := t.atHeader && (s.grpOf k).preempt
  t.life == .live &&
    (match t.wait with
     | .none => !paused && !parkedOnData s 80 k
     | .park w => w ≤ s.nowOf k + 80
     | .woken _ => true
     | .tick w | .idle w => w ≤ s.nowOf k + 64
     | _ => false)

/-- A gated cluster that must run. -/
def wakeNeeded (s : State) (c : Nat) : Bool :=
  s.groups.any fun p => p.2.cluster = c && p.2.residency = .resident && (threadsOf s p.1).any (needsRunning s)

/-- A gated cluster that must run, and has not asked yet. -/
def slewAsks (s : State) (c : Nat) : Bool := (s.cluster c).gated && (s.cluster c).wakeReq.isNone && wakeNeeded s c

/-- A cluster that has asked may be admitted: it is the first that waits, the limiter has room, and no release of BAR.GRID goes before it (R359). -/
def slewTurn (s : State) (c : Nat) : Bool :=
  let x := s.cluster c
  x.gated && x.wakeReq.any fun t => (slewQueue s).head? = some c && slewRoom s && (x.wakeGrid || !gridAhead s t)

/-- SLEW_ADMIT: a gated cluster whose threads wake asks to run; the first that waits is admitted (R358, R359). -/
def slewAdmit (c : Nat) (s : State) : State :=
  if slewAsks s c then wakeCluster s c else if slewTurn s c then admitCluster s c else s

/-- SLEW_ADMIT (R359). -/
def execSlewAdmit (c : Nat) (s : State) : Host.Outcome State Fault Refusal := .next (slewAdmit c s)

/-- CLUSTER_GATE: the idle policy gates a cluster; one that a dispatch or a wake needs is left running (R358). -/
def execClusterGate (c : Nat) (s : State) : Host.Outcome State Fault Refusal :=
  when s (liveCluster s c && !(s.cluster c).gated && idleCluster s c && !wakeNeeded s c) (gateCluster s c)

/-! ### Lane ratio and clock (R22, R23, R357) -/

/-- No group is resident on a cluster. -/
def emptyCluster (s : State) (c : Nat) : Bool := s.groups.all fun p => p.2.cluster ≠ c || p.2.residency = .saved

/-- The counts of cycles and beat slots so far are kept when a clock changes. -/
def rebase (s : State) (c : Nat) (x : Cluster) : Cluster :=
  { x with cycles := cycleCount s c, slots := slotsBefore s c s.now, cycleAt := s.now }

/-- RATIO_CHANGE: a requested lane ratio takes effect once the last resident group has left (R22). -/
def execRatioChange (c : Nat) (s : State) : Host.Outcome State Fault Refusal :=
  when s ((s.cluster c).ratioReq.isSome && emptyCluster s c)
    (s.modCluster c fun x => { rebase s c x with ratio := x.ratioReq.getD x.ratio, ratioReq := none })

/-- CLOCK_CHANGE: a requested frequency takes effect under the same condition; the cycles so far are kept (R23, R350). -/
def execClockChange (c : Nat) (s : State) : Host.Outcome State Fault Refusal :=
  when s ((s.cluster c).mhzReq.isSome && emptyCluster s c)
    (s.modCluster c fun x =>
      { rebase s c x with mhz := x.mhzReq.getD x.mhz, mhzReq := none })

/-- CLKREQ: a write of the register by the host (R23, R357). -/
def execClkreq (v : Word) (s : State) : Host.Outcome State Fault Refusal := .next (clockRequest s v)

/-! ### The safe state (R428) and temperatures (R431) -/

/-- Memory outside the package, which the loss of the device's own state leaves alone: pooled memory, the host's, other devices'. -/
def outsideMemory (m : List Host.Cell) : List Host.Cell := m.filter fun c => 2 ^ 48 ≤ c.1 && c.1 < 2 ^ 52

/-- All volatile state is lost: the device as at reset, with the memory outside it, the inputs still to come, the counter of free values,
and the service controller. -/
def loseState (s : State) : State :=
  { State.reset with
    mem := outsideMemory s.mem, inputs := s.inputs, free := s.free, delays := s.delays, service := s.service }

/-- Enter the safe state for a cause of Table 24.5; `stage` is the bring-up stage reached (R428). -/
def enterSafe (s : State) (stage cause : Nat) : State :=
  let x := loseState s
  { x with service := { x.service with stage := stage, safe := cause } }

/-- THERMAL_SHUTDOWN: work in flight is lost and the host link drops (R431). Table 24.5 names no cause for it: the reply holds a free
value. -/
def execThermalShutdown (s : State) : Host.Outcome State Fault Refusal := .next (enterSafe s 6 10)

/-- The loads booked through a pseudo-channel whose bytes are not yet read. -/
def channelLoads (s : State) (die pc : Nat) : List (Nat × Ret) :=
  s.rets.filter fun p =>
    match p.2.phase, p.2.key with
    | .booked _ _, some key =>
      p.2.stack && homeOf key == .die die && (Config.freeChannel (lineOf key)).val = pc && !p.2.est
    | _, _ => false

/-- A thermal stop breaks a load's promise: the revised one lies later by a free number of ticks (R212 cause 3, R213). -/
def stopLoad (die pc : Nat) (s : State) (p : Nat × Ret) : State :=
  let land := match p.2.phase with | .booked _ l => l | _ => s.now
  brokenPromise p.1 { cause := 3, die := die, element := pc, fails := false, delay := land - s.now + 1 + Config.freeEstimate s.free }
    s.drawn

/-- HBM_THERMAL_STOP: each promise through the pseudo-channel is broken and its path score steps; it steps once where none has stepped it
(R431, R412). -/
def execHbmThermalStop (die pc : Nat) (s : State) : Host.Outcome State Fault Refusal :=
  let d := die % 16
  let c := pc % 64
  let e := 64 * d + c
  let t := (channelLoads s d c).foldl (stopLoad d c) s
  .next (if nget t.pathScore e 0 = nget s.pathScore e 0 then chargePath t e else t)

/-! ### Device time (R381) -/

/-- A die's copy of device time is more than one tick off. -/
def timeOff (x : Die) : Bool := x.ahead > x.behind + 1 || x.behind > x.ahead + 1

/-- TIME_COMPARE acts. -/
def compareDue (s : State) : Bool := s.now % 1024 = 0 && s.dies.any fun p => timeOff p.2

/-- A tick that a die keeps, on die 0's copy, after a change of the die's copy: the tick keeps its value on the die, and what is booked for it runs when
the copy reaches it (R26, R381). -/
def movedTick (old new : State) (d t : Nat) : Nat := if t < old.now then t else tickOn new d (old.onDie d t)

/-- The die that keeps the calendar of a booking point, if one does. -/
def pointDie (p : Nat) : Option Nat :=
  if p < 768 then some (dieOfCore p)
  else if 1024 ≤ p && p < 1216 then some (dieOfCluster (p - 1024))
  else if 2048 ≤ p && p < 2144 then some (p % 16)
  else if 4096 ≤ p then some ((p - 4096) / 64)
  else none

/-- The die at which a read is made: its home, or that of its core. -/
def readDie (r : Ret) : Nat := match r.key.map homeOf with | some (.die d) => d | _ => dieOfCore r.core

/-- The ticks that a die keeps follow a change of its copy of device time: the bookings, the leases and pins, the lehr's (R26, R381). -/
def moveTimes (old new : State) (d : Nat) : State :=
  let f := movedTick old new d
  let here (line : Nat) : Bool := homeOf (64 * line) == .die d
  { new with
    rets := new.rets.map fun p =>
      let r := p.2
      let land (t : Nat) : Nat := if dieOfCore r.core = d then f t else t
      let read (t : Nat) : Nat := if readDie r = d then f t else t
      (p.1, { r with
        phase := match r.phase with
          | .probe k x l => .probe (land k) (read x) (land l)
          | .booked x l => .booked (read x) (land l)
          | .read l => .read (land l)
          | x => x })
    upds := new.upds.map fun p =>
      if homeOf p.2.key == .die d then
        let u := { p.2 with notBefore := if p.2.notBefore = 0 then 0 else f p.2.notBefore }
        match u.phase with
        | .lehr c => (p.1, { u with phase := .lehr (f c), c := some (f c) })
        | _ => (p.1, u)
      else p
    groups := new.groups.map fun p =>
      if dieOfCluster p.2.cluster = d then
        (p.1, { p.2 with passes := p.2.passes.map fun q => { q with due := q.due.map f, firm := q.firm.map f } })
      else p
    leases := new.leases.map fun p => if here p.1 then (p.1, f p.2) else p
    pins := new.pins.map fun p => if here (p.1 / 1024) then (p.1, (f p.2.1, f p.2.2)) else p
    cores := new.cores.map fun p =>
      if dieOfCore p.1 = d then (p.1, { p.2 with l1 := p.2.l1.map fun e => (e.1, f e.2) }) else p
    calendars := new.calendars.map fun p =>
      if pointDie p.1 = some d then (p.1, p.2.foldl (fun m e => nset m (f e.1) (nget m (f e.1) 0 + e.2)) []) else p }

/-- Reload a die's copy: one ahead is held until die 0 reaches its value, one behind steps forward at once; the record names the last good
comparison (R381, R382). -/
def reloadTime (s : State) (d : Nat) : State :=
  let x := s.die d
  if !timeOff x then s
  else
    let s1 := s.modDie d fun y =>
      { y with heldTo := if y.ahead > y.behind then s.nowOn d else y.heldTo, ahead := 0, behind := 0 }
    machineCheck (moveTimes s s1 d) { cause := 7, sev := 3, unit := 12, die := d, tick := x.lastGood }

/-- A fault has put a die's copy off by some ticks, ahead or behind: a copy never reads below 0. -/
def spoilTime (s : State) (d ticks : Nat) (ahead : Bool) : State :=
  moveTimes s
    (s.modDie d fun x =>
      { x with
        ahead := if ahead then x.ahead + ticks else x.ahead
        behind := if ahead then x.behind else x.behind + min ticks (s.now + x.ahead - x.behind)
        lastGood := s.now / 1024 * 1024 }) d

/-- TIME_COMPARE (R381). -/
def execTimeCompare (s : State) : Host.Outcome State Fault Refusal :=
  when s (compareDue s) ((s.dies.map (·.1)).foldl reloadTime s)

/-! ### Soft errors (R380, Table 21.7) -/

/-- The groups whose cluster SRAM, their own or their launch's shared allocation, holds a byte (R383). -/
def sramOwners (s : State) (cluster off : Nat) : List Nat :=
  (s.groups.filter fun p =>
    let k := (s.lch p.2.launch).kernel
    let at_ (b n : Nat) : Bool := b ≤ off && off < b + n
    p.2.cluster = cluster && p.2.residency = .resident &&
      (at_ p.2.sramBase (allocBytes k.clusterBytes) ||
        (nfind (s.lch p.2.launch).shares cluster).any fun b => at_ b (allocBytes k.shareBytes))).map (·.1)

/-- The loads that a line of a memory-side cache is to serve and whose bytes are not yet read. -/
def cacheLoads (s : State) (line : Nat) : List (Nat × Ret) :=
  s.rets.filter fun p =>
    p.2.source = 2 && p.2.key.any (fun a => lineOf a == line) && (match p.2.phase with | .booked _ _ => true | _ => false)

/-- The loads that a line of a stack is to serve and whose bytes are not yet read. -/
def stackLoads (s : State) (line : Nat) : List (Nat × Ret) :=
  s.rets.filter fun p => p.2.stack && p.2.key.any (fun a => lineOf a == line) && (match p.2.phase with | .booked _ _ => true | _ => false)

/-- A load whose line is fetched again from the stack: a read retry (Table 21.7, R212 cause 2), which ends by a free number of ticks later. -/
def refetchLoad (e : SoftErr) (s : State) (p : Nat × Ret) : State :=
  let land := match p.2.phase with | .booked _ l => l | _ => s.now
  brokenPromise p.1
    { cause := 2, die := e.die % 16, element := (Config.freeChannel (lineOf e.addr)).val, fails := false
      delay := land - s.now + 1 + Config.freeEstimate s.free } (s.drawn.modRet p.1 fun r => { r with stack := true, source := if r.source = 2 then 3 else r.source })

/-- The record of a soft error. -/
def softRec (s : State) (e : SoftErr) (cause sev who addr : Nat) : State :=
  machineCheck s { cause := cause, sev := sev, unit := e.unit, die := e.die % 16, who := who, addr := addr }

/-- An uncorrectable error, by the unit that it strikes. -/
def softBad (s : State) (e : SoftErr) : State :=
  match e.unit with
  | 1 => (stackLoads s (lineOf e.addr)).foldl (refetchLoad e) (softRec (poisonMem s (e.addr / 32 * 32) 32) e 2 1 0 e.addr)
  | 2 =>
    if e.index = 0 then
      (cacheLoads s (lineOf e.addr)).foldl (refetchLoad e) (softRec { s with cached := sdel s.cached (lineOf e.addr) } e 1 0 0 e.addr)
    else softRec (poisonMem s (e.addr / 32 * 32) 32) e 2 1 0 e.addr
  | 3 => refuse s e.index 4
  | 5 =>
    (match nfind s.rets e.index with
     | some r =>
       (match r.kind, r.phase with
        | .load _ _, .booked _ _ | .load _ _, .read _ =>
          softRec (s.modRet e.index fun x => { x with poisoned := true }) e 2 1 (s.thr r.th).owner 0
        | _, _ => softRec s e 2 1 0 e.addr)
     | none => softRec s e 2 1 0 e.addr)
  | 7 =>
    if (nfind s.threads e.index).isSome && e.addr ≠ 0 && e.addr < 512 then
      softRec (s.modThr e.index fun t => t.markPoison e.addr 1) e 2 1 (s.thr e.index).owner 0
    else softRec s e 2 1 0 0
  | 8 =>
    (match sramOwners s e.index e.addr with
     | [] => softRec s e 2 1 (e.index * 4 * 1024) 0
     | gs => gs.foldl (fun x g => killGroup x g 17 (e.index * 4 * 1024)) s)
  | 9 => poisonMem s (pantryKey e.index (e.addr / 8192 % 128) (e.addr % 8192 / 16 * 16)) 16
  | 10 =>
    let a := accBase e.index (e.addr / 4096 % 32) + e.addr % 4096
    softRec { s with accPoison := sput s.accPoison a } e 2 1 (e.index * 4 * 1024) 0
  | 11 => poisonMem s (e.addr / 8 * 8) 8
  | 12 =>
    if e.die % 16 = 0 then s else spoilTime s (e.die % 16) e.addr (e.index = 0)
  | _ => softRec s e 1 0 0 0

/-- SOFT_ERROR: a corrected one is a record alone; any other acts as Table 21.7 says for its unit. An error of the pantry, or of a table
page, is found, and recorded, by what reads it (R328, R391). -/
def execSoftError (e : SoftErr) (s : State) : Host.Outcome State Fault Refusal :=
  .next (if e.corrected then softRec s e 1 0 0 (if e.unit ≤ 2 then e.addr else 0) else softBad s e)

end Sys2Proof.Machine
end

