-- ==== Sys2Proof/Machine/Audit.lean ====
section
/-! DEFINITION. The gaffer (spec/23): the digest of a run, replays and tiebreaks, scores, reports and quarantine, held segments. What a
replay or a tiebreak gives, its run on the device decides; an input says where a faulty core gave something else (log 45). Each step is an event that acts when its
condition holds and else changes nothing. -/

namespace Sys2Proof.Machine

/-! ### The digest (R407, R408, Table 23.2) -/

/-- The 40 bytes of a record. -/
def DigRec.bytes (r : DigRec) : List Byte :=
  bytesOfNat r.tid 4 ++ bytesOfNat r.n 4 ++ bytesOfNat (r.addr % 2 ^ 52 + r.space % 8 * 2 ^ 52) 7 ++ bytesOfNat r.kind 1 ++
    bytesOfNat r.mask 2 ++ bytesOfNat r.opx 2 ++ bytesOfNat 0 4 ++ bytesOfNat r.data.toNat 16

/-- Put a record into its place. -/
def recPut (r : DigRec) : List DigRec → List DigRec
  | [] => [r]
  | q :: t => if r.rank < q.rank then r :: q :: t else q :: recPut r t

/-- The record that closes a position: how many of its threads executed EXIT. -/
def closingRec (j exits : Nat) : DigRec :=
  { tid := 0xFFFFFFFF, n := j, space := 0, addr := 0, kind := 5, mask := 0, opx := 0, data := BitVec.ofNat 128 exits }

/-- The records of a position, in feeding order. -/
def posRecords (ds : List DigRec) (exits : NMap Nat) (j : Nat) : List DigRec :=
  (ds.filter fun r => r.tid / 32 % 4 = j).foldl (fun l r => recPut r l) [] ++ [closingRec j (nget exits j 0)]

/-- Eight steps of the CRC of digest half A, most significant bit first. -/
def crcA (c : Double) (b : Byte) : Double :=
  (List.range 8).foldl (fun x _ => if x.getLsbD 63 then (x <<< 1) ^^^ 0x42F0E1EBA9EA3693#64 else x <<< 1)
    (c ^^^ (b.setWidth 64 <<< 56))

/-- Eight steps of the CRC of digest half B, least significant bit first. -/
def crcB (c : Double) (b : Byte) : Double :=
  (List.range 8).foldl (fun x _ => if x.getLsbD 0 then (x >>> 1) ^^^ 0xC96C5795D7870F42#64 else x >>> 1) (c ^^^ b.setWidth 64)

/-- Digest half A of some bytes: initial value 0, no inversion. -/
def digestA (bs : List Byte) : Double := bs.foldl crcA 0

/-- Digest half B of some bytes: initial value and final inversion all ones. -/
def digestB (bs : List Byte) : Double := ~~~(bs.foldl crcB 0xFFFFFFFFFFFFFFFF#64)

/-- The bytes that a position's digest is formed over. -/
def Audit.bytes (a : Audit) (j : Nat) : List Byte := (posRecords a.digests a.exits j).flatMap DigRec.bytes

/-- The row positions of an audit. -/
def Audit.positions (a : Audit) : List Nat := List.range (min 4 a.kernel.rows)

/-- The cores that ran a position in the original run (R411). -/
def Audit.originals (a : Audit) (j : Nat) : List Nat := a.cores.filter fun c => c % 4 = j

/-- Two runs agree at a position: both halves are equal (R408). -/
def sameDigest (a : Audit) (r : RunDigest) : Bool :=
  !r.diverged && r.a == digestA (a.bytes r.pos) && r.b == digestB (a.bytes r.pos)

/-! ### Scores (R410, R413, R414) -/

/-- What a changed score brings: the report bit and event at 128, and from 512 on the list or a pending quarantine. -/
def scoreEffects (s : State) (core old new : Nat) : State :=
  let s1 := s.modCore core fun c => { c with score := new, report := new ≥ 128 && (c.report || old < 128) }
  let s2 := if old < 128 && new ≥ 128 then postEvent s1 4 (dieOfCore core) (core * 1024) (BitVec.ofNat 32 new) else s1
  if new ≥ 512 && s.csrs.audctl.getLsbD 6 && !(s.core core).cullet then quarantine s2 core
  else if old < 512 && new ≥ 512 && !s.csrs.audctl.getLsbD 6 then
    postEvent s2 5 (dieOfCore core) (core * 1024) (BitVec.ofNat 32 new)
  else s2

/-- A core's score steps up, saturating. -/
def scoreUp (n : Nat) (s : State) (core : Nat) : State :=
  scoreEffects s core (s.core core).score (min ((s.core core).score + n) 65535)

/-- A core's score steps down, saturating; that of a core on the cullet list does not fall (R415). -/
def scoreDown (n : Nat) (s : State) (core : Nat) : State :=
  if (s.core core).cullet then s else scoreEffects s core (s.core core).score ((s.core core).score - n)

/-- A passed audit: each 65,536 take 1 from the score (R410); a core on the cullet list has none to count (R415). -/
def passedAudit (s : State) (core : Nat) : State :=
  if (s.core core).cullet then s
  else if (s.core core).passed + 1 = 65536 then scoreDown 1 (s.modCore core fun c => { c with passed := 0 }) core
  else s.modCore core fun c => { c with passed := c.passed + 1 }

/-! ### Replays (R405, R406) -/

/-- A cluster may take a replay: it fits as a group of the launch, partition and budgets aside, and no core of it is on the cullet list
or halted (R405). -/
def replayFits (s : State) (a : Audit) (c : Nat) : Bool :=
  let k := a.kernel
  coresFit s c k.feat (List.range k.rows) && replayTakes s a c && (a.ratio = 0 || (s.cluster c).ratio + 1 = a.ratio) && (slotPlan s c k.regs (List.range k.rows)).isSome &&
      (firstFit (takenSram s c) (allocBytes k.clusterBytes) (allocAlign k.clusterBytes)).isSome

/-- The cluster of a replay: the lowest that fits on another die, failing that another of the same die (R405). -/
def replayCluster (s : State) (a : Audit) : Option Nat :=
  let fits := (List.range Config.nClusters).filter (replayFits s a)
  (fits.find? fun c => dieOfCluster c ≠ dieOfCluster a.cluster) <|> fits.find? fun c => dieOfCluster c = dieOfCluster a.cluster

/-- Put an audit. -/
def setAudit (s : State) (id : Nat) (a : Audit) : State := { s with audits := nset s.audits id a }

/-- The larder's record for the replays of an audit: a number that no launch has. -/
def replayLaunch (id : Nat) : Nat := 4096 + id

/-- The record of a replay's launch: the original's, complete as far as the larder is concerned. -/
def Launch.forReplay (l : Launch) (order : Nat) : Launch :=
  { l with
    complete := true, todo := [], killed := [], dies := [], since := [], shares := [], dieHeld := false, root := false, order := order
    ticket := l.gx * l.gy * l.gz }

/-- Dispatch a replay of an audited group to a cluster, from the log's beginning: at priority 0, each row on the core at its position, each thread as it started
(R405, R406). Answers the group. -/
def startReplay (s : State) (id : Nat) (a : Audit) (c : Nat) : State × Nat :=
  let k := a.kernel
  let g := s.ids
  let l := replayLaunch id
  let rows := List.range k.rows
  let slots := (slotPlan s c k.regs rows).getD []
  let base := (firstFit (takenSram s c) (allocBytes k.clusterBytes) (allocAlign k.clusterBytes)).getD 0
  let gr : Group :=
    { launch := l, index := a.index, cluster := c, slots := rows.map fun r => nget slots r 0, sramBase := base, sramCluster := c
      firstCluster := c, cores := groupCores c k.rows, gens := rows.map fun r => (r, genInit ^^^ BitVec.ofNat 64 (64 * a.index + r))
      log := a.log, unitLog := a.unitLog, replays := some id }
  let new := a.start.map fun p => (g * 2048 + p.1, { p.2 with since := s.curSlot (4 * c + p.1 / 32 % 4), stood := s.now })
  (wakeCluster
    { s with
      ids := g + 1, launches := nset s.launches l (a.record.forReplay g), groups := nset s.groups g gr, threads := s.threads ++ new } c, g)

/-- Units that the log has gained since a replay last ran. -/
def newUnits (old new : NMap (NMap Piece)) (key : Nat) : NMap Piece :=
  (nget new key []).filter fun p => (nfind (nget old key []) p.1).isNone

/-- A replay that has rested goes on with the log of the next segment: the records of copies that it owes, the transfers whose units have come, and the threads
that stood at ADRAIN (R416). -/
def resumeReplay (s : State) (g : Nat) (a : Audit) : State :=
  let gr := s.grp g
  let s1 := s.modGrp g fun x => { x with unitLog := a.unitLog, drain := [] }
  let s2 := gr.owed.foldl (fun x p => replayUnits x p.2 (newUnits gr.unitLog a.unitLog p.1)) s1
  let s3 := (threadsOf s2 g).foldl (fun x k => x.modThr k fun t => { t with stood := s.now }) s2
  let s4 := (s3.xfers.filter fun p => p.2.group = g && p.2.started && p.2.log.isSome).foldl (fun x p => startPieces x p.1) s3
  gr.drain.foldl (fun x k => advanceBy x k 1) (engineSettle s4 g)

/-- REPLAY_DISPATCH: the replay is dispatched, or goes on where it is resident (R405, R416). -/
def replayDispatch (id : Nat) (s : State) : State :=
  match nfind s.audits id with
  | none => s
  | some a =>
    match a.phase, a.resident, replayCluster s a with
    | .waiting _, some (g, c), _ => resumeReplay (setAudit s id { a with phase := .running g c, resident := none }) g a
    | .waiting _, none, some c => let (s1, g) := startReplay s id a c; setAudit s1 id { a with phase := .running g c }
    | _, _, _ => s

/-- REPLAY_DISPATCH (R405). -/
def execReplayDispatch (id : Nat) (s : State) : Host.Outcome State Fault Refusal := .next (replayDispatch id s)

/-- A thread of a replay waits for what the log does not hold yet: at a word whose register a return of the original is still to write, or whose entry is still
to come (R416). -/
def replayStalled (s : State) (k : Nat) : Bool :=
  let t := s.thr k
  let owed := (t.pend.filter fun p => (nfind s.rets p.2).isNone).map (·.1)
  (nextWords s k).any fun w =>
    owed.any (waitsOn w.1 w.2) || (replayHeld s k && guardPasses t w.2 && entersLog s k w.1 w.2 && (replayLog s k).isEmpty)

/-- A replay has come to its end, or to the close of its segment; one that is gone has (R406, R416). -/
def replayDone (s : State) (g : Nat) : Bool :=
  (s.xfers.all fun p => p.2.group ≠ g || (p.2.log.isSome && (loggedUnits s p.2).isNone)) &&
    (threadsOf s g).all fun k => (s.thr k).life == .exited || (s.grp g).drain.contains k || replayStalled s k

/-- The audit of a held segment has ended well, or could not be made: the stair releases the segment (R416). -/
def clearSegment (s : State) (segment : Option Nat) : State :=
  match segment with
  | some g => s.modGrp g fun x => { x with cleared := some true }
  | none => s

/-- An audit is over. -/
def closeAudit (s : State) (id : Nat) (a : Audit) : State := clearSegment { s with audits := ndel s.audits id } a.segment

/-- REPLAY_TIMEOUT: a replay that no cluster took within 2^24 ticks counts as dropped; a held segment is released (R405, R416). -/
def replayTimeout (id : Nat) (s : State) : State :=
  match nfind s.audits id with
  | none => s
  | some a =>
    match a.phase with
    | .waiting t =>
      if s.now < t + 2 ^ 24 then s else closeAudit { s with gaffer := { s.gaffer with drop := satUp s.gaffer.drop } } id a
    | _ => s

/-- REPLAY_TIMEOUT (R405). -/
def execReplayTimeout (id : Nat) (s : State) : Host.Outcome State Fault Refusal := .next (replayTimeout id s)

/-- The group of an audit's replay or tiebreak that runs, and its cluster. -/
def Audit.runs (a : Audit) : Option (Nat × Nat) := match a.phase with | .running g c | .tied g c _ => some (g, c) | _ => none

/-- The threads of a replay that still have something to do. -/
def replayLeft (s : State) (g : Nat) : List Nat :=
  (threadsOf s g).filter fun k => (s.thr k).life != .exited && !(s.grp g).drain.contains k && !replayStalled s k

/-- REPLAY_STALL: a replay that makes no progress at a position for 2^20 ticks diverges there (R406). -/
def replayStall (id pos : Nat) (s : State) : State :=
  match (nfind s.audits id).bind Audit.runs with
  | none => s
  | some (g, _) =>
    let ks := (replayLeft s g).filter fun k => rowOf k % 4 = pos
    if !ks.isEmpty && ks.all fun k => (s.thr k).stood + 2 ^ 20 ≤ s.now then ks.foldl diverge s else s

/-- REPLAY_STALL (R406). -/
def execReplayStall (id pos : Nat) (s : State) : Host.Outcome State Fault Refusal := .next (replayStall id pos s)

/-! ### The comparison (R411) -/

/-- What a run of a replay has given at a position: its digest over the records that belong to the segment, or that it has diverged, or is gone. An input says what
a faulty core gave instead. -/
def runAt (s : State) (a : Audit) (g cluster : Nat) (r : List RunDigest) (j : Nat) : RunDigest :=
  let core := 4 * cluster + j
  match nfind s.groups g with
  | none => { pos := j, core := core, diverged := true, a := 0, b := 0 }
  | some gr =>
    match r.find? fun x => x.pos = j with
    | some x => { x with core := 4 * gr.cluster + j }
    | none =>
      let bs := (posRecords (gr.digests.filter fun d => !a.past.contains d.rank) gr.exits j).flatMap DigRec.bytes
      { pos := j, core := 4 * gr.cluster + j, diverged := gr.diverged.contains j, a := digestA bs, b := digestB bs }

/-- One position: its cores have passed an audit, or each gains 32 (R410, R411). -/
def comparePos (a : Audit) (s : State) (r : RunDigest) : State :=
  let cs := sput (a.originals r.pos) r.core
  if sameDigest a r then cs.foldl passedAudit s
  else cs.foldl (scoreUp 32) { s with gaffer := { s.gaffer with mis := satUp s.gaffer.mis } }

/-- AUDIT_COMPARE: the replay has ended and the digests are compared at every position; what differs is settled by tiebreaks (R411, R418). A replay of a
held segment that agrees rests until the next; any other goes (R416, log 103). -/
def auditCompare (id : Nat) (r : List RunDigest) (s : State) : State :=
  match nfind s.audits id with
  | none => s
  | some a =>
    match a.phase with
    | .running g c =>
      if !replayDone s g then s
      else
        let runs := a.positions.map (runAt s a g c r)
        let s1 := runs.foldl (comparePos a) s
        let left := runs.filter fun x => !sameDigest a x
        if left.isEmpty then
          let s2 := { s1 with gaffer := { s1.gaffer with pass := satUp s1.gaffer.pass } }
          if a.segment.any fun x => (nfind s.groups x).isSome then clearSegment (setAudit s2 id { a with phase := .resting g c }) a.segment
          else closeAudit (removeReplay s2 g) id a
        else setAudit (removeReplay s1 g) id { a with phase := .settling s.now left }
    | _ => s

/-- AUDIT_COMPARE (R411). -/
def execAuditCompare (id : Nat) (r : List RunDigest) (s : State) : Host.Outcome State Fault Refusal := .next (auditCompare id r s)

/-! ### Tiebreaks (R411, Table 23.3) and failed segments (R417) -/

/-- A held segment has failed: what its group has staged and not released is discarded, its launch is cancelled as by CANCEL.launch, which stops its threads at their
next headers, and the host is told the group, in AUX, and the segment, in WHO, from 0 (R417, R345, log 103). The audit goes on, for the scores. -/
def failSegment (s : State) (g : Nat) : State :=
  if (nfind s.groups g).isNone then s else
  let gr := s.grp g
  let s2 := cancelLaunch ((discardStage s g).modGrp g fun x => { x with failed := true }) gr.launch
  postEvent s2 2 (dieOfCluster gr.cluster) (gr.segments - 1) (BitVec.ofNat 32 gr.index)

/-- What a tiebreak that ran does to the scores (Table 23.3): `o` its original's equal, `r` its replay's. -/
def tiebreakScores (a : Audit) (m : RunDigest) (core : Nat) (o r : Bool) (s : State) : State :=
  if o then passedAudit (scoreUp 224 ((a.originals m.pos).foldl (scoreDown 32) s) m.core) core
  else if r then passedAudit (scoreDown 32 ((a.originals m.pos).foldl (scoreUp 224) s) m.core) core
  else scoreUp 32 s core

/-- A cluster may take a tiebreak: it fits as for a replay, and holds none of the cores in question (R411). -/
def tiebreakFits (s : State) (a : Audit) (m : RunDigest) (c : Nat) : Bool :=
  replayFits s a c && (m.core :: a.originals m.pos).all fun x => x / 4 ≠ c

/-- The cluster of a tiebreak, placed as a replay is (R405, R411). -/
def tiebreakCluster (s : State) (a : Audit) (m : RunDigest) : Option Nat :=
  let fits := (List.range Config.nClusters).filter (tiebreakFits s a m)
  (fits.find? fun c => dieOfCluster c ≠ dieOfCluster a.cluster) <|> fits.find? fun c => dieOfCluster c = dieOfCluster a.cluster

/-- A position of an audit is settled: those left are tied next, or it is over; `held` says that the segment stands. -/
def settleAudit (s : State) (id : Nat) (a : Audit) (left : List RunDigest) (held : Bool) : State :=
  let (s1, a1) :=
    match held, a.segment with
    | false, some g => (failSegment s g, { a with segment := none })
    | _, _ => (s, a)
  if left.isEmpty then closeAudit s1 id a1 else setAudit s1 id { a1 with phase := .settling s.now left }

/-- TIEBREAK: the tiebreak of the first position left is dispatched, or could not be within 2^24 ticks; one that has ended is compared, as it ran or as an input
says (R411, Table 23.3). -/
def tiebreak (id : Nat) (r : Option RunDigest) (s : State) : State :=
  match nfind s.audits id with
  | none => s
  | some a =>
    match a.phase with
    | .settling _ [] => closeAudit s id a
    | .settling t (m :: left) =>
      (match tiebreakCluster s a m with
       | some c => let (s1, g) := startReplay s id a c; setAudit s1 id { a with phase := .tied g c (m :: left) }
       | none => if s.now < t + 2 ^ 24 then s else settleAudit s id a left false)
    | .tied g c (m :: left) =>
      if !replayDone s g then s
      else
        let x := runAt s a g c r.toList m.pos
        let o := sameDigest a x
        let same := !x.diverged && !m.diverged && x.a == m.a && x.b == m.b
        settleAudit (tiebreakScores a m x.core o same (removeReplay s g)) id a left o
    | _ => s

/-- TIEBREAK (R411). -/
def execTiebreak (id : Nat) (r : Option RunDigest) (s : State) : Host.Outcome State Fault Refusal := .next (tiebreak id r s)

end Sys2Proof.Machine
end

