-- ==== Sys2Proof/Machine/Outside.lean ====
section
/-! DEFINITION. What the outside does to the device (spec/24): the host's loads, stores, submissions and registers, other devices of the
domain, links, the service port, and power. Each is an event that acts when its condition holds and else changes nothing. -/

namespace Sys2Proof.Machine

/-! ### Accesses from outside (R420, R426) -/

/-- The device is up: it has power and is not in the safe state (R428). -/
def alive (s : State) : Bool := s.service.powered && s.service.safe == 0

/-- Bytes of a live stack of this device. -/
def stackBytes (s : State) (pa n : Nat) : Bool :=
  inStack pa && inStack (pa + n - 1) && s.liveDie (tableDie pa) && s.liveDie (tableDie (pa + n - 1))

/-- An access from outside that is on its way to the lehr. -/
def portBusy (s : State) : Bool :=
  s.upds.any fun p => p.2.th.isNone && (match p.2.phase with | .travel _ | .blocked => true | _ => false)

/-- The lehr holds an update to a line of some bytes, which a read waits for (R203). -/
def heldBytes (s : State) (pa n : Nat) : Bool :=
  (List.range' (pa / 64) ((pa + n - 1) / 64 + 1 - pa / 64)).any fun line => lehrHolds s line > s.now

/-- A load from outside reads at the home (R201, R420). A poisoned byte has no value: it reads as a free one (log 13). -/
def portLoad (s : State) (pa n : Nat) : State :=
  if !stackBytes s pa (max n 1) || heldBytes s pa (max n 1) then s
  else
    let bs := (List.range' pa n).map fun a => if s.memPoison.contains a then Config.freeByte (s.free + (a - pa)) else Memory.read s.mem a
    { s with portData := bs, free := if poisonedAt s pa n then s.free + n else s.free }

/-- The completion of the latest update of the host that is still held: the next is applied after it (R420). -/
def portOrder (s : State) : Nat :=
  s.upds.foldl (fun m p => if p.2.th.isNone then match p.2.phase with | .lehr c => max m (c + 1) | _ => m else m) 0

/-- An update from outside arrives at its home. -/
def portUpd (s : State) (kind : UpdKind) (pa n notBefore : Nat) : State :=
  let id := s.ids
  let u : Upd :=
    { kind := kind, va := pa, key := pa, bytes := n, die := tableDie pa, v := true, issued := s.now, notBefore := notBefore
      phase := .travel s.now }
  lehrArrival id { s with ids := id + 1, upds := nset s.upds id u }

/-- The parts of some bytes by the lines that hold them: address and bytes. -/
def portLines (pa : Nat) (data : List Byte) : List (Nat × List Byte) :=
  let n := data.length
  if n = 0 then []
  else
    (List.range' (pa / 64) ((pa + n - 1) / 64 + 1 - pa / 64)).map fun line =>
      let lo := max pa (64 * line)
      (lo, (data.drop (lo - pa)).take (64 * line + 64 - lo))

/-- A store from outside, one update a line; the host's are applied in the order of the port (R420). -/
def portStore (s : State) (ordered : Bool) (pa : Nat) (data : List Byte) : State :=
  if !stackBytes s pa (max data.length 1) then s
  else
    (portLines pa data).foldl (fun x p =>
      portUpd x (.store p.2 false) p.1 p.2.length (if ordered then portOrder x else 0)) s

/-- DOMAIN_ACCESS: another device's load, store or addition acts at the home here (R426). -/
def execDomainAccess (pa : Nat) (a : DomainAcc) (s : State) : Host.Outcome State Fault Refusal :=
  when s (alive s)
    (match a with
     | .load n => portLoad s pa n
     | .store data => portStore s false pa data
     | .add v => if stackBytes s pa 4 && pa % 4 = 0 then portUpd s (.atomic 0x8 0 [v]) pa 4 0 else s)

/-! ### Submission (R422, Table 24.2) -/

/-- The root table address of a window (R387). -/
def Window.root (w : Window) : Nat := w.rootH.toNat % 2 ^ 20 * 2 ^ 32 + w.rootL.toNat

/-- RECORD of a window, with the tags of the slots that are not all zero (R422). -/
def windowRecord (w : Window) : LaunchRec :=
  let word (i : Nat) : Nat := (nget w.rcd i 0).toNat
  { words := (List.range 32).map word, tags := (List.range 4).map fun j => (List.range 4).any fun i => word (4 * j + i) ≠ 0 }

/-- The updates of the host that are not yet applied (R422). -/
def portPending (s : State) : List Nat := (s.upds.filter fun p => p.2.th.isNone && p.2.unapplied).map (·.1)

/-- SUBMIT_GO: RECORD is tagged, checked and placed as a new job; RESULT holds the handle or the status (R422, R339). The check takes no time, so that no step
ends in the middle of it; a GO while RESULT says that one is under way is ignored (log 104). -/
def submitGo (window : Nat) (w34 : Word) (s : State) : State :=
  let w := nget s.windows window {}
  if window > 16 || !w34.getLsbD 0 || w.result = 0xFFFFFFFF then s
  else
    let privileged := window == 16
    let tenant := if privileged then (w34.toNat / 16) % 16 else window
    let r := windowRecord w
    let answer (x : State) (v : Word) : State := { x with windows := nset x.windows window { w with result := v } }
    if w.root = 0 then answer s (launchStatus (8, 0))
    else
      let st := checkRecord s tenant true r
      let full := recordFull s true r.gmode
      if st.1 != 0 then answer s (launchStatus st)
      else if full.1 != 0 then answer s (launchStatus full)
      else
        let slot := (freeSlot s).getD 0
        let s1 := placeRecord s slot tenant (privileged && w34.getLsbD 1) none (portPending s) r
        answer s1 (handleOf s1 slot)

/-- SUBMIT_GO (R422). -/
def execSubmitGo (window : Nat) (w34 : Word) (s : State) : Host.Outcome State Fault Refusal :=
  when s (alive s) (submitGo window w34 s)

/-! ### Registers of the host's windows (R8, R421, R423) -/

/-- HOST_TLB_INVALIDATE (R421, R364). -/
def execHostTlbInvalidate (va : Option Nat) (s : State) : Host.Outcome State Fault Refusal :=
  .next (match va with | none => sweepAll s | some a => sweepPage s (a % 2 ^ 52))

/-- TABLE_ENTRY_PORT: a host's entry is applied as PTESET's is, at the home of its table (R421, R370), after the host's earlier stores (R420). -/
def execTableEntryPort (pa : Nat) (e : Double) (s : State) : Host.Outcome State Fault Refusal :=
  when s (pa % 8 = 0 && stackBytes s pa 8) (portUpd s (.pte e) pa 8 (portOrder s))

/-- Write one of the nine domain-mode words: a bit whose path has a switch without slot reservation reads 0 (R426). -/
def domainModeWrite (index : Nat) (v : Word) (s : State) : State :=
  if index < 9 then { s with domainMode := nset s.domainMode index (v &&& Config.slotSupport index) } else s

/-- DOMAIN_MODE_WRITE (R426). -/
def execDomainModeWrite (index : Nat) (v : Word) (s : State) : Host.Outcome State Fault Refusal := .next (domainModeWrite index v s)

/-- HDOOR: any write wakes every thread in IDLE (R371). -/
def execHdoor (_v : Word) (s : State) : Host.Outcome State Fault Refusal := .next (hdoorWrite s)

/-- FMASK: a write for a core (R374). -/
def execFmask (core : Nat) (v : Word) (s : State) : Host.Outcome State Fault Refusal :=
  when s (core < Config.nCores) (writeFmask s core v)

/-- A written 1 clears a bit of a gaffer counter (Table 23.4). -/
def gafferWrite (g : Gaffer) (index : Nat) (v : Word) : Gaffer :=
  match index with
  | 0 => { g with sel := g.sel &&& ~~~v }
  | 1 => { g with pass := g.pass &&& ~~~v }
  | 2 => { g with mis := g.mis &&& ~~~v }
  | 3 => { g with una := g.una &&& ~~~v }
  | 4 => { g with drop := g.drop &&& ~~~v }
  | _ => g

/-- A word of a submission window but GO (Table 24.2); a tenant's root is set through its own window (R387). -/
def windowWrite (s : State) (window word : Nat) (v : Word) : State :=
  let w := nget s.windows window {}
  if window > 16 || word > 33 then s
  else
    let w1 :=
      if word < 32 then { w with rcd := nset w.rcd word v }
      else if word = 32 then { w with rootL := v &&& ~~~0xFFFF }
      else { w with rootH := v &&& 0xFFFFF }
    let s1 := { s with windows := nset s.windows window w1 }
    if word ≥ 32 && window < 16 then s1.modTenant window fun t => { t with root := w1.root } else s1

/-- What a write of a register with no behaviour of its own sets (R8, R9); a read-only one ignores it. Of a register that each core has a copy of (Table 21.2) the
access names the core: the spec gives BAR 0 a byte for the number and none for the core (DESIGN CHOICE, log 107). The lost count of BAR 4 has no access code: it is
taken as read-only (DESIGN CHOICE, log 107). -/
def registerWrite (r : HostReg) (v : Word) (s : State) : State :=
  match r with
  | .csr n core => if core < Config.nCores then csrWrite s core n v else s
  | .gaffer i => { s with gaffer := gafferWrite s.gaffer i v }
  | .window w i => windowWrite s w i v
  | .ringBaseL => { s with ring := { s.ring with baseL := v &&& ~~~0x3F } }
  | .ringBaseH => { s with ring := { s.ring with baseH := v } }
  | .ringSize => { s with ring := { s.ring with size := v } }
  | .ringTail => { s with ring := { s.ring with tail := v } }
  | .domainMode i => domainModeWrite i v s
  | .ringHead | .ringLost | .pathScore _ => s

/-- A word of a submission window as the host reads it: RECORD and GO are write-only (Tables 0.1, 24.2). -/
def windowRead (s : State) (window word : Nat) : Word :=
  let w := nget s.windows window {}
  if window > 16 then 0 else match word with | 32 => w.rootL | 33 => w.rootH | 35 => w.result | _ => 0

/-- A gaffer counter as the host reads it (Table 23.4). -/
def gafferRead (g : Gaffer) (index : Nat) : Word :=
  match index with
  | 0 => g.sel
  | 1 => g.pass
  | 2 => g.mis
  | 3 => g.una
  | 4 => g.drop
  | _ => 0

/-- What the host reads from a register of its windows (R8, R412, R418, R421, R423); of a core's copy, that of the core which the access names (DESIGN CHOICE,
log 107). -/
def registerRead (r : HostReg) (s : State) : Word :=
  match r with
  | .csr n core => if core < Config.nCores then csrRead s core n else 0
  | .gaffer i => gafferRead s.gaffer i
  | .window w i => windowRead s w i
  | .ringBaseL => s.ring.baseL
  | .ringBaseH => s.ring.baseH
  | .ringSize => s.ring.size
  | .ringHead => s.ring.head
  | .ringTail => s.ring.tail
  | .ringLost => s.ring.lost
  | .pathScore e => BitVec.ofNat 32 (nget s.pathScore e 0)
  | .domainMode i => nget s.domainMode i 0

/-- REGISTER_WRITE (R8). -/
def execRegisterWrite (r : HostReg) (v : Word) (s : State) : Host.Outcome State Fault Refusal :=
  when s (alive s) (registerWrite r v s)

/-! ### The windows by their addresses (Table 24.1)

The spec gives each register its place in a BAR, and the base of a BAR to the host: the model lets byte `off` of BAR `bar` stand at the host's address
2^56 + bar · 2^32 + off, above every PA. Where Table 24.1 gives an area without a layout, the layout is the model's (DESIGN CHOICE, log 107). -/

/-- The host's address of a byte of a BAR. -/
def barAddr (bar off : Nat) : Nat := 2 ^ 56 + bar * 2 ^ 32 + off

/-- The register at a word of a BAR (Table 24.1). Of a register that each core has it is core 0's (log 107). -/
def barReg (bar off : Nat) : Option HostReg :=
  match bar with
  | 0 =>
    if off < 0x1000 then some (.csr (off / 4) 0)
    else if off < 0x1014 then some (.gaffer ((off - 0x1000) / 4))
    else if 0x2000 ≤ off && off < 0x2000 + 4 * 1058 then some (.pathScore ((off - 0x2000) / 4))
    else if 0x3800 ≤ off && off < 0x3824 then some (.domainMode ((off - 0x3800) / 4))
    else if 0x100000 ≤ off && off < 0x101000 then some (.window 16 ((off - 0x100000) / 4))
    else none
  | 2 => if off < 0x10000 then some (.window (off / 4096) (off % 4096 / 4)) else none
  | 4 => [HostReg.ringBaseL, .ringBaseH, .ringSize, .ringHead, .ringTail, .ringLost][off / 4]?
  | _ => none

/-- Some bytes of a BAR, as the host reads them; what holds no register reads 0 (R9). -/
def barBytes (s : State) (bar off n : Nat) : List Byte :=
  (List.range' off n).map fun a =>
    ((bytesOfNat (((barReg bar (a / 4 * 4)).map fun r => (registerRead r s).toNat).getD 0) 4)[a % 4]?).getD 0

/-- A GO of a submission window, or another word of it. -/
def windowStore (s : State) (r : HostReg) (v : Word) : State := match r with | .window w 34 => submitGo w v s | _ => registerWrite r v s

/-- The host writes a word of a BAR: the GO of the table-entry port, the refusal of copy-on-writes, a register (R421, R397). -/
def barStore32 (s : State) (bar off : Nat) (v : Word) : State :=
  if bar = 0 && off = 0x6010 then
    (if v.getLsbD 0 && s.portAddr.toNat % 8 = 0 && stackBytes s s.portAddr.toNat 8 then portUpd s (.pte s.portValue) s.portAddr.toNat 8 (portOrder s) else s)
  else if bar = 0 && off = 0x6040 then cowRefusal v s
  else match barReg bar off with | some r => windowStore s r v | none => s

/-- The host writes eight bytes of a BAR: the address or the value of the table-entry port, the address of an invalidation, bit 63 for all, a frame for a pool; any
other two words one after the other. -/
def barStore64 (s : State) (bar off : Nat) (v : Double) : State :=
  if bar = 0 && off = 0x6000 then { s with portAddr := v }
  else if bar = 0 && off = 0x6008 then { s with portValue := v }
  else if bar = 0 && off = 0x6020 then (if v.getLsbD 63 then sweepAll s else sweepPage s (v.toNat % 2 ^ 52))
  else if bar = 0 && 0x4000 ≤ off && off < 0x4180 then framePoolFill ((off - 0x4000) / 8 / 3) ((off - 0x4000) / 8 % 3) v.toNat s
  else barStore32 (barStore32 s bar off (v.extractLsb' 0 32)) bar (off + 4) (v.extractLsb' 32 32)

/-- The host writes some bytes of a BAR: an aligned word, or eight bytes; no other write has a meaning there. -/
def barStore (s : State) (a : Nat) (data : List Byte) : State :=
  let bar := (a - 2 ^ 56) / 2 ^ 32
  let off := (a - 2 ^ 56) % 2 ^ 32
  if data.length = 4 && off % 4 = 0 then barStore32 s bar off (BitVec.ofNat 32 (natOfBytes data))
  else if data.length = 8 && off % 8 = 0 then barStore64 s bar off (BitVec.ofNat 64 (natOfBytes data))
  else s

/-- HOST_LOAD: of HBM4E at its home, through CXL.mem or, as the spec says without a path, on a port that has trained as PCIe alike (R419, R420, log 107); of a window
its registers (R421). -/
def hostLoad (pa n : Nat) (s : State) : State :=
  if pa < 2 ^ 56 then portLoad s pa n else { s with portData := barBytes s ((pa - 2 ^ 56) / 2 ^ 32) ((pa - 2 ^ 56) % 2 ^ 32) n }

/-- HOST_LOAD (R420, R421). -/
def execHostLoad (pa bytes : Nat) (s : State) : Host.Outcome State Fault Refusal := when s (alive s) (hostLoad pa bytes s)

/-- HOST_STORE (R420, R421). -/
def execHostStore (pa : Nat) (data : List Byte) (s : State) : Host.Outcome State Fault Refusal :=
  when s (alive s) (if pa < 2 ^ 56 then portStore s true pa data else barStore s pa data)

/-! ### The service port (R429, R430, Table 24.5) -/

/-- The service port answers with some words. -/
def answerPort (s : State) (ws : List Word) : State := { s with service := { s.service with reply := ws } }

/-- Free words of an answer that no rule derives (log 12). -/
def freeWords (s : State) (n : Nat) : State :=
  answerPort { s with free := s.free + n } ((List.range n).map fun i => Config.freeReply (s.free + i))

/-- STATUS: the bring-up stage, and the safe state's cause; a thermal shutdown has none in Table 24.5 (log 12). -/
def execStatus (s : State) : Host.Outcome State Fault Refusal :=
  when s s.service.powered
    (answerPort s.drawn
      [BitVec.ofNat 32 s.service.stage, if s.service.safe = 10 then Config.freeReply s.free else BitVec.ofNat 32 s.service.safe])

/-- A die's words of SELFTEST: whether it passed, its masked cores as bits, the failing unit that the last bring-up has found (R430). -/
def selftestWords (s : State) (d : Nat) : List Word :=
  let bits (lo n : Nat) : Word :=
    BitVec.ofNat 32 ((List.range n).foldl (fun m i => if s.service.deadCores.contains (48 * d + lo + i) then m + 2 ^ i else m) 0)
  [if s.service.deadDies.contains d then 0 else 1, bits 0 32, bits 32 16, BitVec.ofNat 32 (nget s.service.failUnits d 0)]

/-- SELFTEST (R430). -/
def execSelftest (s : State) : Host.Outcome State Fault Refusal :=
  when s s.service.powered
    (answerPort s ((List.range Config.nDies).flatMap (selftestWords s)))

/-- IDENT: 64 bytes of the certificate, the same at every reading (R430, log 12). -/
def execIdent (piece : Nat) (s : State) : Host.Outcome State Fault Refusal :=
  when s s.service.powered (answerPort s ((List.range 16).map fun i => Config.freeReply (2 ^ 64 + 16 * piece + i)))

/-- FWSTAGE: an image is staged once both signatures verify (R430). -/
def execFwstage (image : FwImage) (s : State) : Host.Outcome State Fault Refusal :=
  when s (s.service.powered && image.ed25519 && image.mlDsa65)
    { s with service := { s.service with staged := some image.version } }

/-- SENSE: power, rail current, the temperatures of dies and stacks, and the coolant's, as free words (R430, log 12). -/
def execSense (s : State) : Host.Outcome State Fault Refusal := when s s.service.powered (freeWords s 35)

/-- The answer to an attestation request: the measurement of the firmware that runs, and a signature of it under each of the two algorithms (R429, log 12). -/
def spdmWords (version request : Nat) : List Word :=
  (List.range 4).map (Config.freeMeasure version) ++ (List.range 6).map (Config.freeSignature 0 version request) ++
    (List.range 6).map (Config.freeSignature 1 version request)

/-- SPDM_ATTESTATION: the service port answers, and while the host port is up its mailbox (R429, R428). -/
def execSpdmAttestation (request : Nat) (s : State) : Host.Outcome State Fault Refusal :=
  let ws := spdmWords s.service.version request
  when s s.service.powered
    (let t := answerPort s ws
     if alive s then { t with service := { t.service with doe := ws } } else t)

/-! ### Power and bring-up (R415, R427, R428) -/

/-- POWER_OFF: every volatile state is lost; flash and fuses stay (R415, R430). -/
def execPowerOff (s : State) : Host.Outcome State Fault Refusal :=
  let x := loseState s
  .next { x with
    service :=
      { powered := false, stage := 0, staged := s.service.staged, minVersion := s.service.minVersion, version := s.service.version, cxl := s.service.cxl } }

/-- The stage at which a bring-up fails, and the safe state's cause (R428, Table 24.5). -/
def bringUpFailure (b : BringUp) (badImage : Bool) : Option (Nat × Nat) :=
  if b.stage1 then some (1, 1)
  else if b.stage2 || badImage then some (2, 2)
  else if b.stage3 then some (3, 3)
  else if b.deadDies.contains 0 then some (4, 7)
  else if (b.deadDies.filter (· < Config.nDies)).dedup.length > 4 then some (4, 8)
  else if b.stage5 then some (5, 5)
  else if b.hostPort then some (6, 9)
  else none

/-- The feature masks that a bring-up writes: none for a core of a masked die (Table 24.4, R1). -/
def broughtCores (b : BringUp) (cores : NMap Core) : NMap Core :=
  let found := b.cores.foldl (fun m p => if p.1 < Config.nCores then nset m p.1 { (nget m p.1 {}) with fmask := p.2 &&& 0x11F } else m) cores
  ((b.deadDies.filter (· < Config.nDies)).flatMap fun d => List.range' (48 * d) 48).foldl (fun m c => nset m c { (nget m c {}) with fmask := 0 }) found

/-- What a successful bring-up writes: DIEMASK, FMASK and the links that are down; device time starts at 0 (Table 24.4). -/
def broughtUp (s : State) (b : BringUp) : State :=
  { s with
    csrs := { s.csrs with diemask := b.deadDies.foldl (fun m d => if d < 16 then m &&& ~~~(1#32 <<< d) else m) s.csrs.diemask }
    cores := broughtCores b s.cores
    linksDown := b.linksDown.foldl (fun l i => if i < 18 then sput l i else l) [] }

/-- The failing unit that the self-test finds on each die that it does not pass whole: one of Table 21.7, the spec does not say which (log 12). -/
def failUnits (b : BringUp) (free : Nat) : NMap Nat :=
  ((List.range Config.nDies).filter fun d => b.deadDies.contains d || b.cores.any fun p => p.1 / 48 = d && p.2 &&& 0x11F ≠ 0x11F).foldl
    (fun m d => nset m d (1 + (Config.freeReply (free + d)).toNat % 13)) []

/-- POWER_ON: the stages in order, or the safe state; the image in flash is verified each time, and is the one that runs once stage 2 has passed (R427, R428, R430). -/
def powerOn (b : BringUp) (s : State) : State :=
  if s.service.powered then s
  else
    let old := s.service
    let image := old.staged.getD old.version
    let fail := bringUpFailure b (image < old.minVersion)
    let read := fail.all fun f => f.1 > 2
    let x := loseState s
    let x := { x with
      free := s.free + Config.nDies
      service :=
        { old with
          powered := true, stage := 6, safe := 0, staged := if read then none else old.staged, version := if read then image else old.version
          deadDies := b.deadDies, deadCores := (b.cores.filter fun p => p.2 &&& 0x11F = 0).map (·.1), failUnits := failUnits b s.free
          cxl := b.cxl, device := b.device % 288, reply := [], doe := [] } }
    match fail with
    | some (stage, cause) => enterSafe x stage cause
    | none => broughtUp x b

/-- POWER_ON (R427). -/
def execPowerOn (b : BringUp) (s : State) : Host.Outcome State Fault Refusal := .next (powerOn b s)

/-! ### Links (R425) -/

/-- The loads with a firm promise from another device that a link carries: a flit of the request, or of the reply, is in flight on it. -/
def linkLoads (s : State) (link : Nat) : List (Nat × Ret) :=
  let carried (r : Ret) : Bool := r.key.any fun key => r.source = 6 && !r.est && linkOf s (lineOf key) = link
  s.rets.filter fun p => match p.2.phase with | .booked _ _ | .read _ => carried p.2 | _ => false

/-- A flit replayed on another link breaks a bounded-mode promise (R425, R212 cause 4). -/
def replayFlit (link : Nat) (s : State) (p : Nat × Ret) : State :=
  let land := match p.2.phase with | .booked _ l | .read l => l | _ => s.now
  brokenPromise p.1
    { cause := 4, die := dieOfCore p.2.core, element := link, fails := false, delay := land - s.now + 1 + Config.freeEstimate s.free } s.drawn

/-- LINK_RETIRE: the link is left out of the spread, and what it carried is replayed on another (R425). -/
def execLinkRetire (link : Nat) (s : State) : Host.Outcome State Fault Refusal :=
  when s (link < 18 && !s.linksDown.contains link)
    ((linkLoads s link).foldl (replayFlit link) { s with linksDown := sput s.linksDown link })

end Sys2Proof.Machine
end

