-- ==== Sys2Proof/Machine/Row.lean ====
section
/-! DEFINITION. Class 0x8: the row instructions (spec/08, R183 to R191). Each acts once for a row on its active threads, and reads
every source before it writes any destination (R184). -/

namespace Sys2Proof.Machine

/-- Write each of some threads; `g` reads only the state before the word. -/
def rowWrite (ks : List Nat) (g : Nat → Thread → Thread) (s : State) : State := ks.foldl (fun x k => x.modThr k (g k)) s

/-- The active thread in a lane. -/
def inLane (ks : List Nat) (lane : Nat) : Option Nat := ks.find? fun k => laneOf k = lane

/-- A shuffle: the source lane from the lane and the count (R186). -/
def shuffle (f : Fields) (src : Nat → Nat → Int) (ks : List Nat) (s : State) : State :=
  rowWrite ks (fun k t =>
    let from_ := src (laneOf k) (countOf (s.thr k) f)
    match (if 0 ≤ from_ && from_ ≤ 31 then inLane ks from_.toNat else none) with
    | some j => t.wr f.d.toNat ((s.thr j).x f.a.toNat)
    | none => t.wr f.d.toNat (t.x f.c.toNat)) s

/-- SHFL.IDX (R186). -/
def execShflIdx (f : Fields) (s : State) : Host.Outcome State Fault Refusal :=
  issueRow 0x80 f (shuffle f fun _ n => n) s

/-- SHFL.UP (R186). -/
def execShflUp (f : Fields) (s : State) : Host.Outcome State Fault Refusal :=
  issueRow 0x81 f (shuffle f fun i n => (i : Int) - n) s

/-- SHFL.DN (R186). -/
def execShflDn (f : Fields) (s : State) : Host.Outcome State Fault Refusal :=
  issueRow 0x82 f (shuffle f fun i n => (i : Int) + n) s

/-- SHFL.XOR: exact, so a count of 32 or more gives no lane (R186). -/
def execShflXor (f : Fields) (s : State) : Host.Outcome State Fault Refusal :=
  issueRow 0x83 f (shuffle f fun i n => ((i ^^^ n : Nat) : Int)) s

/-- Bit c of x[A] in a thread, c the B field (R187). -/
def voteBit (s : State) (f : Fields) (k : Nat) : Bool := ((s.thr k).x f.a.toNat).getLsbD (f.b.toNat % 32)

/-- VOTE.ANY (R187). -/
def execVoteAny (f : Fields) (s : State) : Host.Outcome State Fault Refusal :=
  issueRow 0x84 f (fun ks s => rowWrite ks (fun _ t => t.wrBit f.d.toNat f.bit (ks.any (voteBit s f))) s) s

/-- VOTE.ALL (R187). -/
def execVoteAll (f : Fields) (s : State) : Host.Outcome State Fault Refusal :=
  issueRow 0x85 f (fun ks s => rowWrite ks (fun _ t => t.wrBit f.d.toNat f.bit (ks.all (voteBit s f))) s) s

/-- The word whose bit j is 1 for each active lane j of which a predicate holds. -/
def laneMask (ks : List Nat) (p : Nat → Bool) : Word :=
  BitVec.ofNat 32 ((ks.filter p).foldl (fun n k => n ||| 2 ^ laneOf k) 0)

/-- BALLOT (R187). -/
def execBallot (f : Fields) (s : State) : Host.Outcome State Fault Refusal :=
  issueRow 0x86 f (fun ks s => rowWrite ks (fun _ t => t.wr f.d.toNat (laneMask ks (voteBit s f))) s) s

/-- MATCH: on bits, of a register or of a pair (R188). -/
def execMatchW (f : Fields) (s : State) : Host.Outcome State Fault Refusal :=
  issueRow 0x87 f (fun ks s =>
    let key k : Double := if f.m = 0 then ((s.thr k).x f.a.toNat).zeroExtend 64 else (s.thr k).d f.a.toNat
    rowWrite ks (fun k t => t.wr f.d.toNat (laneMask ks fun j => key j == key k)) s) s

/-- The operands of the 32 lanes: an inactive lane has the identity (R189). -/
def laneValues {α : Type} (ks : List Nat) (identity : α) (v : Nat → α) : List α :=
  (List.range 32).map fun i => match inLane ks i with | some k => v k | none => identity

/-- One level of the tree: neighbours combined, the lower on the left (R189). -/
def treeLevel {α : Type} (c : α → α → α) : List α → List α
  | a :: b :: t => c a b :: treeLevel c t
  | l => l

/-- The root of the fixed tree over 32 lanes (R189). -/
def treeRoot {α : Type} (c : α → α → α) (identity : α) (l : List α) : α :=
  ((List.range 5).foldl (fun x _ => treeLevel c x) l).headD identity

/-- A reduction of one register (R189). -/
def reduce (f : Fields) (c : Word → Word → Word) (identity : Word) (ks : List Nat) (s : State) : State :=
  let root := treeRoot c identity (laneValues ks identity fun k => (s.thr k).x f.a.toNat)
  rowWrite ks (fun _ t => t.wr f.d.toNat root) s

/-- RED.ADD (Table 8.3). -/
def execRedAdd (f : Fields) (s : State) : Host.Outcome State Fault Refusal :=
  issueRow 0x88 f (reduce f (fun l r => if f.m = 0 then l + r else satS32 (l.toInt + r.toInt)) 0) s

/-- The node and the identity of RED.MM (Table 8.3). -/
def redMM (m : Nat) : (Word → Word → Word) × Word :=
  match m with
  | 0 => (minS, 0x7FFFFFFF)
  | 1 => (maxS, 0x80000000)
  | 2 => (minN, 0xFFFFFFFF)
  | _ => (maxN, 0)

/-- RED.MM.op (Table 8.3). -/
def execRedMm (f : Fields) (s : State) : Host.Outcome State Fault Refusal :=
  issueRow 0x89 f (reduce f (redMM f.m.toNat).1 (redMM f.m.toNat).2) s

/-- The rounding of a row word, from the lowest active lane's mode register when M = 00 (R189). -/
def rowRnd (f : Fields) (mode : Word) : Rnd :=
  match f.m.toNat with
  | 0 => modeRnd mode
  | 1 => .rne
  | _ => .rtz

/-- Round32(l + r) under a mode register (R189). -/
def nodeAdd (f : Fields) (mode : Word) (l r : Word) : Word :=
  let z := ftzOf mode
  let rnd := rowRnd f mode
  BitVec.ofNat 32 (fp32.round rnd z (addR rnd.isRdn (fp32.read z l.toNat) (fp32.read z r.toNat)))

/-- RED.FADD (Table 8.3). -/
def execRedFadd (f : Fields) (s : State) : Host.Outcome State Fault Refusal :=
  issueRow 0x8A f (fun ks s => reduce f (nodeAdd f (s.thr (leaderOf ks)).mode) 0x80000000 ks s) s

/-- RED.FMM.op (Table 8.3). -/
def execRedFmm (f : Fields) (s : State) : Host.Outcome State Fault Refusal :=
  issueRow 0x8B f (fun ks s =>
    let z := ftzOf (s.thr (leaderOf ks)).mode
    reduce f (fun l r => BitVec.ofNat 32 (fp32.minNum (f.m == 1) (fp32.operand z l.toNat) (fp32.operand z r.toNat))) 0x7FC00000 ks s) s

/-- RED.MAXI on pairs (Table 8.3). -/
def reducePairs (f : Fields) (greater : Bool) (ks : List Nat) (s : State) : State :=
  let z := ftzOf (s.thr (leaderOf ks)).mode
  let a := f.a.toNat
  let flush (p : Nat × Nat) := (fp32.operand z p.1, p.2)
  let identity := (0x7FC00000, 0xFFFFFFFF)
  let root := treeRoot (fun l r => fp32.pick greater (flush l) (flush r)) identity
    (laneValues ks identity fun k => (((s.thr k).x a).toNat, ((s.thr k).x (a + 1)).toNat))
  rowWrite ks (fun _ t => t.wrd f.d.toNat (BitVec.ofNat 32 root.2 ++ BitVec.ofNat 32 root.1)) s

/-- RED.MAXI.hmax (Table 8.3, R148). -/
def reduceHalf (f : Fields) (ks : List Nat) (s : State) : State :=
  let z := ftzOf (s.thr (leaderOf ks)).mode
  reduce f (fun l r =>
    let p (v : Word) := (fp16.operand z (half v 0), half v 1)
    let c := fp16.pick true (p l) (p r)
    packed c.1 c.2) 0xFFFF7E00 ks s

/-- RED.MAXI.op (Table 8.3). -/
def execRedMaxi (f : Fields) (s : State) : Host.Outcome State Fault Refusal :=
  issueRow 0x8C f (fun ks s =>
    match f.m.toNat with
    | 0 => reducePairs f true ks s
    | 1 => reducePairs f false ks s
    | _ => reduceHalf f ks s) s

/-- One step of the prefix network (R190). -/
def scanStep (c : Word → Word → Word) (v : List Word) (k : Nat) : List Word :=
  v.mapIdx fun i x => if i ≥ k then c (v.getD (i - k) 0) x else x

/-- A scan (R190). -/
def scan (f : Fields) (c : Word → Word → Word) (identity : Word) (ks : List Nat) (s : State) : State :=
  let v := [1, 2, 4, 8, 16].foldl (scanStep c) (laneValues ks identity fun k => (s.thr k).x f.a.toNat)
  rowWrite ks (fun k t =>
    let i := laneOf k
    t.wr f.d.toNat
      (if f.c.getLsbD 0 then if i = 0 then identity else v.getD (i - 1) identity else v.getD i identity)) s

/-- SCAN.ADD (R190). -/
def execScanAdd (f : Fields) (s : State) : Host.Outcome State Fault Refusal :=
  issueRow 0x8D f (scan f (fun l r => l + r) 0) s

/-- SCAN.FADD (R190). -/
def execScanFadd (f : Fields) (s : State) : Host.Outcome State Fault Refusal :=
  issueRow 0x8E f (fun ks s => scan f (nodeAdd f (s.thr (leaderOf ks)).mode) 0x80000000 ks s) s

/-- ELECT: 1 in the lowest active lane (R187). -/
def execElect (f : Fields) (s : State) : Host.Outcome State Fault Refusal :=
  issueRow 0x8F f (fun ks s => rowWrite ks (fun k t => t.wrBit f.d.toNat f.bit (k == leaderOf ks)) s) s

end Sys2Proof.Machine
end

