-- ==== Sys2Proof/Machine/Dispatch.lean ====
section
/-! DEFINITION. The meaning of each step, by its constructor: one arm for each row of spec/opcode_table.json. -/

namespace Sys2Proof.Machine

def exec (i : Instr) (s : State) : Host.Outcome State Fault Refusal :=
  match i with
  | .nop f => Sys2Proof.Machine.execNop f s
  | .bra f => Sys2Proof.Machine.execBra f s
  | .brx f => Sys2Proof.Machine.execBrx f s
  | .call f => Sys2Proof.Machine.execCall f s
  | .callx f => Sys2Proof.Machine.execCallx f s
  | .ret f => Sys2Proof.Machine.execRet f s
  | .brtLate f => Sys2Proof.Machine.execBrtLate f s
  | .brtDue f => Sys2Proof.Machine.execBrtDue f s
  | .yield f => Sys2Proof.Machine.execYield f s
  | .park f => Sys2Proof.Machine.execPark f s
  | .exit f => Sys2Proof.Machine.execExit f s
  | .trap f => Sys2Proof.Machine.execTrap f s
  | .bkpt f => Sys2Proof.Machine.execBkpt f s
  | .setmode f => Sys2Proof.Machine.execSetmode f s
  | .getmode f => Sys2Proof.Machine.execGetmode f s
  | .loopn f => Sys2Proof.Machine.execLoopn f s
  | .add f => Sys2Proof.Machine.execAdd f s
  | .addi f => Sys2Proof.Machine.execAddi f s
  | .sub f => Sys2Proof.Machine.execSub f s
  | .mul f => Sys2Proof.Machine.execMul f s
  | .mulhiS32 f => Sys2Proof.Machine.execMulhiS32 f s
  | .mulhiN32 f => Sys2Proof.Machine.execMulhiN32 f s
  | .mad f => Sys2Proof.Machine.execMad f s
  | .madwS32 f => Sys2Proof.Machine.execMadwS32 f s
  | .madwN32 f => Sys2Proof.Machine.execMadwN32 f s
  | .minS32 f => Sys2Proof.Machine.execMinS32 f s
  | .maxS32 f => Sys2Proof.Machine.execMaxS32 f s
  | .minN32 f => Sys2Proof.Machine.execMinN32 f s
  | .maxN32 f => Sys2Proof.Machine.execMaxN32 f s
  | .addminS32 f => Sys2Proof.Machine.execAddminS32 f s
  | .divS32 f => Sys2Proof.Machine.execDivS32 f s
  | .divN32 f => Sys2Proof.Machine.execDivN32 f s
  | .and f => Sys2Proof.Machine.execAnd f s
  | .or f => Sys2Proof.Machine.execOr f s
  | .xor f => Sys2Proof.Machine.execXor f s
  | .andn f => Sys2Proof.Machine.execAndn f s
  | .logi f => Sys2Proof.Machine.execLogi f s
  | .shl f => Sys2Proof.Machine.execShl f s
  | .shrN32 f => Sys2Proof.Machine.execShrN32 f s
  | .shrS32 f => Sys2Proof.Machine.execShrS32 f s
  | .rotl f => Sys2Proof.Machine.execRotl f s
  | .popc f => Sys2Proof.Machine.execPopc f s
  | .clz f => Sys2Proof.Machine.execClz f s
  | .bfx f => Sys2Proof.Machine.execBfx f s
  | .bfi f => Sys2Proof.Machine.execBfi f s
  | .sel f => Sys2Proof.Machine.execSel f s
  | .cmpS32 f => Sys2Proof.Machine.execCmpS32 f s
  | .cmpN32 f => Sys2Proof.Machine.execCmpN32 f s
  | .add64 f => Sys2Proof.Machine.execAdd64 f s
  | .sub64 f => Sys2Proof.Machine.execSub64 f s
  | .shl64 f => Sys2Proof.Machine.execShl64 f s
  | .shr64 f => Sys2Proof.Machine.execShr64 f s
  | .movi f => Sys2Proof.Machine.execMovi f s
  | .movh f => Sys2Proof.Machine.execMovh f s
  | .mov f => Sys2Proof.Machine.execMov f s
  | .cinc f => Sys2Proof.Machine.execCinc f s
  | .csetb f => Sys2Proof.Machine.execCsetb f s
  | .cperm f => Sys2Proof.Machine.execCperm f s
  | .cget f => Sys2Proof.Machine.execCget f s
  | .ctest f => Sys2Proof.Machine.execCtest f s
  | .caddr f => Sys2Proof.Machine.execCaddr f s
  | .sread f => Sys2Proof.Machine.execSread f s
  | .crange f => Sys2Proof.Machine.execCrange f s
  | .idx f => Sys2Proof.Machine.execIdx f s
  | .fadd f => Sys2Proof.Machine.execFadd f s
  | .fsub f => Sys2Proof.Machine.execFsub f s
  | .fmul f => Sys2Proof.Machine.execFmul f s
  | .ffma f => Sys2Proof.Machine.execFfma f s
  | .fmin f => Sys2Proof.Machine.execFmin f s
  | .fmax f => Sys2Proof.Machine.execFmax f s
  | .faddmin f => Sys2Proof.Machine.execFaddmin f s
  | .fcmp f => Sys2Proof.Machine.execFcmp f s
  | .fsgn f => Sys2Proof.Machine.execFsgn f s
  | .fclass f => Sys2Proof.Machine.execFclass f s
  | .frnd f => Sys2Proof.Machine.execFrnd f s
  | .fcvti f => Sys2Proof.Machine.execFcvti f s
  | .itof f => Sys2Proof.Machine.execItof f s
  | .fscale f => Sys2Proof.Machine.execFscale f s
  | .fmaxi f => Sys2Proof.Machine.execFmaxi f s
  | .fmini f => Sys2Proof.Machine.execFmini f s
  | .hadd2 f => Sys2Proof.Machine.execHadd2 f s
  | .hmul2 f => Sys2Proof.Machine.execHmul2 f s
  | .hfma2 f => Sys2Proof.Machine.execHfma2 f s
  | .hmin2 f => Sys2Proof.Machine.execHmin2 f s
  | .hmax2 f => Sys2Proof.Machine.execHmax2 f s
  | .hcmp2 f => Sys2Proof.Machine.execHcmp2 f s
  | .badd2 f => Sys2Proof.Machine.execBadd2 f s
  | .bmul2 f => Sys2Proof.Machine.execBmul2 f s
  | .bfma2 f => Sys2Proof.Machine.execBfma2 f s
  | .bmin2 f => Sys2Proof.Machine.execBmin2 f s
  | .bmax2 f => Sys2Proof.Machine.execBmax2 f s
  | .hmaxi f => Sys2Proof.Machine.execHmaxi f s
  | .hdot2 f => Sys2Proof.Machine.execHdot2 f s
  | .bdot2 f => Sys2Proof.Machine.execBdot2 f s
  | .hcvt f => Sys2Proof.Machine.execHcvt f s
  | .bcvt f => Sys2Proof.Machine.execBcvt f s
  | .cvtE4 f => Sys2Proof.Machine.execCvtE4 f s
  | .cvtE5 f => Sys2Proof.Machine.execCvtE5 f s
  | .unpkE4 f => Sys2Proof.Machine.execUnpkE4 f s
  | .unpkE5 f => Sys2Proof.Machine.execUnpkE5 f s
  | .qntC4 f => Sys2Proof.Machine.execQntC4 f s
  | .dqC4 f => Sys2Proof.Machine.execDqC4 f s
  | .cvtI8 f => Sys2Proof.Machine.execCvtI8 f s
  | .unpkI8 f => Sys2Proof.Machine.execUnpkI8 f s
  | .cvtBf f => Sys2Proof.Machine.execCvtBf f s
  | .cvtHf f => Sys2Proof.Machine.execCvtHf f s
  | .srseed f => Sys2Proof.Machine.execSrseed f s
  | .srdraw f => Sys2Proof.Machine.execSrdraw f s
  | .pack f => Sys2Proof.Machine.execPack f s
  | .unpk f => Sys2Proof.Machine.execUnpk f s
  | .scaleE8 f => Sys2Proof.Machine.execScaleE8 f s
  | .blkexp f => Sys2Proof.Machine.execBlkexp f s
  | .crv f => Sys2Proof.Machine.execCrv f s
  | .crvld f => Sys2Proof.Machine.execCrvld f s
  | .crvrd f => Sys2Proof.Machine.execCrvrd f s
  | .crvclr f => Sys2Proof.Machine.execCrvclr f s
  | .fdiv f => Sys2Proof.Machine.execFdiv f s
  | .fsqrt f => Sys2Proof.Machine.execFsqrt f s
  | .frred f => Sys2Proof.Machine.execFrred f s
  | .fxtr f => Sys2Proof.Machine.execFxtr f s
  | .crc32c f => Sys2Proof.Machine.execCrc32c f s
  | .mix32 f => Sys2Proof.Machine.execMix32 f s
  | .byteperm f => Sys2Proof.Machine.execByteperm f s
  | .brev f => Sys2Proof.Machine.execBrev f s
  | .fns f => Sys2Proof.Machine.execFns f s
  | .popc64 f => Sys2Proof.Machine.execPopc64 f s
  | .clz64 f => Sys2Proof.Machine.execClz64 f s
  | .digest f => Sys2Proof.Machine.execDigest f s
  | .shflIdx f => Sys2Proof.Machine.execShflIdx f s
  | .shflUp f => Sys2Proof.Machine.execShflUp f s
  | .shflDn f => Sys2Proof.Machine.execShflDn f s
  | .shflXor f => Sys2Proof.Machine.execShflXor f s
  | .voteAny f => Sys2Proof.Machine.execVoteAny f s
  | .voteAll f => Sys2Proof.Machine.execVoteAll f s
  | .ballot f => Sys2Proof.Machine.execBallot f s
  | .matchW f => Sys2Proof.Machine.execMatchW f s
  | .redAdd f => Sys2Proof.Machine.execRedAdd f s
  | .redMm f => Sys2Proof.Machine.execRedMm f s
  | .redFadd f => Sys2Proof.Machine.execRedFadd f s
  | .redFmm f => Sys2Proof.Machine.execRedFmm f s
  | .redMaxi f => Sys2Proof.Machine.execRedMaxi f s
  | .scanAdd f => Sys2Proof.Machine.execScanAdd f s
  | .scanFadd f => Sys2Proof.Machine.execScanFadd f s
  | .elect f => Sys2Proof.Machine.execElect f s
  | .ld8 f => Sys2Proof.Machine.execLd8 f s
  | .ld16 f => Sys2Proof.Machine.execLd16 f s
  | .ld32 f => Sys2Proof.Machine.execLd32 f s
  | .ld64 f => Sys2Proof.Machine.execLd64 f s
  | .ld128 f => Sys2Proof.Machine.execLd128 f s
  | .probe f => Sys2Proof.Machine.execProbe f s
  | .pref f => Sys2Proof.Machine.execPref f s
  | .lda32 f => Sys2Proof.Machine.execLda32 f s
  | .lda64 f => Sys2Proof.Machine.execLda64 f s
  | .tnow f => Sys2Proof.Machine.execTnow f s
  | .tsort f => Sys2Proof.Machine.execTsort f s
  | .tmin f => Sys2Proof.Machine.execTmin f s
  | .tdiff f => Sys2Proof.Machine.execTdiff f s
  | .tmov f => Sys2Proof.Machine.execTmov f s
  | .tmovGet f => Sys2Proof.Machine.execTmovGet f s
  | .tmovRaw f => Sys2Proof.Machine.execTmovRaw f s
  | .tmovSet f => Sys2Proof.Machine.execTmovSet f s
  | .twait f => Sys2Proof.Machine.execTwait f s
  | .tcmp f => Sys2Proof.Machine.execTcmp f s
  | .st8 f => Sys2Proof.Machine.execSt8 f s
  | .st16 f => Sys2Proof.Machine.execSt16 f s
  | .st32 f => Sys2Proof.Machine.execSt32 f s
  | .st64 f => Sys2Proof.Machine.execSt64 f s
  | .st128 f => Sys2Proof.Machine.execSt128 f s
  | .stl32 f => Sys2Proof.Machine.execStl32 f s
  | .stl64 f => Sys2Proof.Machine.execStl64 f s
  | .stz f => Sys2Proof.Machine.execStz f s
  | .aadd f => Sys2Proof.Machine.execAadd f s
  | .amm f => Sys2Proof.Machine.execAmm f s
  | .alog f => Sys2Proof.Machine.execAlog f s
  | .acas32 f => Sys2Proof.Machine.execAcas32 f s
  | .acas64 f => Sys2Proof.Machine.execAcas64 f s
  | .afmm f => Sys2Proof.Machine.execAfmm f s
  | .ainc f => Sys2Proof.Machine.execAinc f s
  | .adrain f => Sys2Proof.Machine.execAdrain f s
  | .fence f => Sys2Proof.Machine.execFence f s
  | .waitc f => Sys2Proof.Machine.execWaitc f s
  | .barInit f => Sys2Proof.Machine.execBarInit f s
  | .barArr f => Sys2Proof.Machine.execBarArr f s
  | .barWait f => Sys2Proof.Machine.execBarWait f s
  | .barArrw f => Sys2Proof.Machine.execBarArrw f s
  | .barGrp f => Sys2Proof.Machine.execBarGrp f s
  | .barClu f => Sys2Proof.Machine.execBarClu f s
  | .barDie f => Sys2Proof.Machine.execBarDie f s
  | .barGrid f => Sys2Proof.Machine.execBarGrid f s
  | .flagset f => Sys2Proof.Machine.execFlagset f s
  | .flagwait f => Sys2Proof.Machine.execFlagwait f s
  | .sleep f => Sys2Proof.Machine.execSleep f s
  | .rowsync f => Sys2Proof.Machine.execRowsync f s
  | .cntwait f => Sys2Proof.Machine.execCntwait f s
  | .cntread f => Sys2Proof.Machine.execCntread f s
  | .copyGt f => Sys2Proof.Machine.execCopyGt f s
  | .copyTg f => Sys2Proof.Machine.execCopyTg f s
  | .copyTt f => Sys2Proof.Machine.execCopyTt f s
  | .copyGg f => Sys2Proof.Machine.execCopyGg f s
  | .copyGath f => Sys2Proof.Machine.execCopyGath f s
  | .copyScat f => Sys2Proof.Machine.execCopyScat f s
  | .tdecl f => Sys2Proof.Machine.execTdecl f s
  | .tfree f => Sys2Proof.Machine.execTfree f s
  | .tstate f => Sys2Proof.Machine.execTstate f s
  | .tdrain f => Sys2Proof.Machine.execTdrain f s
  | .tready f => Sys2Proof.Machine.execTready f s
  | .cpcancelTile f => Sys2Proof.Machine.execCpcancelTile f s
  | .cpcancelAll f => Sys2Proof.Machine.execCpcancelAll f s
  | .pagein f => Sys2Proof.Machine.execPagein f s
  | .pgstat f => Sys2Proof.Machine.execPgstat f s
  | .place f => Sys2Proof.Machine.execPlace f s
  | .discard f => Sys2Proof.Machine.execDiscard f s
  | .claimSlot f => Sys2Proof.Machine.execClaimSlot f s
  | .claimAcc f => Sys2Proof.Machine.execClaimAcc f s
  | .claimShare f => Sys2Proof.Machine.execClaimShare f s
  | .release f => Sys2Proof.Machine.execRelease f s
  | .opres f => Sys2Proof.Machine.execOpres f s
  | .opfree f => Sys2Proof.Machine.execOpfree f s
  | .cbld f => Sys2Proof.Machine.execCbld f s
  | .slotld f => Sys2Proof.Machine.execSlotld f s
  | .slotrd f => Sys2Proof.Machine.execSlotrd f s
  | .mzero f => Sys2Proof.Machine.execMzero f s
  | .mma f => Sys2Proof.Machine.execMma f s
  | .mloop f => Sys2Proof.Machine.execMloop f s
  | .accrd f => Sys2Proof.Machine.execAccrd f s
  | .accwr f => Sys2Proof.Machine.execAccwr f s
  | .mlinkArr f => Sys2Proof.Machine.execMlinkArr f s
  | .mlinkWait f => Sys2Proof.Machine.execMlinkWait f s
  | .mstatTime f => Sys2Proof.Machine.execMstatTime f s
  | .mstatWait f => Sys2Proof.Machine.execMstatWait f s
  | .mstatPeek f => Sys2Proof.Machine.execMstatPeek f s
  | .mcancelPass f => Sys2Proof.Machine.execMcancelPass f s
  | .mcancelAll f => Sys2Proof.Machine.execMcancelAll f s
  | .mprio f => Sys2Proof.Machine.execMprio f s
  | .launch f => Sys2Proof.Machine.execLaunch f s
  | .launchw f => Sys2Proof.Machine.execLaunchw f s
  | .cancel f => Sys2Proof.Machine.execCancel f s
  | .splitq f => Sys2Proof.Machine.execSplitq f s
  | .cores f => Sys2Proof.Machine.execCores f s
  | .thrarm f => Sys2Proof.Machine.execThrarm f s
  | .thrack f => Sys2Proof.Machine.execThrack f s
  | .budget f => Sys2Proof.Machine.execBudget f s
  | .featq f => Sys2Proof.Machine.execFeatq f s
  | .clkq f => Sys2Proof.Machine.execClkq f s
  | .setprio f => Sys2Proof.Machine.execSetprio f s
  | .homeq f => Sys2Proof.Machine.execHomeq f s
  | .detq f => Sys2Proof.Machine.execDetq f s
  | .rowwake f => Sys2Proof.Machine.execRowwake f s
  | .prioq f => Sys2Proof.Machine.execPrioq f s
  | .cycles f => Sys2Proof.Machine.execCycles f s
  | .sret f => Sys2Proof.Machine.execSret f s
  | .csrr f => Sys2Proof.Machine.execCsrr f s
  | .csrw f => Sys2Proof.Machine.execCsrw f s
  | .tlbinvAll f => Sys2Proof.Machine.execTlbinvAll f s
  | .tlbinvPage f => Sys2Proof.Machine.execTlbinvPage f s
  | .ctxsv f => Sys2Proof.Machine.execCtxsv f s
  | .ctxld f => Sys2Proof.Machine.execCtxld f s
  | .quarAdd f => Sys2Proof.Machine.execQuarAdd f s
  | .quarRem f => Sys2Proof.Machine.execQuarRem f s
  | .quarGet f => Sys2Proof.Machine.execQuarGet f s
  | .audcfgSet f => Sys2Proof.Machine.execAudcfgSet f s
  | .audcfgGet f => Sys2Proof.Machine.execAudcfgGet f s
  | .corhalt f => Sys2Proof.Machine.execCorhalt f s
  | .corwake f => Sys2Proof.Machine.execCorwake f s
  | .pwrgateGate f => Sys2Proof.Machine.execPwrgateGate f s
  | .pwrgateWake f => Sys2Proof.Machine.execPwrgateWake f s
  | .mcreadLo f => Sys2Proof.Machine.execMcreadLo f s
  | .mcreadHi f => Sys2Proof.Machine.execMcreadHi f s
  | .mcreadPop f => Sys2Proof.Machine.execMcreadPop f s
  | .pteset f => Sys2Proof.Machine.execPteset f s
  | .idle f => Sys2Proof.Machine.execIdle f s
  | .dbgstepStep f => Sys2Proof.Machine.execDbgstepStep f s
  | .dbgstepRun f => Sys2Proof.Machine.execDbgstepRun f s
  | .yieldBarExpiry k => Sys2Proof.Machine.execYieldBarExpiry k s
  | .parkWake k => Sys2Proof.Machine.execParkWake k s
  | .bookingRetry id => Sys2Proof.Machine.execBookingRetry id s
  | .promiseKnown id => Sys2Proof.Machine.execPromiseKnown id s
  | .firmPromise id => Sys2Proof.Machine.execFirmPromise id s
  | .loadDelivery id => Sys2Proof.Machine.execLoadDelivery id s
  | .brokenPromise id b => Sys2Proof.Machine.execBrokenPromise id b s
  | .lehrArrival id => Sys2Proof.Machine.execLehrArrival id s
  | .lehrApply id => Sys2Proof.Machine.execLehrApply id s
  | .storeCompletionKnown id => Sys2Proof.Machine.execStoreCompletionKnown id s
  | .storeRetire id => Sys2Proof.Machine.execStoreRetire id s
  | .atomicReturn id => Sys2Proof.Machine.execAtomicReturn id s
  | .porchSend die home => Sys2Proof.Machine.execPorchSend die home s
  | .porchAck id => Sys2Proof.Machine.execPorchAck id s
  | .porchReplay id => Sys2Proof.Machine.execPorchReplay id s
  | .porchSeize id => Sys2Proof.Machine.execPorchSeize id s
  | .porchPostAck die home => Sys2Proof.Machine.execPorchPostAck die home s
  | .porchResend die home => Sys2Proof.Machine.execPorchResend die home s
  | .homeLost die home => Sys2Proof.Machine.execHomeLost die home s
  | .storeRefusal id code => Sys2Proof.Machine.execStoreRefusal id code s
  | .stairTicketPass launch => Sys2Proof.Machine.execStairTicketPass launch s
  | .flagMonitorReread k => Sys2Proof.Machine.execFlagMonitorReread k s
  | .flagPoll k => Sys2Proof.Machine.execFlagPoll k s
  | .hwBarrierRelease id => Sys2Proof.Machine.execHwBarrierRelease id s
  | .gridRankRelease id cluster => Sys2Proof.Machine.execGridRankRelease id cluster s
  | .copyUnit id unit => Sys2Proof.Machine.execCopyUnit id unit s
  | .copyComplete id => Sys2Proof.Machine.execCopyComplete id s
  | .curveLoadComplete id => Sys2Proof.Machine.execCurveLoadComplete id s
  | .cbldComplete id => Sys2Proof.Machine.execCbldComplete id s
  | .slotTransferComplete id => Sys2Proof.Machine.execSlotTransferComplete id s
  | .engineGrant cluster => Sys2Proof.Machine.execEngineGrant cluster s
  | .streamLoad id => Sys2Proof.Machine.execStreamLoad id s
  | .stepApply id => Sys2Proof.Machine.execStepApply id s
  | .passComplete id => Sys2Proof.Machine.execPassComplete id s
  | .preemptRequest g => Sys2Proof.Machine.execPreemptRequest g s
  | .preemptRetry g => Sys2Proof.Machine.execPreemptRetry g s
  | .contextSave g => Sys2Proof.Machine.execContextSave g s
  | .groupResume g cluster => Sys2Proof.Machine.execGroupResume g cluster s
  | .groupDispatch launch g => Sys2Proof.Machine.execGroupDispatch launch g s
  | .groupSpill launch g => Sys2Proof.Machine.execGroupSpill launch g s
  | .groupEnd g => Sys2Proof.Machine.execGroupEnd g s
  | .launchStart launch => Sys2Proof.Machine.execLaunchStart launch s
  | .launchComplete launch => Sys2Proof.Machine.execLaunchComplete launch s
  | .groupKill g cause who => Sys2Proof.Machine.execGroupKill g cause who s
  | .damperInterval => Sys2Proof.Machine.execDamperInterval s
  | .slewAdmit cluster => Sys2Proof.Machine.execSlewAdmit cluster s
  | .clusterGate cluster => Sys2Proof.Machine.execClusterGate cluster s
  | .ratioChange cluster => Sys2Proof.Machine.execRatioChange cluster s
  | .clockChange cluster => Sys2Proof.Machine.execClockChange cluster s
  | .pageWalk id => Sys2Proof.Machine.execPageWalk id s
  | .copyOnWrite id => Sys2Proof.Machine.execCopyOnWrite id s
  | .migrationCopy id => Sys2Proof.Machine.execMigrationCopy id s
  | .migrationCommit id => Sys2Proof.Machine.execMigrationCommit id s
  | .timeCompare => Sys2Proof.Machine.execTimeCompare s
  | .softError e => Sys2Proof.Machine.execSoftError e s
  | .replayDispatch a => Sys2Proof.Machine.execReplayDispatch a s
  | .replayTimeout a => Sys2Proof.Machine.execReplayTimeout a s
  | .replayStall a pos => Sys2Proof.Machine.execReplayStall a pos s
  | .auditCompare a r => Sys2Proof.Machine.execAuditCompare a r s
  | .tiebreak a r => Sys2Proof.Machine.execTiebreak a r s
  | .hostLoad pa bytes => Sys2Proof.Machine.execHostLoad pa bytes s
  | .hostStore pa data => Sys2Proof.Machine.execHostStore pa data s
  | .submitGo window w34 => Sys2Proof.Machine.execSubmitGo window w34 s
  | .tableEntryPort pa entry => Sys2Proof.Machine.execTableEntryPort pa entry s
  | .hostTlbInvalidate va => Sys2Proof.Machine.execHostTlbInvalidate va s
  | .cowRefusal frame => Sys2Proof.Machine.execCowRefusal frame s
  | .framePoolFill die size pa => Sys2Proof.Machine.execFramePoolFill die size pa s
  | .domainModeWrite index v => Sys2Proof.Machine.execDomainModeWrite index v s
  | .clkreq v => Sys2Proof.Machine.execClkreq v s
  | .hdoor v => Sys2Proof.Machine.execHdoor v s
  | .fmask core v => Sys2Proof.Machine.execFmask core v s
  | .registerWrite r v => Sys2Proof.Machine.execRegisterWrite r v s
  | .status => Sys2Proof.Machine.execStatus s
  | .selftest => Sys2Proof.Machine.execSelftest s
  | .ident piece => Sys2Proof.Machine.execIdent piece s
  | .fwstage image => Sys2Proof.Machine.execFwstage image s
  | .sense => Sys2Proof.Machine.execSense s
  | .spdmAttestation request => Sys2Proof.Machine.execSpdmAttestation request s
  | .powerOn b => Sys2Proof.Machine.execPowerOn b s
  | .hbmThermalStop die pc => Sys2Proof.Machine.execHbmThermalStop die pc s
  | .junctionOvertemp die grant => Sys2Proof.Machine.execJunctionOvertemp die grant s
  | .thermalShutdown => Sys2Proof.Machine.execThermalShutdown s
  | .linkRetire link => Sys2Proof.Machine.execLinkRetire link s
  | .powerOff => Sys2Proof.Machine.execPowerOff s
  | .domainAccess pa a => Sys2Proof.Machine.execDomainAccess pa a s
  | .hostMigrationStart tenant va target => Sys2Proof.Machine.execHostMigrationStart tenant va target s
  | .pageinHostRefusal tenant va => Sys2Proof.Machine.execPageinHostRefusal tenant va s
  | .probePinExpiry id => Sys2Proof.Machine.execProbePinExpiry id s

end Sys2Proof.Machine
end

