-- ==== Sys2Proof/Machine/Select.lean ====
section
/-! DEFINITION. The issue selector and the beat (spec/03, 04): where a thread stands and what it meets there (R70 to R73, R84), the order of
traps over a pair (R75, R80, R377), readiness (R98), the choice of an index and of threads (R99, R183, R262), and the running of a beat. -/

namespace Sys2Proof.Machine

/-! ### The turn of a thread -/

/-- What happens to a thread when its turn comes. -/
inductive Turn where
  /-- a trap, taken at the block start or word where the thread stands -/
  | trap (x : Flt)
  /-- a trap of the second word of a pair -/
  | trap2 (x : Flt)
  /-- the word issues, the thread as it stands there -/
  | go (t : Thread)
  /-- the word waits -/
  | wait

/-- Whether a trap that is due can be delivered now: no write to the thread's registers is pending (R375). -/
def deliverable (t : Thread) : Bool := t.pend.isEmpty || t.sys

/-- What a thread's turn would bring. The word's faults are found by issuing it, but for those of a pair. At a row word a thread that is parked on data is
one that waits, as a stalled one is: R183 lists parked threads as inactive, and R102 tells the two apart for gating alone (log 100). -/
def turnOf (s : State) (k : Nat) (l : Look) : Turn :=
  let t := s.thr k
  match asyncDue t, l with
  | some x, _ => if deliverable t then .trap x else .wait
  | none, .absent => .wait
  | none, .fault _ n => if deliverable t then .trap { cause := causeIllegal, sub := n } else .wait
  | none, .word u w second =>
    let s1 := s.modThr k fun _ => u
    match second with
    | none =>
      let op := opOf w
      let f := unpack w
      if (trapDue s1 k op f).isSome then (if deliverable t then .go u else .wait)
      else if operandsReady s1 k op f then .go u
      else .wait
    | some v =>
      match pairDue s1 k w v with
      | some (x, second) => if !deliverable t then .wait else if second then .trap2 x else .trap x
      | none => if operandsReady s1 k (opOf w) (unpack w) && operandsReady s1 k (opOf v) (unpack v) then .go u else .wait

/-- A thread is ready (R98), but for a bar of YIELD. -/
def Turn.ready (x : Turn) : Bool := match x with | .wait => false | _ => true

/-! ### Candidates -/

/-- The index of a thread: its word index, and what tells one program's words from another's. -/
def indexOf (s : State) (k : Nat) : Nat := (s.thr k).pc * 2 ^ 56 + (s.lchOf k).tenant * 2 ^ 52 + codeAddr s k 0

/-- A candidate at a core. -/
structure Cand where
  key : Nat
  index : Nat
  since : Nat
  slot : Nat
  held : Bool
  ready : Bool
  barred : Bool
  together : Nat
  /-- the class of the word is 0x8 (R183) -/
  row : Bool
  /-- in a replay, the active set that the log has for the row word -/
  mask : Nat
  deriving DecidableEq, Repr

/-- The class of the word that a thread meets is 0x8. -/
def Look.isRow (l : Look) : Bool := match l with | .word _ w _ => opOf w / 16 == 8 | _ => false

/-- The active set that a replay's log has for the row word where a thread stands; none outside a replay, or where the next entry is of another word. -/
def rowMask (s : State) (k : Nat) (l : Look) : Nat :=
  match l with
  | .word t _ _ =>
    if replaying s k && l.isRow then (match replayLog s k with | e :: _ => if e.pc = t.pc then e.mask else 0 | [] => 0) else 0
  | _ => 0

/-- A row word is one for a thread: in a replay only where its guard passes, since no other thread has an entry of it. -/
def rowFor (s : State) (k : Nat) (l : Look) : Bool :=
  match l with
  | .word t w _ => l.isRow && (!replaying s k || guardPasses t (unpack w))
  | _ => false

/-- A thread as a candidate; one that issued in the first slot of a cycle is not ready in its second (R98). -/
def candOf (s : State) (n : Nat) (gone : Bool) (k : Nat) : Cand :=
  let t := s.thr k
  let l := look s k
  { key := k, index := indexOf s k, since := t.since, slot := s.slotOf k, held := isHeld s k, ready := !gone && (turnOf s k l).ready
    barred := n < t.yieldBar, together := t.together, row := rowFor s k l, mask := if rowFor s k l then rowMask s k l else 0 }

/-- The threads on a core that are neither parked nor paused, nor stopped for the debugger: one that is stopped at a row word is an inactive lane, though
R183 does not name it (log 100). -/
def coreThreads (s : State) (core : Nat) : List Nat :=
  (s.groups.filter fun p => p.2.cluster = core / 4 && p.2.residency = .resident).flatMap fun p =>
    (threadsOf s p.1).filter fun k => s.coreOf k = core && mayRun s k

/-- Threads that issue at their index only together: those that one ROWSYNC released, or, at a row word, those of a row (R262, R183). -/
def mates (c d : Cand) : Bool :=
  d.index = c.index && d.key / 32 = c.key / 32 && !d.held && ((c.together ≠ 0 && d.together = c.together) || (c.row && d.row && d.mask = c.mask))

/-- In a replay a row word waits until exactly the logged threads stand at it (R191): those that the log has at this issue of it. Others that stand at the
same word for another issue are not part of this one (log 103). -/
def maskShort (cs : List Cand) (c : Cand) : Bool :=
  (List.range 32).any fun l => c.mask.testBit l && !(cs.any fun d => d.key = c.key / 32 * 32 + l && mates c d)

/-- A thread waits for others at its index. -/
def waitsForMates (cs : List Cand) (c : Cand) : Bool := maskShort cs c || cs.any fun d => mates c d && !d.ready

/-- A YIELD bars a thread, or one without which it does not issue (R92). -/
def barredMate (cs : List Cand) (c : Cand) : Bool := c.barred || cs.any fun d => mates c d && d.barred

/-- The threads of a core as candidates for its slot `n`, each by itself. -/
def rawCands (s : State) (core n : Nat) : List Cand :=
  let second := (s.cluster (core / 4)).ratio = 2 && (n - (s.cluster (core / 4)).slots) % 2 = 1 && (s.core core).slot = n
  (coreThreads s core).map fun k => candOf s n (second && (s.core core).issued.contains k) k

/-- The readiness of candidates settled: those that wait for mates, and the bars of YIELD, which hold only while another thread is ready (R92). -/
def settleCands (cs : List Cand) : List Cand :=
  let cs := cs.map fun c => { c with ready := c.ready && !waitsForMates cs c, barred := barredMate cs c }
  let free := cs.any fun c => c.ready && !c.held && !c.barred
  cs.map fun c => { c with ready := c.ready && !(free && c.barred) }

/-- The candidates of a core for its slot `n`. -/
def candsOf (s : State) (core n : Nat) : List Cand := settleCands (rawCands s core n)

/-- The candidates once those held at an index have been released: they join the mates of a row word (R99, R183). -/
def releasedCands (s : State) (core n i : Nat) : List Cand :=
  settleCands ((rawCands s core n).map fun c => if c.index = i then { c with held := false } else c)

/-! ### The choice (R99) -/

/-- The indices at which ready or held threads wait. -/
def indices (cs : List Cand) : List Nat := ((cs.filter fun c => c.ready || c.held).map (·.index)).foldl sput []

/-- The index whose counter reached 64 first, the lowest on a tie. -/
def agedIndex (ages : NMap (Nat × Nat)) (is : List Nat) : Option Nat :=
  (is.filterMap fun i => match nfind ages i with | some (64, at_) => some (i, at_) | _ => none).foldl (fun b p =>
    match b with
    | none => some p
    | some q => if p.2 < q.2 then some p else some q) none |>.map (·.1)

/-- The lanes with a ready thread at an index. -/
def lanesAt (cs : List Cand) (i : Nat) : Nat :=
  (((cs.filter fun c => c.ready && !c.held && c.index = i).map fun c => laneOf c.key).foldl sput []).length

/-- The longest wait at an index: the slot since which its longest-waiting ready thread waits. -/
def oldestAt (cs : List Cand) (i : Nat) : Nat :=
  ((cs.filter fun c => c.ready && !c.held && c.index = i).map (·.since)).foldl min (2 ^ 64)

/-- The index with the most lanes, then the longest wait, then the lowest. -/
def bestIndex (cs : List Cand) (is : List Nat) : Option Nat :=
  (is.filter fun i => lanesAt cs i > 0).foldl (fun b i =>
    match b with
    | none => some i
    | some j =>
      if lanesAt cs j < lanesAt cs i || (lanesAt cs j = lanesAt cs i && oldestAt cs i < oldestAt cs j) then some i else some j) none

/-- The one that has waited longest, ties to the lowest slot. -/
def longer (a b : Cand) : Bool := a.since < b.since || (a.since = b.since && a.slot < b.slot)

/-- The first candidate of some by waiting time. -/
def longest (cs : List Cand) : Option Cand :=
  cs.foldl (fun b c => match b with | none => some c | some d => if longer c d then some c else some d) none

/-- One thread a lane, in ascending lane order. -/
def onePerLane (cs : List Cand) : List Cand := (List.range 32).filterMap fun l => longest (cs.filter fun c => laneOf c.key = l)

/-- The threads that issue at an index: of one row for a row word, of each lane the longest-waiting; threads released together go all or
none (R98, R99, R262). -/
def threadsAt (cs : List Cand) : List Nat :=
  let row := match longest cs with
    | some c => if c.row then cs.filter fun d => d.row && d.mask = c.mask && d.key / 32 = c.key / 32 else cs.filter fun d => !d.row
    | none => cs
  let picks := onePerLane row
  (picks.filter fun c =>
    c.together = 0 || row.all fun d => d.together ≠ c.together || d.key / 32 ≠ c.key / 32 || picks.any fun e => e.key = d.key).map (·.key)

/-- A core's ageing counters as a slot finds them: a slot that passed unused had no thread, ready or held, at any index, and cleared them (R99). -/
def agesAt (s : State) (core n : Nat) : NMap (Nat × Nat) := if (s.core core).slot = n then (s.core core).ages else []

/-- What the selector decides in a slot: the index that wins, and the threads that issue there. -/
def choose (s : State) (core n : Nat) : Option Nat × List Nat :=
  let cs := candsOf s core n
  let is := indices cs
  match agedIndex (agesAt s core n) is with
  | some i => (some i, threadsAt ((releasedCands s core n i).filter fun c => c.ready && c.index = i))
  | none =>
    match bestIndex cs is with
    | some i => (some i, threadsAt (cs.filter fun c => c.ready && !c.held && c.index = i))
    | none => (none, [])

/-- The ageing counters after a slot (R99). -/
def ageAll (ages : NMap (Nat × Nat)) (is : List Nat) (win : Option Nat) (n : Nat) : NMap (Nat × Nat) :=
  is.filterMap fun i =>
    if win = some i then none
    else
      match nfind ages i with
      | none => some (i, (1, 0))
      | some (64, at_) => some (i, (64, at_))
      | some (63, _) => some (i, (64, n))
      | some (m, _) => some (i, (m + 1, 0))

/-- The beat slot that a core may use at this tick. -/
def slotDue (s : State) (core : Nat) : Option Nat :=
  let n := s.curSlot core
  if n < slotsBefore s (core / 4) (s.now + 1) then some n else none

/-- A core has threads that a slot concerns: ready ones, or held ones, whose index ages. -/
def coreBusy (s : State) (core n : Nat) : Bool := (candsOf s core n).any fun c => c.ready || c.held

/-- The cores of clusters that run and hold resident groups. -/
def runningCores (s : State) : List Nat :=
  (s.groups.foldl (fun l p =>
    if p.2.residency = .resident && !(s.cluster p.2.cluster).gated then sput l p.2.cluster else l) []).flatMap fun c => [4 * c, 4 * c + 1, 4 * c + 2, 4 * c + 3]

/-- The next core, in the order of their numbers, that has a slot and threads for it. -/
def nextCore (s : State) : Option (Nat × Nat) :=
  (runningCores s).findSome? fun c =>
    match slotDue s c with
    | some n => if coreBusy s c n then some (c, n) else none
    | none => none

/-! ### The beat -/

/-- Each thread of a beat takes its trap, or stands at its word with its block entered. Answers those that issue. -/
def enterAll (s : State) (ks : List Nat) : State × List Nat :=
  ks.foldl (fun (p : State × List Nat) k =>
    match turnOf s k (look s k) with
    | .trap x =>
      (match asyncDue (s.thr k), look s k with
       | none, .fault u _ => (takeFlt (p.1.modThr k fun _ => u) k x, p.2)
       | none, .word u _ _ => (takeFlt (p.1.modThr k fun _ => u) k x, p.2)
       | _, _ => (takeFlt p.1 k x, p.2))
    | .trap2 x =>
      (match look s k with
       | .word u _ _ => (takeFlt (p.1.modThr k fun _ => u) k x true, p.2)
       | _ => p)
    | .go u => (p.1.modThr k fun _ => u, p.2 ++ [k])
    | .wait => p) (s, [])

/-- Set the beat that `exec` acts on. -/
def State.withBeat (s : State) (core : Nat) (ks : List Nat) (adv : Nat) (pre : NMap (Word × Option Nat)) : State :=
  { s with beat := { core := core, threads := ks, adv := adv, pre := pre } }

/-- Execute a word: the instruction that it decodes to, or, where it decodes to none, the fault that its fields give (R79). -/
noncomputable def execWord (w : Code) (s : State) : Host.Outcome State Fault Refusal :=
  match decodeWord w with
  | .ok i => exec i s
  | .error _ => issue (opOf w) (unpack w) (fun _ s => .stay s) s

/-- Go on after an outcome. -/
def andThen (o : Host.Outcome State Fault Refusal) (f : State → Host.Outcome State Fault Refusal) : Host.Outcome State Fault Refusal :=
  match o with
  | .next s => f s
  | .fault r => .fault r
  | .refused r => .refused r

/-- The threads on a core that have not exited, stopped ones too. -/
def liveThreads (s : State) (core : Nat) : List Nat :=
  (s.groups.filter fun p => p.2.cluster = core / 4 && p.2.residency = .resident).flatMap fun p =>
    (threadsOf s p.1).filter fun k => s.coreOf k = core && (s.thr k).life != .exited

/-- A hold of a thread is over: it may wait for what its word waits for from now on (R85, R249). -/
def endHold (s : State) (k : Nat) : State := s.modThr k fun t => { t with held := false, stood := s.now }

/-- The holds of a core's threads whose mates have arrived, or gone, are over, of those too that the debugger has stopped (R85). -/
def dropHolds (s : State) (core : Nat) : State :=
  (liveThreads s core).foldl (fun x k => if (s.thr k).held && !isHeld s k then endHold x k else x) s

/-- A win by ageing releases every thread held at the index (R99). -/
def releaseHeld (s : State) (core : Nat) (win : Option Nat) : State :=
  match win with
  | none => s
  | some i => (coreThreads s core).foldl (fun x k => if indexOf s k = i && (s.thr k).held then endHold x k else x) s

/-- The core's slot is used: the ageing counters step, and a win by ageing lets the held threads of its index go. -/
def slotUsed (s : State) (core n : Nat) : State :=
  let win := (choose s core n).1
  let is := indices (candsOf s core n)
  let ages := agesAt s core n
  let s0 := dropHolds s core
  let s1 := if (agedIndex ages is).isSome then releaseHeld s0 core win else s0
  s1.modCore core fun c => { c with slot := n + 1, issued := (choose s core n).2, ages := ageAll ages is win n }

/-- The words that the front end fetches when a thread enters its block: the block's, and PF · 8 after them, within the extent (R87). -/
def blockWords (s : State) (k : Nat) : List Nat :=
  let t := s.thr k
  (List.range' t.hdr (1 + hdrLen t.hdrWord + 8 * hdrPf t.hdrWord)).filter (· < extentOf s k)

/-- The words at which a thread that issues stands are in its core's instruction cache, and on entering a block what is fetched with it (R87, R98). -/
def cacheWords (s : State) (k : Nat) : State :=
  let t := s.thr k
  let s0 := if t.pc = t.hdr + 1 then (blockWords s k).foldl (fun x i => cacheWord x k i) s else cacheWord s k t.hdr
  let s1 := cacheWord s0 k t.pc
  if (fetch s k t.pc).any pairBit then cacheWord s1 k (t.pc + 1) else s1

/-- The chosen threads have taken their traps or stand at their word, and those that issue it. -/
def entered (s : State) (core n : Nat) : State × List Nat :=
  let r := enterAll (slotUsed s core n) (choose s core n).2
  let ks := r.2.filter fun k => (nfind r.1.threads k).isSome
  (if ks.isEmpty then r.1 else cacheWords r.1 (ks.headD 0), ks)

/-- The status and the latch of each thread before a pair (R75). -/
def preMap (s : State) (ks : List Nat) : NMap (Word × Option Nat) :=
  ks.foldl (fun m k => nset m k ((s.thr k).status, (s.thr k).latch)) []

/-- Issue the word at which some threads stand, or the pair: its second word reads what s.status was before it (R75). -/
noncomputable def issueAt (s : State) (core : Nat) (ks : List Nat) : Host.Outcome State Fault Refusal :=
  match look s (ks.headD 0) with
  | .word _ w none => execWord w (s.withBeat core ks 1 [])
  | .word _ w (some v) =>
    andThen (execWord w (s.withBeat core ks 0 (preMap s ks))) fun s1 =>
      execWord v (s1.withBeat core (ks.filter fun k => (nfind s1.threads k).isSome) 2 (preMap s ks))
  | _ => .next s

/-- A core uses a beat slot: the selector chooses, and the chosen threads issue. -/
noncomputable def beatStep (s : State) (core n : Nat) : Host.Outcome State Fault Refusal :=
  let r := entered s core n
  if r.2.isEmpty then .next r.1 else issueAt r.1 core r.2

end Sys2Proof.Machine
end

