-- ==== Sys2Proof/Machine/Schedule.lean ====
section
/-! DEFINITION. What the device does by itself, and when: for each piece of work in flight the tick at which its next event acts, the events
of a tick in a fixed order (updates, then reads, then what lands, then the course of groups), the inputs, and the passing of time. -/

namespace Sys2Proof.Machine

/-- A piece of work that is due: a step of the opcode table, or an inner part of one that has no row of its own. -/
inductive Todo where
  | ev (i : Instr)
  /-- the read point of a booked load (R201) -/
  | readPoint (id : Nat)
  /-- a release of the stair (R245) -/
  | stair (g : Nat)
  /-- a link of the engine is met (R326) -/
  | link (g : Nat) (l : Nat × Word × List Nat)
  /-- a page operation at the host ends with a written entry (R397, R400) -/
  | entry (a : Nat) (e : Double)
  /-- a thread of a marked group has parked and is rewound (R104) -/
  | rewind (g : Nat)
  /-- a thread of a cancelled group stands at a header and ends (R32) -/
  | strand (g : Nat)
  /-- the engine's queue of a group goes on (R307) -/
  | settle (g : Nat)

/-- Do a piece of work. -/
def runTodo (t : Todo) (s : State) : Host.Outcome State Fault Refusal :=
  match t with
  | .ev i => exec i s
  | .readPoint id => .next (readPoint id s)
  | .stair g => .next (stair s g)
  | .link g l => .next (linkMet s g l)
  | .entry a e => .next (entryWritten s a e)
  | .rewind g => .next (requestPreempt s g)
  | .strand g => .next (cancelGroup s g)
  | .settle g => .next (engineSettle s g)

/-- A piece of work with the tick from which it is due. -/
abbrev Due := Nat × Todo

/-- Work that is due at once, if it is. -/
def dueIf (p : Bool) (t : Todo) : List Due := if p then [(0, t)] else []

/-! ### Updates (spec/11) -/

/-- The number by which arrivals of one tick are ordered: die, core, lane (R232). -/
def arrivalRank (u : Upd) (id : Nat) : Nat := (u.die * 1024 + u.core) * 32 * 2 ^ 64 + u.lane * 2 ^ 64 + id

/-- The arrivals at the lehr. -/
noncomputable def arrivals (s : State) : List Due :=
  (s.upds.foldl (fun (m : NMap Due) p =>
    match p.2.phase with
    | .travel t => nset m (arrivalRank p.2 p.1) (t, .ev (.lehrArrival p.1))
    | .blocked =>
      if behind s p.1 p.2 || inBusyTile s p.2.key p.2.bytes then m
      else nset m (arrivalRank p.2 p.1) (0, .ev (.lehrArrival p.1))
    | _ => m) []).map (·.2)

/-- The applications. -/
noncomputable def applications (s : State) : List Due :=
  s.upds.flatMap fun p => match p.2.phase with | .lehr c => [(c, Todo.ev (.lehrApply p.1))] | _ => []

/-- What becomes known of an update, its acknowledgement, its retirement, the porch's replays (R230, R236, R239). -/
noncomputable def updDues (s : State) (id : Nat) (u : Upd) : List Due :=
  (match u.c, u.knownAt, u.th with
   | some _, some n, some _ => if u.told then [] else [(n, Todo.ev (.storeCompletionKnown id))]
   | _, _, _ => []) ++
  (match u.phase with
   | .applied back =>
     if !offDie u.die u.key then [(back, Todo.ev (.storeRetire id))] else if back > 0 then [(back, Todo.ev (.porchAck id))] else []
   | .far tick => [(tick, Todo.ev (.storeRetire id))]
   | .porch => dueIf (u.sent.isNone && porchNext s u.die (homeOf u.key) == some id) (.ev (.porchSend u.die (homeOf u.key)))
   | _ => []) ++
  (match u.sent with
   | some t =>
     if !unanswered u || (s.die u.die).seized.contains (homeOf u.key) then []
     else
       (if u.replays < 8 then [(t + 1024 * (u.replays + 1), Todo.ev (.porchReplay id))] else []) ++ [(t + 9216, Todo.ev (.porchSeize id))]
   | none => [])

/-! ### Returns (spec/09) -/

/-- What a return does next, but for its read point. -/
noncomputable def retDues (s : State) (id : Nat) (r : Ret) : List Due :=
  match r.phase with
  | .walk t _ _ => [(t, .ev (.pageWalk id))]
  | .back t _ => [(t, .ev (.pageWalk id))]
  | .probe known _ _ => [(known, .ev (.promiseKnown id))]
  | .retry t _ => [(t, .ev (.bookingRetry id))]
  | .blocked => dueIf (match r.key with | some key => servedNow s id r key | none => false) (.ev (.bookingRetry id))
  | .read land =>
    (match r.kind with
     | .atomic => [(land, .ev (.atomicReturn id))]
     | .xfer => []
     | _ => [(land, .ev (.loadDelivery id))])
  | .booked _ _ => []
  | .await => []

/-- The read points, and the firm promises of bounded paths before them. -/
noncomputable def reads (s : State) : List Due :=
  s.rets.flatMap fun p =>
    match p.2.phase, p.2.kind with
    | .booked _ _, .atomic => []
    | .booked read _, _ =>
      (if p.2.est && p.2.bounded then [(p.2.issued + 400, Todo.ev (.firmPromise p.1))] else []) ++
        (if p.2.key.isSome then [(read, Todo.readPoint p.1)] else [])
    | _, _ => []

/-! ### Transfers and the engine (spec/16, spec/18) -/

/-- A transfer whose reads have all landed goes on (R171, R311, R312, R316). -/
def wholeDues (s : State) (id : Nat) (x : Xfer) (t : Todo) : List Due := dueIf (x.booked && piecesDone s id) t

/-- A transfer that moves units goes on: its next unit, when it is not held for copy-on-write nor for entries of the porch, or its end (R285, R237). -/
def unitDues (s : State) (x : Xfer) (unit end_ : Todo) : List Due :=
  if !x.started then []
  else if xferDone s x then [(0, end_)]
  else if x.stop.isNone && x.next < x.units && x.hold.isNone then [(x.at_, unit)]
  else []

/-- What a transfer does next. -/
noncomputable def xferDues (s : State) (id : Nat) (x : Xfer) : List Due :=
  match x.kind with
  | .copy _ => unitDues s x (.ev (.copyUnit id x.next)) (.ev (.copyComplete id))
  | .curve _ _ _ => if curveBehind s id x.group then [] else wholeDues s id x (.ev (.curveLoadComplete id))
  | .book _ => wholeDues s id x (.ev (.cbldComplete id))
  | .slotIn _ => wholeDues s id x (.ev (.slotTransferComplete id))
  | .slotOut _ => unitDues s x (.ev (.slotTransferComplete id)) (.ev (.slotTransferComplete id))
  | .stream _ _ => wholeDues s id x (.ev (.streamLoad id))

/-- A group that is on its cluster, killed or not. -/
def onCluster (g : Group) : Bool := g.residency ≠ .saved

/-- The steps to be applied. -/
noncomputable def stepDues (s : State) : List Due :=
  s.groups.flatMap fun p =>
    if !onCluster p.2 then []
    else p.2.passes.flatMap fun q => match q.due with | t :: _ => [(t, Todo.ev (.stepApply (entryId p.1 q.pid)))] | [] => []

/-- The passes that have come to their end, and the queues that go on. -/
noncomputable def passDues (s : State) : List Due :=
  s.groups.flatMap fun p =>
    if !onCluster p.2 then []
    else
      (p.2.passes.flatMap fun q => dueIf q.ended (.ev (.passComplete (entryId p.1 q.pid)))) ++
        dueIf (opDue s p.2).isSome (.settle p.1)

/-- The grants of the engines. -/
noncomputable def grantDues (s : State) : List Due :=
  ((s.groups.foldl (fun l p => if p.2.residency = .resident && !p.2.passes.isEmpty then sput l p.2.cluster else l) []).filter
    fun c => !(candidates s c).isEmpty).map fun c => ((s.cluster c).engine, Todo.ev (.engineGrant c))

/-- The link that is met. -/
def linkDues (s : State) : List Due := match linkDue s with | some (g, l) => [(0, .link g l)] | none => []

/-! ### Pages (spec/22) -/

/-- What a page operation does next. -/
noncomputable def pageDues (s : State) (id : Nat) (o : PageOp) : List Due :=
  match o.kind, o.phase with
  | .cow _ _, .start t => if cowBehind s id o then [] else [(t, .ev (.copyOnWrite id))]
  | .cow _ _, .copying t _ => [(t, .ev (.copyOnWrite id))]
  | .move _ _, .drain _ => dueIf (!storesLeft s o) (.ev (.migrationCopy id))
  | .move _ _, .copying t _ => [(t, .ev (.migrationCommit id))]
  | _, _ => []

/-- An entry for which a page operation at the host waited. -/
def entryDues (s : State) : List Due := match entrySettled s with | some (a, e) => [(0, .entry a e)] | none => []

/-! ### Threads and barriers (spec/04, spec/12) -/

/-- What a parked or barred thread does next. -/
noncomputable def threadDues (s : State) (k : Nat) (t : Thread) : List Due :=
  (match t.wait with
   | .park w => [(tickOn s (s.dieOf k) (w - 16), Todo.ev (.parkWake k))]
   | .tick w | .woken w | .fallen w => [(tickOn s (s.dieOf k) w, Todo.ev (.parkWake k))]
   | .idle w => [(tickOn s (s.dieOf k) w, Todo.ev (.parkWake k))]
   | .release scope => dueIf (releaseReady s k scope || t.refusal.isSome) (.ev (.parkWake k))
   | .count level work n => dueIf (openOf s level work ≤ n) (.ev (.parkWake k))
   | .row => dueIf (rowWaits s k) (.ev (.parkWake k))
   | .larder r _ => dueIf ((recordFull s false r.gmode).1 = 0) (.ev (.parkWake k))
   | .barrier key (some ticket) _ from_ => if barPast (barGen s key) ticket then [(from_, Todo.ev (.parkWake k))] else []
   | .flag _ _ _ poll fired none _ =>
     dueIf fired (.ev (.flagMonitorReread k)) ++ (if poll > 0 then [(poll, Todo.ev (.flagPoll k))] else [])
   | _ => []) ++ dueIf (t.yieldBar ≠ 0 && t.yieldBar ≤ s.curSlot (s.coreOf k)) (.ev (.yieldBarExpiry k))

/-- The threads that may do something so: of resident groups. -/
noncomputable def allThreadDues (s : State) : List Due :=
  s.threads.flatMap fun p => if p.2.life = .live && (s.grpOf p.1).residency = .resident then threadDues s p.1 p.2 else []

/-- The releases of hardware barriers. -/
noncomputable def barDues (s : State) (id : Nat) (b : HwBar) : List Due :=
  dueIf (barDue s b) (.ev (.hwBarrierRelease id)) ++
    (if b.released.isSome then b.left.map fun c => (rankTick b c.1, Todo.ev (.gridRankRelease id c.1)) else [])

/-! ### Groups and launches (spec/04, spec/11, spec/20) -/

/-- A thread of a cancelled group stands at a header, to which a trap or a return from one may have brought it (R32). -/
def stranded (s : State) (g : Nat) : Bool :=
  (s.grp g).cancelled && (threadsOf s g).any fun k => (s.thr k).life != .exited && (s.thr k).atHeader

/-- What a group does next. -/
noncomputable def groupDues (s : State) (g : Nat) (gr : Group) : List Due :=
  match gr.residency with
  | .killed cause who => dueIf (killDone s g) (.ev (.groupKill g cause who))
  | .saved => dueIf (endDue s g) (.ev (.groupEnd g)) ++ dueIf (stranded s g) (.strand g)
  | .resident =>
    dueIf (stranded s g) (.strand g) ++ dueIf (rewindDue s g) (.rewind g) ++ dueIf (liftDue s g) (.ev (.preemptRetry g)) ++
      (match gr.retryAt with | some t => if gr.cancelled then [] else [(t, Todo.ev (.preemptRetry g))] | none => []) ++
      dueIf (saveDue s g) (.ev (.contextSave g)) ++
      dueIf (stairDue s g && !(heldGroup s g && gr.cleared = some false)) (.stair g) ++ dueIf (endDue s g) (.ev (.groupEnd g))

/-- What a launch does next. -/
noncomputable def launchDues (s : State) (l : Nat) : List Due :=
  dueIf (ticketDue s l) (.ev (.stairTicketPass l)) ++ dueIf (startDue s l) (.ev (.launchStart l)) ++
    dueIf (completeDue s l) (.ev (.launchComplete l))

/-- A group waits for a place. -/
def someWaiting (s : State) : Bool :=
  (s.launches.any fun p => p.2.startTick.isSome && !p.2.todo.isEmpty) || s.groups.any fun p => p.2.residency = .saved

/-- The distributor's next act. -/
noncomputable def distributor (s : State) : List Due :=
  if !someWaiting s then []
  else
    match nextRatio s, nextPlace s with
    | some (.new l i, _), _ => [(0, .ev (.groupDispatch l i))]
    | some (.saved g, c), _ => [(0, .ev (.groupResume g c))]
    | none, some (.new l i, p) =>
      if dieOfCluster p.cluster = dieFor s l i then [(0, .ev (.groupDispatch l i))] else [(0, .ev (.groupSpill l i))]
    | none, some (.saved g, p) => [(0, .ev (.groupResume g p.cluster))]
    | none, none =>
      s.groups.flatMap fun p => dueIf (p.2.residency = .saved && !p.2.featWait && noCoreFor s p.1) (.ev (.groupResume p.1 p.2.cluster))

/-! ### Clusters, time, audits (spec/20, spec/21, spec/23) -/

/-- What a cluster does next. -/
noncomputable def clusterDues (s : State) (c : Nat) (x : Cluster) : List Due :=
  dueIf (slewAsks s c) (.ev (.slewAdmit c)) ++ dueIf (x.ratioReq.isSome && emptyCluster s c) (.ev (.ratioChange c)) ++
    dueIf (x.mhzReq.isSome && emptyCluster s c) (.ev (.clockChange c))

/-- An input says what a faulty core gave in an audit (log 45). -/
def auditInput (id : Nat) (i : Instr) : Bool :=
  match i with
  | .auditCompare a _ => a == id
  | .tiebreak a (some _) => a == id
  | _ => false

/-- The tick at which a replay that does not go on at a position diverges there (R406). -/
noncomputable def stallDues (s : State) (id g : Nat) : List Due :=
  (List.range 4).filterMap fun j =>
    match (replayLeft s g).filter fun k => rowOf k % 4 = j with
    | [] => none
    | k :: ks => some (ks.foldl (fun m x => max m (s.thr x).stood) (s.thr k).stood + 2 ^ 20, Todo.ev (.replayStall id j))

/-- What an audit does next (R405, R411). -/
noncomputable def auditDues (s : State) (id : Nat) (a : Audit) : List Due :=
  let faulty := s.inputs.any fun p => auditInput id p.2
  let stalls := stallDues s id
  match a.phase with
  | .waiting t =>
    if a.resident.isSome || (replayCluster s a).isSome then [(0, .ev (.replayDispatch id))] else [(t + 2 ^ 24, .ev (.replayTimeout id))]
  | .running g _ => dueIf (replayDone s g && !faulty) (.ev (.auditCompare id [])) ++ stalls g
  | .resting _ _ => []
  | .settling t left =>
    if left.head?.any fun m => (tiebreakCluster s a m).isSome then [(0, .ev (.tiebreak id none))] else [(t + 2 ^ 24, .ev (.tiebreak id none))]
  | .tied g _ _ => dueIf (replayDone s g && !faulty) (.ev (.tiebreak id none)) ++ stalls g

/-! ### The order of a tick -/

/-- All work in flight, in the order in which the work of one tick is done. -/
noncomputable def dues (s : State) : List Due :=
  dueIf (damperDue s) (.ev .damperInterval) ++ dueIf (compareDue s) (.ev .timeCompare) ++
    arrivals s ++ applications s ++ stepDues s ++ (s.pageOps.flatMap fun p => pageDues s p.1 p.2) ++ entryDues s ++
    reads s ++
    (s.rets.flatMap fun p => retDues s p.1 p.2) ++ (s.upds.flatMap fun p => updDues s p.1 p.2) ++
    (s.xfers.flatMap fun p => xferDues s p.1 p.2) ++ passDues s ++ linkDues s ++ grantDues s ++
    (s.pins.map fun p => (p.2.2 + 1, Todo.ev (.probePinExpiry p.1))) ++
    (s.hwbars.flatMap fun p => barDues s p.1 p.2) ++ allThreadDues s ++
    (s.groups.flatMap fun p => groupDues s p.1 p.2) ++ (s.launches.flatMap fun p => launchDues s p.1) ++ distributor s ++
    (s.clusters.flatMap fun p => clusterDues s p.1 p.2) ++ s.audits.flatMap fun p => auditDues s p.1 p.2

/-- The admissions of the slew limiter: they follow all else of their tick, so that the requests of one tick take their order (R359). -/
noncomputable def lateDues (s : State) : List Due := s.clusters.flatMap fun p => dueIf (slewTurn s p.1) (.ev (.slewAdmit p.1))

/-- The work that is due at this tick, the earliest first, and of one tick the first in order. -/
def firstDue (now : Nat) (ds : List Due) : Option Todo :=
  (ds.foldl (fun (b : Option Due) d =>
    if d.1 > now then b
    else match b with | none => some d | some c => if d.1 < c.1 then some d else some c) none).map (·.2)

/-! ### Inputs (log 6) -/

/-- An act from outside that must wait: a load for a line that the lehr holds, a store of the host for one before it, what a faulty core gave in a replay until
that has ended. -/
def inputHeld (s : State) (i : Instr) : Bool :=
  match i with
  | .hostLoad pa n => stackBytes s pa (max n 1) && heldBytes s pa (max n 1)
  | .domainAccess pa (.load n) => stackBytes s pa (max n 1) && heldBytes s pa (max n 1)
  | .hostStore _ _ => portBusy s
  | .auditCompare a _ => ((nfind s.audits a).bind Audit.runs).any fun g => !replayDone s g.1
  | .tiebreak a (some _) => ((nfind s.audits a).bind Audit.runs).any fun g => !replayDone s g.1
  | _ => false

/-- The next input, when it is due, and the state without it. No thread issues in it. -/
def nextInput (s : State) : Option (Instr × State) :=
  match s.inputs with
  | [] => none
  | (t, i) :: rest => if t ≤ s.now && !inputHeld s i then some (i, { s with inputs := rest, beat := {} }) else none

/-- What the service port and the supply may do while the device is not up (R428, R430). -/
def serviceInput (i : Instr) : Bool :=
  match i with
  | .status => true
  | .selftest => true
  | .ident _ => true
  | .fwstage _ => true
  | .sense => true
  | .spdmAttestation _ => true
  | .powerOn _ => true
  | .powerOff => true
  | _ => false

/-- While the device is not up only the service port and the supply act; anything else from outside is lost (R428). -/
def deadStep (s : State) : Host.Outcome State Fault Refusal :=
  match s.inputs with
  | [] => .fault (if s.service.powered then .safeState else .noPower)
  | (_, i) :: rest =>
    let s1 := { s with inputs := rest, beat := {} }
    if serviceInput i then exec i s1 else .next s1

/-! ### Time -/

/-- The tick, on die 0's copy, from which a thread that stands at TWAIT may go on (R222). -/
def twaitTick (s : State) (k : Nat) : Option Nat :=
  match look s k with
  | .word t w _ =>
    if opOf w = 0x9E then
      let f := unpack w
      let v := t.readT f.a.toNat
      if v.p || v.e then some (tickOn s (s.dieOf k) (v.tick - (t.x f.b.toNat).toNat)) else none
    else none
  | _ => none

/-- The ticks at which something may change: of work in flight, of inputs, of waits for a time, of the audit's and the distributor's limits,
of the slew limiter, of the interval boundaries that have work. -/
noncomputable def nextTicks (s : State) : List Nat :=
  let ds := (dues s).map (·.1)
  let gated := s.clusters.any fun p => p.2.gated
  ds ++ (if gated then
      ds.map (· - 80) ++ ds.map (· - 64) ++ s.admissions.map (· + 64) ++
        (s.rets.flatMap fun p => (p.2.due.toList ++ p.2.redue.map (·.2)).map fun f => tickOn s (dieOfCore p.2.core) (f - 80)) ++
        s.threads.filterMap fun p => (twaitTick s p.1).map (· - 80)
    else []) ++
    (match s.inputs with | (t, _) :: _ => [t] | [] => []) ++
    ((runningCores s).flatMap fun c => (coreThreads s c).filterMap (twaitTick s)) ++
    (s.launches.flatMap fun p => p.2.todo.filterMap fun i => (waitsSince s p.1 i).map (· + 4096)) ++
    (s.groups.filterMap fun p => if p.2.residency = .saved then some (p.2.savedAt + 4096) else none) ++
    (s.launches.flatMap fun p => (p.2.ended.toList ++ p.2.ticketFrom.toList).map (·.1 + 1)) ++
    (s.clusters.filterMap fun p =>
      if p.2.nextGrant.isSome || p.2.throttled || !p.2.used.isEmpty then
        some (tickOn s (dieOfCluster p.1) ((damperNow s p.1 + 1) * 1024)) else none) ++
    (if s.dies.any (fun p => timeOff p.2) then [(s.now / 1024 + 1) * 1024] else [])

/-- Whether a core that runs has threads that wait for its next slot. -/
def slotWaits (s : State) : Bool := (runningCores s).any fun c => coreBusy s c (s.curSlot c)

/-- Time passes: to the next tick while threads wait for a slot or nothing is in flight, else to the first tick at which something may
change. -/
noncomputable def passTime (s : State) : State :=
  if slotWaits s then { s with now := s.now + 1 }
  else
    match (nextTicks s).filter (s.now < ·) with
    | [] => { s with now := s.now + 1 }
    | t :: ts => { s with now := ts.foldl min t }

end Sys2Proof.Machine
end

