-- ==== Sys2Proof/Machine/Step.lean ====
section
/-! DEFINITION. One step of the device: an input that is due, else the first piece of work that is due at this tick, else a beat of the next
core that has a slot and threads for it, else an admission of the slew limiter, else time passes. And the state in which the next step issues a given word. -/

namespace Sys2Proof.Machine

/-- One step. -/
noncomputable def step (s : State) : Host.Outcome State Fault Refusal :=
  if !alive s then deadStep s
  else
    match nextInput s with
    | some (i, s1) => exec i s1
    | none =>
      match firstDue s.now (dues s) with
      | some t => runTodo t s
      | none =>
        match nextCore s with
        | some (c, n) => beatStep s c n
        | none =>
          match firstDue s.now (lateDues s) with
          | some t => runTodo t s
          | none => .next (passTime s)

/-! ### A word to run (log 30)

The device runs a program that the host submits as a launch record; a group of it is then dispatched. What follows stands for that load. -/

/-- The header of the block in which the word stands: one word long, every feature declared (Table 3.5). -/
def fetchHeader : Code := 0xFF00400000003E00

/-- The thread that meets the word, in user mode or in system mode. -/
def fetchThread (sys : Bool) : Thread := { sys := sys }

/-- The kernel: one row, 512 registers, 16 time registers, every feature. -/
def fetchKernel : Kernel := { extent := 2, regs := 512, feat := 31 }

/-- The launch: its code begins 64 bytes above address 0. -/
def fetchLaunch (sys : Bool) : Launch :=
  { system := sys, kernel := fetchKernel, startTick := some 0, open_ := 1 }

/-- The root table of tenant 0, its level-3 table, and the page of 1 GiB that holds the code at its byte 64. -/
def fetchRoot : Nat := 0x100000
def fetchTable : Nat := 0x200000
def fetchPage : Nat := 0x40000000

/-- An entry that names a table (state 6), and a leaf of 1 GiB (state 0, size 4). -/
def fetchRootEntry : Nat := 2 ^ 63 + 6 * 2 ^ 60 + fetchTable
def fetchLeaf : Nat := 2 ^ 63 + 4 * 2 ^ 57 + fetchPage

/-- Tables and code in memory. -/
def fetchMem (s : State) (w : Nat) : State :=
  wrBytes (wrBytes (wrBytes s fetchRoot (bytesOfNat fetchRootEntry 8)) fetchTable (bytesOfNat fetchLeaf 8)) (fetchPage + 64)
    (bytesOfNat fetchHeader.toNat 8 ++ bytesOfNat w 8)

/-- One thread of one group stands before the word; a privileged word stands in the system extent. Nothing else is in flight. -/
def State.withFetchWord (s : State) (nbits w : Nat) : State :=
  let v := w % 2 ^ min nbits 64
  let op := v / 2 ^ 56
  let sys := 0xF0 ≤ op && op < 0xFF
  let m := fetchMem s v
  { m with
    threads := [(2048, fetchThread sys)]
    groups := [(1, { launch := 0, index := 0, cluster := 0, slots := [0] })]
    launches := [(0, fetchLaunch sys)]
    tenants := nset m.tenants 0 { root := fetchRoot }
    csrs := if sys then { m.csrs with sextl := 64, sexth := 0, sextn := 2, stvec := 0 } else m.csrs
    cores := [], clusters := [], rets := [], upds := [], xfers := [], pageOps := [], hwbars := [], audits := [], pins := []
    graphs := [], phases := [], jobs := [], inputs := [], delays := []
    dies := m.dies.map fun p => (p.1, { p.2 with ahead := 0, behind := 0 })
    service := { m.service with stage := 6, safe := 0, powered := true } }

end Sys2Proof.Machine
end

