-- ==== Sys2Proof/Safety.lean ====
section
/-! DEFINITION. The terms in which claims are made: a thread that is about to execute a word, what it is to have executed it, and what every
step keeps. -/

namespace Sys2Proof.Machine

/-- Thread `k` alone is to issue a word with opcode `op` and fields `f`, and executes it: it runs, its operands are there (R98), no trap of
R377 is due at the word, and its guard passes (R62). It is a thread of a launch, not of an audit's replay, whose words `replayTurn` executes (R406). -/
abbrev Alone (s : State) (k op : Nat) (f : Fields) : Prop :=
  replaying s k = false ∧ s.beat.threads = [k] ∧ mayRun s k = true ∧ trapDue s k op f = none ∧ operandsReady s k op f = true ∧ guardPasses (s.thr k) f = true

/-- The same of several threads of a beat, each of which executes the word. -/
abbrev Together (s : State) (ks : List Nat) (op : Nat) (f : Fields) : Prop :=
  s.beat.threads = ks ∧ ks.Nodup ∧
    ∀ k ∈ ks, replaying s k = false ∧ mayRun s k = true ∧ trapDue s k op f = none ∧ operandsReady s k op f = true ∧ guardPasses (s.thr k) f = true

/-- Thread `k` goes on from `s` after a word whose effect is `s'`: to the next word of its beat, its entry in an audited group's log made
(R404), and its row's generator stepped when the word draws from it (R166). -/
def wentOn (op : Nat) (f : Fields) (s : State) (k : Nat) (s' : State) : State :=
  stepRows op f [k] (noteWord op f s k none (advance s' k))

/-- Thread `k` has gone to a block start after a word whose effect is `s'` (R84). -/
def wentTo (op : Nat) (f : Fields) (s : State) (k h : Nat) (s' : State) : State := noteWord op f s k (some h) (debugStop (arrive s' k h) k)

/-- x[r] of thread `k` receives a word. -/
def put1 (s : State) (k r : Nat) (v : Word) : State := s.modThr k fun t => t.wr r v

/-- d[r] of thread `k` receives a double. -/
def put2 (s : State) (k r : Nat) (v : Double) : State := s.modThr k fun t => t.wrd r v

/-- Bit b of x[r] of thread `k` receives a value, its other bits kept. -/
def putBit (s : State) (k r b : Nat) (v : Bool) : State := s.modThr k fun t => t.wrBit r b v

/-- A word that thread `k` executes alone has the effect `s'`, and the thread goes on. -/
abbrev Does (op : Nat) (f : Fields) (k : Nat) (s : State) (o : Host.Outcome State Fault Refusal) (s' : State) : Prop :=
  Alone s k op f → o = .next (wentOn op f s k s')

/-- Nothing but thread `k` differs. -/
def SameBut (k : Nat) (s t : State) : Prop :=
  (∀ j, j ≠ k → nfind t.threads j = nfind s.threads j) ∧ t = { s with threads := t.threads }

/-- Every byte of memory reads the same. -/
def SameMemory (s t : State) : Prop := ∀ a, Memory.read t.mem a = Memory.read s.mem a

/-- Every byte outside `n` bytes at `a` reads the same. -/
def SameMemoryBut (a n : Nat) (s t : State) : Prop :=
  ∀ b, b < a ∨ a + n ≤ b → Memory.read t.mem b = Memory.read s.mem b

/-- Every byte outside a table entry and outside the frame counts (R386) reads the same. -/
def SameMemoryButEntry (e : Nat) (s t : State) : Prop :=
  ∀ b, b < e ∨ e + 8 ≤ b → inCounts b 1 = false → Memory.read t.mem b = Memory.read s.mem b

/-- The threads `ks` have received words in x[d], and nothing else of any thread's registers, time registers, mode or status differs, nor any byte
of memory. -/
def RowResult (s t : State) (ks : List Nat) (d : Nat) (v : Nat → Word) : Prop :=
  (∀ j ∈ ks, d ≠ 0 → (t.thr j).x d = v j) ∧ (∀ j r, j ∉ ks ∨ r ≠ d → (t.thr j).x r = (s.thr j).x r) ∧
    (∀ j, (t.thr j).treg = (s.thr j).treg ∧ (t.thr j).mode = (s.thr j).mode ∧ (t.thr j).status = (s.thr j).status) ∧ SameMemory s t

/-- The same of a pair of registers. -/
def RowPairResult (s t : State) (ks : List Nat) (d : Nat) (v : Nat → Double) : Prop :=
  (∀ j ∈ ks, d ≠ 0 → (t.thr j).d d = v j) ∧ (∀ j r, j ∉ ks ∨ (r ≠ d ∧ r ≠ d + 1) → (t.thr j).x r = (s.thr j).x r) ∧
    (∀ j, (t.thr j).treg = (s.thr j).treg ∧ (t.thr j).mode = (s.thr j).mode ∧ (t.thr j).status = (s.thr j).status) ∧ SameMemory s t

/-- What every step keeps: memory is in its canonical form. -/
def Inv (s : State) : Prop := Memory.wf s.mem = true

/-- The device is up in a state and in the next: neither lost its power nor its work. -/
def StaysUp (s t : State) : Prop := alive s = true ∧ alive t = true

end Sys2Proof.Machine
end

