-- ==== Sys2Proof/Certificates/Slice0/Obligations.lean ====
section
/-! DEFINITION. The statements of this row for the provers. Each says of which rules of spec/ it speaks. -/

open Sys2Proof Sys2Proof.Machine

/-! ### Decoding, stepping, and what every step keeps -/

/-- When no input and no other work is due, and the threads chosen for the next core's slot stand at one word, the step is `exec` of the
instruction that the word decodes to, in the state in which the slot is used, those threads have entered their block, and the word stands in the
core's instruction cache; at a pair it is that of
the first word's and then of the second's. An input that is due, or a step of the device, is run by itself (R82, R98, R99, R75). The model's own choices that it rests on: log 74, 75, 91. -/
def Obligations.StepRunsDecoded : Prop :=
  (∀ (s t u : State) (core n : Nat) (k : Nat) (ks : List Nat) (w : Code) (i : Instr),
    alive s = true → nextInput s = none → firstDue s.now (dues s) = none → nextCore s = some (core, n) →
    entered s core n = (t, k :: ks) → (t.thr k).atHeader = false → (t.thr k).seek = false → fetch t k (t.thr k).pc = some w →
    pairBit w = false → decodeWord w = .ok i → u = t.withBeat core (k :: ks) 1 [] →
    step s = exec i u) ∧
  (∀ (s t : State) (core n : Nat) (k : Nat) (ks : List Nat) (w v : Code) (i j : Instr),
    alive s = true → nextInput s = none → firstDue s.now (dues s) = none → nextCore s = some (core, n) →
    entered s core n = (t, k :: ks) → (t.thr k).atHeader = false → (t.thr k).seek = false → fetch t k (t.thr k).pc = some w →
    fetch t k ((t.thr k).pc + 1) = some v → pairBit w = true → isHeader v = false →
    (t.thr k).pc < (t.thr k).hdr + hdrLen (t.thr k).hdrWord → decodeWord w = .ok i → decodeWord v = .ok j →
    step s = andThen (exec i (t.withBeat core (k :: ks) 0 (preMap t (k :: ks)))) fun t1 =>
      exec j (t1.withBeat core ((k :: ks).filter fun k => (nfind t1.threads k).isSome) 2 (preMap t (k :: ks)))) ∧
  (∀ (s t : State) (i : Instr), alive s = true → nextInput s = some (i, t) → step s = exec i t) ∧
  ∀ (s : State) (i : Instr), alive s = true → nextInput s = none → firstDue s.now (dues s) = some (.ev i) → step s = exec i s

/-- Decoding the encoding of any well-formed instruction gives it back, as a word and as bytes before any others. -/
def Obligations.DecodeEncode : Prop :=
  ∀ (i : Instr) (op : Nat) (f : Fields) (rest : List Byte), i.code = some (op, f) → i.WellFormed →
    decodeWord (encode i) = .ok i ∧ decode (bytesOfWord (encode i) ++ rest) = .ok (i, rest)

/-- A word that decodes to an instruction is that instruction's encoding, and the instruction is well formed: no two words are one
instruction. -/
def Obligations.EncodeDecode : Prop :=
  ∀ (w : Code) (i : Instr), decodeWord w = .ok i → encode i = w ∧ i.WellFormed

/-- A header word is never an instruction (R77), and one word of several families decodes to what the spec's worked encoding says of it (R97,
R115, R142, R324). -/
def Obligations.WordsDecode : Prop :=
  (∀ w : Code, opOf w = 0xFF → decodeWord w = .error .header) ∧
  (decodeWord 0x0D00000070600000 = .ok (.setmode { d := 0, a := 0, b := 3, c := 262, k := 0, p := 0, m := 0, gr := 0, gb := 0, gs := 0 })) ∧
  (decodeWord 0x250A850040068000 = .ok (.shl { d := 21, a := 20, b := 2, c := 0, k := 1, p := 1, m := 1, gr := 0, gb := 0, gs := 0 })) ∧
  (decodeWord 0x4714024154500000 = .ok (.fcmp { d := 40, a := 9, b := 10, c := 0x145, k := 0, p := 0, m := 0, gr := 0, gb := 0, gs := 0 })) ∧
  (decodeWord 0xDF00000000300000 = .ok (.mprio { d := 0, a := 0, b := 0, c := 3, k := 0, p := 0, m := 0, gr := 0, gb := 0, gs := 0 }))

/-- Memory stays in its canonical form over every step. -/
def Obligations.StepKeepsMemoryForm : Prop :=
  ∀ s t : State, Inv s → step s = .next t → Inv t

/-- Device time never runs backward over a step while the device stays up (R25). -/
def Obligations.TimeNeverDecreases : Prop :=
  ∀ s t : State, StaysUp s t → step s = .next t → s.now ≤ t.now

/-- Reset: memory is in its form, device time is 0, every device-wide CSR holds the value of Table 21.2, no core is on the cullet list, and
every score is 0 (R24, R373, R410). DIEMASK and FMASK are those of a bring-up in which nothing failed, the model's choice (log 116).
The model's own choices that it rests on: log 1, 116. -/
def Obligations.ResetState : Prop :=
  Inv State.reset ∧ State.reset.now = 0 ∧
  State.reset.csrs = { devid := 0xB0160001, diemask := 0xFFFF, sextl := 0, sexth := 0, sextn := 0, stvec := 0, tbasel := 0, tbaseh := 0,
                       precap := 8, audctl := 0x10, tnsel := 0, mclost := 0 } ∧
  (∀ c, (State.reset.core c).fmask = 0x11F ∧ (State.reset.core c).halted = false ∧ (State.reset.core c).dbgen = false ∧
    (State.reset.core c).cullet = false ∧ (State.reset.core c).score = 0 ∧ (State.reset.core c).passed = 0 ∧
    (State.reset.core c).report = false) ∧
  State.reset.threads = [] ∧ State.reset.launches = []

/-! ### Guards, registers, traps -/

/-- A thread whose guard fails does nothing with any word but go on to the next, where the word could issue in it: of a row word whose row has
no active thread the group still logs the active set, with 4 bytes (R62, R183, Table 23.1). -/
def Obligations.GuardFails : Prop :=
  ∀ (s : State) (k op : Nat) (f : Fields) (i : Instr), i.code = some (op, f) → s.beat.threads = [k] → mayRun s k = true →
    guardPasses (s.thr k) f = false → trapDue s k op f = none → operandsReady s k op f = true →
    (op / 16 ≠ 8 → exec i s = .next (advance s k)) ∧
    (op / 16 = 8 → exec i s =
      .next (if replaying (advance s k) (k / 32 * 32) then advance s k else logBytes (advance s k) (gidOf (k / 32 * 32)) 4))

/-- x0 reads as zero whatever the thread holds, and a write to it changes nothing; another register reads as written, and no other register
changes (R63). -/
def Obligations.RegisterReadWrite : Prop :=
  ∀ (t : Thread) (r j : Nat) (v : Word),
    t.x 0 = 0 ∧ t.wr 0 v = t ∧ (r ≠ 0 → (t.wr r v).x r = v) ∧ (j ≠ r → (t.wr r v).x j = t.x j) ∧
    (r ≠ 0 → (t.wr r v).cap (r / 4 * 4) = { (t.wr r v).cap (r / 4 * 4) with tag := false })

/-- Going on, to the next word or to a block start, changes the thread alone, and of it neither register, time register, mode, status nor
counter; in a group that is cancelled, a thread that meets a block start ends, and what is in flight to it is marked (R84, R85, R32). The
model's own choices that it rests on: log 51. -/
def Obligations.GoingOnFrame : Prop :=
  (∀ (s : State) (k n : Nat) (th : Thread), (s.grpOf k).cancelled = true → nfind s.threads k = some th →
    ∀ t, (t = arrive s k n ∨ n ≠ 0 ∧ th.hdr + hdrLen th.hdrWord < th.pc + n ∧ t = advanceBy s k n) →
      (t.thr k).life = .exited ∧ (t.thr k).pend = [] ∧ (t.thr k).wait = .none ∧ (t.thr k).regs = th.regs ∧
      (∀ id r, nfind t.rets id = some r → r.th = k → r.discard = true) ∧ SameMemory s t ∧ t.upds = s.upds ∧
      ∀ j, j ≠ k → nfind t.threads j = nfind s.threads j) ∧
  ∀ (s : State) (k n : Nat), (s.grpOf k).cancelled = false →
    SameBut k s (advanceBy s k n) ∧ SameBut k s (arrive s k n) ∧
    ∀ t, (t = advanceBy s k n ∨ t = arrive s k n) →
      (t.thr k).regs = (s.thr k).regs ∧ (t.thr k).tags = (s.thr k).tags ∧ (t.thr k).poison = (s.thr k).poison ∧
      (t.thr k).pend = (s.thr k).pend ∧ (t.thr k).treg = (s.thr k).treg ∧ (t.thr k).bound = (s.thr k).bound ∧
      (t.thr k).mode = (s.thr k).mode ∧ (t.thr k).status = (s.thr k).status ∧ (t.thr k).late = (s.thr k).late ∧
      (t.thr k).sys = (s.thr k).sys ∧ (t.thr k).loads = (s.thr k).loads ∧ (t.thr k).stores = (s.thr k).stores ∧
      (t.thr k).copies = (s.thr k).copies ∧ (t.thr k).passes = (s.thr k).passes

/-- A user-mode thread that meets a word with an opcode of 0xF0 to 0xFE and no earlier trap takes the privilege fault, and the word does nothing:
the state that the delivery leaves is that of the trap alone (R361, R377). -/
def Obligations.PrivilegeFault : Prop :=
  ∀ (s : State) (k : Nat) (f : Fields), s.beat.threads = [k] → mayRun s k = true → (s.thr k).sys = false → (s.thr k).pend = [] →
    asyncDue (s.thr k) = none →
    ∀ p : (Fields → Instr) × Nat,
      p ∈ [(.sret, 0xF0), (.csrr, 0xF1), (.csrw, 0xF2), (.tlbinvAll, 0xF3), (.tlbinvPage, 0xF3), (.ctxsv, 0xF4), (.ctxld, 0xF5),
           (.quarAdd, 0xF6), (.quarRem, 0xF6), (.quarGet, 0xF6), (.audcfgSet, 0xF7), (.audcfgGet, 0xF7), (.corhalt, 0xF8),
           (.corwake, 0xF9), (.pwrgateGate, 0xFA), (.pwrgateWake, 0xFA), (.mcreadLo, 0xFB), (.mcreadHi, 0xFB), (.mcreadPop, 0xFB),
           (.pteset, 0xFC), (.idle, 0xFD), (.dbgstepStep, 0xFE), (.dbgstepRun, 0xFE)] →
      causeOf s k p.2 f = 0 →
      exec (p.1 f) s = .next (deliver s k
        (if (s.thr k).atHeader = false ∧ hdrIdem (s.thr k).hdrWord = true then (s.thr k).hdr else (s.thr k).pc) 3 0 false 0 0)

/-- Delivery of a trap (R375): in user mode, with a system extent and a slot that is mapped, the context image is written to the thread's slot;
the handler starts in system mode at STVEC with CAUSE, VAL and ADDR in x1 to x3 and the slot's capability in q1, every other register zero
and every time register clear; outside the slot memory reads as before; what is outstanding stays live; the refusal record and the pending traps stand in
the image. In system mode, or with SEXTN = 0, the group is killed (R378); a thread of a replay
diverges instead (R406). The model's own choices that it rests on: log 16, 17, 90. -/
def Obligations.TrapDelivery : Prop :=
  ∀ (s : State) (k pc cause sub : Nat) (second : Bool) (val addr : Nat), (∃ t, nfind s.threads k = some t) →
    (replaying s k = true → deliver s k pc cause sub second val addr = diverge s k) ∧
    (replaying s k = false → ((s.thr k).sys = true ∨ s.csrs.sextn = 0) → deliver s k pc cause sub second val addr = killGroup s (gidOf k) 16 (s.thr k).owner) ∧
    ∀ key, replaying s k = false → (s.thr k).sys = false → s.csrs.sextn ≠ 0 →
      keyNow s (s.lchOf k).tenant (trapSlot s (s.thr k)) = some key →
      let t := deliver s k pc cause sub second val addr
      let cw : Word := BitVec.ofNat 32 (cause % 64 * 2 ^ 26 + sub % 64 * 2 ^ 20 + second.toNat * 2 ^ 19)
      rdBytes t key 2320 = bytesOfWords (imageWords (s.thr k) (statusOf s k (s.thr k).status) (s.kernOf k).regs pc cw val addr) ∧ SameMemoryBut key 2320 s t ∧
      (t.thr k).sys = true ∧ (t.thr k).pc = s.csrs.stvec.toNat ∧ (t.thr k).atHeader = true ∧
      (t.thr k).x 1 = cw ∧ (t.thr k).x 2 = BitVec.ofNat 32 val ∧ (t.thr k).x 3 = BitVec.ofNat 32 addr ∧
      (t.thr k).cap 4 = slotCap (trapSlot s (s.thr k)) ∧ (∀ r, 8 ≤ r → (t.thr k).x r = 0) ∧ (∀ i, (t.thr k).t i = {}) ∧
      (t.thr k).loads = (s.thr k).loads ∧ (t.thr k).stores = (s.thr k).stores ∧ (t.thr k).copies = (s.thr k).copies ∧
      (t.thr k).passes = (s.thr k).passes ∧ (t.thr k).status = (s.thr k).status ∧ (t.thr k).owner = (s.thr k).owner ∧
      (t.thr k).latch = (s.thr k).latch ∧ (t.thr k).refusal = none ∧ (t.thr k).pendLate = false ∧ (t.thr k).pendThrStart = false ∧
      (t.thr k).pendThrEnd = false ∧ (t.thr k).mode = (s.thr k).mode &&& 0x100 ∧
      ∀ j, j ≠ k → nfind t.threads j = nfind s.threads j

/-! ### Class 0x0 (spec/04) -/

/-- NOP does nothing but go on; SETMODE writes the mode bits under its mask and keeps the others; GETMODE reads the mode register; YIELD
makes its thread not ready in the core's next 8 slots; BKPT stops its thread where its core's DBGEN is set, else it does nothing (R88, R92, R95,
R96, R97).

PARK, SLEEP and IDLE: a tick at most 16 ahead lets the thread go on; a later one parks it at its word until then (R93, R263, R371).

EXIT ends its thread: it is not live, and what is in flight to it is discarded (R94). TRAP delivers the user trap with its code as VAL, the
saved pc after the word (R95). -/
def Obligations.ControlWords : Prop :=
  (∀ (s : State) (k : Nat) (f : Fields),
    Does 0x00 f k s (exec (.nop f) s) s ∧
    Does 0x0D f k s (exec (.setmode f) s) (s.modThr k fun t => { t with mode :=
      (t.mode &&& ~~~(BitVec.ofNat 32 (f.imm18.toNat / 256 % 16))) |||
        (BitVec.ofNat 32 (f.imm18.toNat % 16) &&& BitVec.ofNat 32 (f.imm18.toNat / 256 % 16)) }) ∧
    Does 0x0E f k s (exec (.getmode f) s) (put1 s k f.d.toNat (s.thr k).mode) ∧
    Does 0x08 f k s (exec (.yield f) s) (s.modThr k fun t => { t with yieldBar := s.curSlot (s.coreOf k) + 8 }) ∧
    ((s.core (s.coreOf k)).dbgen = true → Does 0x0C f k s (exec (.bkpt f) s) (s.modThr k fun t => { t with life := .stopped })) ∧
    ((s.core (s.coreOf k)).dbgen = false → Does 0x0C f k s (exec (.bkpt f) s) s)) ∧
  (∀ (s : State) (k w : Nat) (f : Fields),
    let t := s.thr k
    (w = (t.d f.a.toNat).toNat % 2 ^ 60 →
      (w ≤ s.nowOf k + 16 → Does 0x09 f k s (exec (.park f) s) s ∧ Does 0xFD f k s (exec (.idle f) s) s) ∧
      (s.nowOf k + 16 < w →
        (Alone s k 0x09 f → exec (.park f) s = .next (s.modThr k fun t => { t with wait := .park w })) ∧
        (Alone s k 0xFD f → exec (.idle f) s = .next (s.modThr k fun t => { t with wait := .idle w })))) ∧
    (w = s.nowOf k + (t.x f.a.toNat).toNat →
      ((t.x f.a.toNat).toNat ≤ 16 → Does 0xBC f k s (exec (.sleep f) s) s) ∧
      (16 < (t.x f.a.toNat).toNat → Alone s k 0xBC f → exec (.sleep f) s = .next (s.modThr k fun t => { t with wait := .tick w })))) ∧
  (∀ (s : State) (k : Nat) (f : Fields),
    (Alone s k 0x0A f → ∃ t, exec (.exit f) s = .next t ∧ (t.thr k).life = .exited ∧ (t.thr k).pend = [] ∧
      (∀ id r, nfind t.rets id = some r → r.th = k → r.discard = true) ∧ SameMemory s t) ∧
    (Alone s k 0x0B f → ((s.thr k).pend = [] ∨ (s.thr k).sys = true) →
      exec (.trap f) s = .next (debugStop (deliver s k ((s.thr k).pc + 1) 10 0 false f.imm27.toNat 0) k)))

/-- A transfer of control to a block start goes there, a call's register written; one to any other index is the bad-target fault, with no
effect (R89, R90).

LOOPN: a count of 0 falls through unwritten; a count of 1 is written 0 and falls through; any other is written one less and the thread
goes to its target, or takes the bad-target fault with the count as it was (R89). BRT.LATE and BRT.DUE compare their time register with
device time and the threshold; in deterministic mode the first is never taken and the second always (R91). -/
def Obligations.Branches : Prop :=
  (∀ (s : State) (k n : Nat) (f : Fields),
    let t := s.thr k
    let jump : Int := (t.pc : Int) + f.imm27.toInt
    let called := put1 s k f.d.toNat (BitVec.ofNat 32 (t.hdr + hdrLen t.hdrWord + 1))
    (isBlockStart s k n = true →
      (jump = n → Alone s k 0x01 f → exec (.bra f) s = .next (wentTo 0x01 f s k n s)) ∧
      ((t.x f.a.toNat).toNat = n → Alone s k 0x02 f → exec (.brx f) s = .next (wentTo 0x02 f s k n s)) ∧
      (jump = n → Alone s k 0x03 f → exec (.call f) s = .next (wentTo 0x03 f s k n called)) ∧
      ((t.x f.a.toNat).toNat = n → Alone s k 0x04 f → exec (.callx f) s = .next (wentTo 0x04 f s k n called)) ∧
      ((t.x f.a.toNat).toNat = n → Alone s k 0x05 f → exec (.ret f) s = .next (wentTo 0x05 f s k n s))) ∧
    ((jump < 0 ∨ isBlockStart s k jump.toNat = false) →
      (Alone s k 0x01 f → exec (.bra f) s = .next (takeFlt s k { cause := 1, sub := 6 })) ∧
      (Alone s k 0x03 f → exec (.call f) s = .next (takeFlt s k { cause := 1, sub := 6 }))) ∧
    (isBlockStart s k (t.x f.a.toNat).toNat = false →
      (Alone s k 0x02 f → exec (.brx f) s = .next (takeFlt s k { cause := 1, sub := 6 })) ∧
      (Alone s k 0x04 f → exec (.callx f) s = .next (takeFlt s k { cause := 1, sub := 6 })) ∧
      (Alone s k 0x05 f → exec (.ret f) s = .next (takeFlt s k { cause := 1, sub := 6 })))) ∧
  (∀ (s : State) (k n : Nat) (f : Fields),
    let t := s.thr k
    let x := t.x f.d.toNat
    let due := decide ((t.readT f.tTime).tick ≤ s.nowOf k + x.toNat)
    (x = 0 → Does 0x0F f k s (exec (.loopn f) s) s) ∧
    (x = 1 → Does 0x0F f k s (exec (.loopn f) s) (put1 s k f.d.toNat 0)) ∧
    (2 ≤ x.toNat → (t.pc : Int) + f.imm27.toInt = n →
      (isBlockStart s k n = true → Alone s k 0x0F f → exec (.loopn f) s = .next (wentTo 0x0F f s k n (put1 s k f.d.toNat (x - 1)))) ∧
      (isBlockStart s k n = false → Alone s k 0x0F f → exec (.loopn f) s = .next (takeFlt s k { cause := 1, sub := 6 }))) ∧
    (2 ≤ x.toNat → (t.pc : Int) + f.imm27.toInt < 0 → Alone s k 0x0F f →
      exec (.loopn f) s = .next (takeFlt s k { cause := 1, sub := 6 })) ∧
    ((s.det k = true ∨ due = true) → Does 0x06 f k s (exec (.brtLate f) s) s) ∧
    (s.det k = false → due = false → Does 0x07 f k s (exec (.brtDue f) s) s) ∧
    ((t.pc : Int) + f.off23.toInt = n → isBlockStart s k n = true →
      (s.det k = false → due = false → Alone s k 0x06 f → exec (.brtLate f) s = .next (wentTo 0x06 f s k n s)) ∧
      ((s.det k = true ∨ due = true) → Alone s k 0x07 f → exec (.brtDue f) s = .next (wentTo 0x07 f s k n s))) ∧
    (((t.pc : Int) + f.off23.toInt < 0 ∨ isBlockStart s k ((t.pc : Int) + f.off23.toInt).toNat = false) →
      (s.det k = false → due = false → Alone s k 0x06 f → exec (.brtLate f) s = .next (takeFlt s k { cause := 1, sub := 6 })) ∧
      ((s.det k = true ∨ due = true) → Alone s k 0x07 f → exec (.brtDue f) s = .next (takeFlt s k { cause := 1, sub := 6 }))))

/-! ### Classes 0x1 to 0x3 (spec/05) -/

/-- The arithmetic of class 0x1, each result an exact one taken modulo 2^32 or 2^64 (R111), saturated (R112), or truncated toward zero, with
the fixed results of a zero divisor, which sets DZ, and of the one overflow (R113). -/
def Obligations.IntegerArithmetic : Prop :=
  ∀ (s : State) (k : Nat) (f : Fields),
    let t := s.thr k
    let d := f.d.toNat
    let a := t.x f.a.toNat
    let b := t.x f.b.toNat
    let c := t.x f.c.toNat
    Does 0x10 f k s (exec (.add f) s) (put1 s k d (BitVec.ofNat 32 (a.toNat + b.toNat))) ∧
    Does 0x11 f k s (exec (.addi f) s) (put1 s k d (BitVec.ofInt 32 (a.toInt + f.imm18.toInt))) ∧
    Does 0x12 f k s (exec (.sub f) s) (put1 s k d (BitVec.ofInt 32 (a.toInt - b.toInt))) ∧
    Does 0x13 f k s (exec (.mul f) s) (put1 s k d (BitVec.ofNat 32 (a.toNat * b.toNat))) ∧
    Does 0x14 f k s (exec (.mulhiS32 f) s) (put1 s k d (BitVec.ofInt 32 (a.toInt * b.toInt / 2 ^ 32))) ∧
    Does 0x15 f k s (exec (.mulhiN32 f) s) (put1 s k d (BitVec.ofNat 32 (a.toNat * b.toNat / 2 ^ 32))) ∧
    Does 0x16 f k s (exec (.mad f) s) (put1 s k d (BitVec.ofNat 32 (a.toNat * b.toNat + c.toNat))) ∧
    Does 0x17 f k s (exec (.madwS32 f) s) (put2 s k d (BitVec.ofInt 64 (a.toInt * b.toInt + (t.d f.c.toNat).toInt))) ∧
    Does 0x18 f k s (exec (.madwN32 f) s) (put2 s k d (BitVec.ofNat 64 (a.toNat * b.toNat + (t.d f.c.toNat).toNat))) ∧
    Does 0x19 f k s (exec (.minS32 f) s) (put1 s k d (BitVec.ofInt 32 (min a.toInt b.toInt))) ∧
    Does 0x1A f k s (exec (.maxS32 f) s) (put1 s k d (BitVec.ofInt 32 (max a.toInt b.toInt))) ∧
    Does 0x1B f k s (exec (.minN32 f) s) (put1 s k d (BitVec.ofNat 32 (min a.toNat b.toNat))) ∧
    Does 0x1C f k s (exec (.maxN32 f) s) (put1 s k d (BitVec.ofNat 32 (max a.toNat b.toNat))) ∧
    Does 0x1D f k s (exec (.addminS32 f) s)
      (put1 s k d (BitVec.ofInt 32 (min (max (-2 ^ 31) (min (a.toInt + b.toInt) (2 ^ 31 - 1))) c.toInt))) ∧
    (b ≠ 0 →
      Does 0x1E f k s (exec (.divS32 f) s) (put1 s k d (BitVec.ofInt 32 (a.toInt.tdiv b.toInt))) ∧
      Does 0x1F f k s (exec (.divN32 f) s) (put1 s k d (BitVec.ofNat 32 (a.toNat / b.toNat)))) ∧
    (b = 0 →
      Does 0x1E f k s (exec (.divS32 f) s)
        ((put1 s k d (if 0 ≤ a.toInt then 0x7FFFFFFF else 0x80000000)).modThr k fun t => { t with status := t.status ||| 2 }) ∧
      Does 0x1F f k s (exec (.divN32 f) s)
        ((put1 s k d 0xFFFFFFFF).modThr k fun t => { t with status := t.status ||| 2 }))

/-- The logic and the shifts of class 0x2: a count is x[B] or the B field and is never reduced, but by ROTL; a shift by 32 or more gives 0, or
the sign (R114, R115). -/
def Obligations.IntegerLogic : Prop :=
  ∀ (s : State) (k n : Nat) (f : Fields),
    let t := s.thr k
    let d := f.d.toNat
    let a := t.x f.a.toNat
    let b := t.x f.b.toNat
    let c := t.x f.c.toNat
    Does 0x20 f k s (exec (.and f) s) (put1 s k d (a &&& b)) ∧
    Does 0x21 f k s (exec (.or f) s) (put1 s k d (a ||| b)) ∧
    Does 0x22 f k s (exec (.xor f) s) (put1 s k d (a ^^^ b)) ∧
    Does 0x23 f k s (exec (.andn f) s) (put1 s k d (a &&& ~~~b)) ∧
    (f.m = 0 → Does 0x24 f k s (exec (.logi f) s) (put1 s k d (a &&& f.imm18.signExtend 32))) ∧
    (f.m = 1 → Does 0x24 f k s (exec (.logi f) s) (put1 s k d (a ||| f.imm18.signExtend 32))) ∧
    (f.m = 2 → Does 0x24 f k s (exec (.logi f) s) (put1 s k d (a ^^^ f.imm18.signExtend 32))) ∧
    (f.m = 3 → Does 0x24 f k s (exec (.logi f) s) (put1 s k d (a &&& ~~~(f.imm18.signExtend 32)))) ∧
    ((f.m = 0 ∧ n = b.toNat ∨ f.m = 1 ∧ n = f.b.toNat) →
      Does 0x25 f k s (exec (.shl f) s) (put1 s k d (BitVec.ofNat 32 (a.toNat * 2 ^ n))) ∧
      Does 0x26 f k s (exec (.shrN32 f) s) (put1 s k d (BitVec.ofNat 32 (a.toNat / 2 ^ n))) ∧
      Does 0x27 f k s (exec (.shrS32 f) s) (put1 s k d (BitVec.ofInt 32 (a.toInt / 2 ^ n))) ∧
      Does 0x28 f k s (exec (.rotl f) s) (put1 s k d (BitVec.ofNat 32 (a.toNat * 2 ^ (n % 32) + a.toNat / 2 ^ (32 - n % 32)))) ∧
      Does 0x32 f k s (exec (.shl64 f) s) (put2 s k d (BitVec.ofNat 64 ((t.d f.a.toNat).toNat * 2 ^ n))) ∧
      Does 0x33 f k s (exec (.shr64 f) s) (put2 s k d (BitVec.ofNat 64 ((t.d f.a.toNat).toNat / 2 ^ n)))) ∧
    Does 0x2D f k s (exec (.sel f) s) (put1 s k d ((a &&& c) ||| (b &&& ~~~c))) ∧
    Does 0x30 f k s (exec (.add64 f) s) (put2 s k d (t.d f.a.toNat + t.d f.b.toNat)) ∧
    Does 0x31 f k s (exec (.sub64 f) s) (put2 s k d (t.d f.a.toNat - t.d f.b.toNat)) ∧
    Does 0x34 f k s (exec (.movi f) s) (put1 s k d (BitVec.ofInt 32 f.imm27.toInt)) ∧
    Does 0x35 f k s (exec (.movh f) s) (put1 s k d (BitVec.ofNat 32 (f.imm18.toNat % 2 ^ 16 * 2 ^ 16 + a.toNat % 2 ^ 16))) ∧
    Does 0x36 f k s (exec (.mov f) s) (put1 s k d a)

/-- Counts of bits and bit fields: POPC and POPC.64 count the ones, CLZ and CLZ.64 the zeros above the highest one; BFX brings the field at pos to
the bottom, 0 or sign above it; BFI puts it there (R114, R116, R180). -/
def Obligations.BitFields : Prop :=
  ∀ (s : State) (k pos width : Nat) (f : Fields),
    let t := s.thr k
    let a := t.x f.a.toNat
    let b := t.x f.b.toNat
    let put (op : Nat) (o : Host.Outcome State Fault Refusal) (bit : Nat → Bool) : Prop :=
      Alone s k op f → ∃ v : Word, o = .next (wentOn op f s k (put1 s k f.d.toNat v)) ∧ ∀ j, j < 32 → v.getLsbD j = bit j
    pos = b.toNat % 32 → width = min (b.toNat / 256 % 64) 32 →
    (f.m = 0 → put 0x2B (exec (.bfx f) s) fun j => decide (j < width ∧ pos + j < 32) && a.getLsbD (pos + j)) ∧
    (f.m = 1 → put 0x2B (exec (.bfx f) s) fun j =>
      if j < width then decide (pos + j < 32) && a.getLsbD (pos + j)
      else decide (0 < width ∧ pos + (width - 1) < 32) && a.getLsbD (pos + (width - 1))) ∧
    put 0x2C (exec (.bfi f) s) (fun j =>
      if pos ≤ j ∧ j < pos + width then a.getLsbD (j - pos) else (t.x f.c.toNat).getLsbD j) ∧
    Does 0x29 f k s (exec (.popc f) s) (put1 s k f.d.toNat (BitVec.ofNat 32 ((List.range 32).filter a.getLsbD).length)) ∧
    Does 0x7D f k s (exec (.popc64 f) s)
      (put1 s k f.d.toNat (BitVec.ofNat 32 ((List.range 64).filter (t.d f.a.toNat).getLsbD).length)) ∧
    (∀ n, n ≤ 32 → a.toNat < 2 ^ (32 - n) → (n < 32 → 2 ^ (31 - n) ≤ a.toNat) →
      Does 0x2A f k s (exec (.clz f) s) (put1 s k f.d.toNat (BitVec.ofNat 32 n))) ∧
    ∀ n, n ≤ 64 → (t.d f.a.toNat).toNat < 2 ^ (64 - n) → (n < 64 → 2 ^ (63 - n) ≤ (t.d f.a.toNat).toNat) →
      Does 0x7E f k s (exec (.clz64 f) s) (put1 s k f.d.toNat (BitVec.ofNat 32 n))

/-- A compare writes one bit of x[D], or merges it: the conditions of Table 5.4, signed and natural (R117). -/
def Obligations.IntegerCompare : Prop :=
  ∀ (s : State) (k : Nat) (f : Fields),
    let t := s.thr k
    let old := (t.x f.d.toNat).getLsbD f.bit
    let holds (cc : Nat) (a b : Int) : Prop :=
      match cc with | 0 => a = b | 1 => a ≠ b | 2 => a < b | 3 => a ≤ b | 4 => b < a | _ => b ≤ a
    let merged (r : Bool) : Bool := if f.m = 1 then old && r else if f.m = 2 then old || r else r
    ∀ r : Bool,
      ((r = true ↔ holds f.cond (t.x f.a.toNat).toInt (t.x f.b.toNat).toInt) →
        Does 0x2E f k s (exec (.cmpS32 f) s) (putBit s k f.d.toNat f.bit (merged r))) ∧
      ((r = true ↔ holds f.cond (t.x f.a.toNat).toNat (t.x f.b.toNat).toNat) →
        Does 0x2F f k s (exec (.cmpN32 f) s) (putBit s k f.d.toNat f.bit (merged r)))

/-- The capability words: each derivation writes the whole quad and its tag; the tag stays only where the rule lets it; a query changes no
capability (R121 to R124). -/
def Obligations.Capabilities : Prop :=
  ∀ (s : State) (k : Nat) (f : Fields),
    let t := s.thr k
    let c := t.cap f.a.toNat
    let b := t.x f.b.toNat
    let put (v : CapReg) : State := s.modThr k fun t => t.wrCap f.d.toNat v
    (f.m = 0 → Does 0x37 f k s (exec (.cinc f) s) (put (c.setCursor (((c.cursor : Int) + b.toInt) % 2 ^ 52).toNat))) ∧
    (f.m = 1 → Does 0x37 f k s (exec (.cinc f) s) (put (c.setCursor ((c.base + b.toNat) % 2 ^ 52)))) ∧
    Does 0x38 f k s (exec (.csetb f) s) (put
      { (c.setBase c.cursor).setLen (encLen b.toNat).1 (encLen b.toNat).2 with
        tag := c.tag && exactLen c.cursor b.toNat && c.base ≤ c.cursor && c.cursor + b.toNat ≤ c.base + c.length }) ∧
    Does 0x39 f k s (exec (.cperm f) s) (put (c.maskPerms (b.extractLsb' 0 6))) ∧
    (f.m = 0 → Does 0x3A f k s (exec (.cget f) s) (put1 s k f.d.toNat (BitVec.ofInt 32 ((c.cursor : Int) - c.base)))) ∧
    (f.m = 1 → Does 0x3A f k s (exec (.cget f) s) (put1 s k f.d.toNat (BitVec.ofNat 32 (min c.length (2 ^ 32 - 1))))) ∧
    (f.m = 2 → Does 0x3A f k s (exec (.cget f) s)
      (put1 s k f.d.toNat (BitVec.ofNat 32 (c.tag.toNat * 2 ^ 31 + c.space * 2 ^ 8 + c.perms.toNat)))) ∧
    (f.m = 3 → Does 0x3A f k s (exec (.cget f) s) (put1 s k f.d.toNat c.w2)) ∧
    (f.m = 3 → Does 0x3B f k s (exec (.ctest f) s) (putBit s k f.d.toNat f.bit (c.tag && c.space ≤ 4))) ∧
    (∀ p : BitVec 6, (f.m = 0 ∧ p = permLD ∨ f.m = 1 ∧ p = permST ∨ f.m = 2 ∧ p = permAT) →
      Does 0x3B f k s (exec (.ctest f) s)
        (putBit s k f.d.toNat f.bit (capCheck s k c p ((c.cursor + b.toNat) % 2 ^ 52) (2 ^ f.cond) == 0))) ∧
    Does 0x3C f k s (exec (.caddr f) s) (put2 s k f.d.toNat (BitVec.ofNat 64 c.cursor)) ∧
    (f.m = 0 → Does 0x3E f k s (exec (.crange f) s) (put1 s k f.d.toNat
      (if (t.x f.a.toNat).toNat ≤ 63 then t.x f.a.toNat
       else BitVec.ofNat 32 ((64 + (encLen (t.x f.a.toNat).toNat).2) * 2 ^ ((encLen (t.x f.a.toNat).toNat).1 - 1))))) ∧
    (f.m = 1 → Does 0x3E f k s (exec (.crange f) s) (put1 s k f.d.toNat
      (if (t.x f.a.toNat).toNat ≤ 63 then 0xFFFFFFFF
       else ~~~(BitVec.ofNat 32 (2 ^ ((encLen (t.x f.a.toNat).toNat).1 - 1) - 1)))))

/-- The checks of an access in the order of Table 5.8, and Enc: the first that fails is the one reported; Enc(L) is the least exponent that
holds L, and its mantissa (R126, R122). -/
def Obligations.CapabilityChecks : Prop :=
  (∀ (s : State) (k a n : Nat) (c : CapReg) (p : BitVec 6),
    (c.tag = false → capCheck s k c p a n = 1) ∧
    (c.tag = true → 4 < c.space → capCheck s k c p a n = 2) ∧
    (c.tag = true → c.space ≤ 4 → c.perms &&& p ≠ p → capCheck s k c p a n = 3) ∧
    (c.tag = true → c.space = 3 → (p = permST ∨ p = permAT) → capCheck s k c p a n = 3) ∧
    (c.tag = true → c.space ≤ 2 → c.perms &&& p = p → ¬ (c.base ≤ a ∧ a + n ≤ c.base + c.length) → capCheck s k c p a n = 4) ∧
    (c.tag = true → c.space = 2 → c.perms &&& p = p → c.base ≤ a → a + n ≤ c.base + c.length →
      capCheck s k c p a n = if c.ownerField = (s.thr k).owner then 0 else 5) ∧
    (c.tag = true → c.space ≤ 1 → c.perms &&& p = p → c.base ≤ a → a + n ≤ c.base + c.length → capCheck s k c p a n = 0)) ∧
  ∀ l : Nat, l < 2 ^ 60 →
    (l ≤ 63 → encLen l = (0, l)) ∧
    (64 ≤ l → 1 ≤ (encLen l).1 ∧ l ≤ 127 * 2 ^ ((encLen l).1 - 1) ∧ (∀ e, 1 ≤ e → l ≤ 127 * 2 ^ (e - 1) → (encLen l).1 ≤ e) ∧
      (encLen l).2 = (l + 2 ^ ((encLen l).1 - 1) - 1) / 2 ^ ((encLen l).1 - 1) - 64)

/-- SREAD and IDX: the special registers of Table 5.9 and the launch geometry of Table 5.11; s.now.lo latches the high half; CLR clears what
was read of s.status (R128, R129, R130). The second word of a pair reads s.status and the latch as they were before the pair (R75). s.budget gives the
lines left in the interval and the grant (R349). The model's own choices that it rests on: log 4, 49, 113. -/
def Obligations.SpecialRegisters : Prop :=
  ∀ (s : State) (k n : Nat) (f : Fields),
    let t := s.thr k
    let g := s.grpOf k
    let l := s.lchOf k
    let now := if s.det k then s.startOf k else s.nowOf k
    let own : Word × Option Nat := (t.status, t.latch)
    let before := if s.beat.adv = 2 then nget s.beat.pre k own else own
    let used := nget (s.cluster g.cluster).used (s.nowOf k / 1024) 0
    n = f.imm18.toNat % 256 →
    (∀ v : Nat,
      (n = 0 ∧ v = k % 32 ∨ n = 1 ∧ v = s.slotOf k ∨ n = 2 ∧ v = k % 2048 / 32 ∨ n = 3 ∧ v = k % 2048 ∨ n = 4 ∧ v = g.index % l.gx ∨
       n = 5 ∧ v = g.index / l.gx % l.gy ∨ n = 6 ∧ v = g.index / l.gx / l.gy ∨ n = 7 ∧ v = g.cluster ∨ n = 8 ∧ v = g.cluster / 12 ∨
       n = 9 ∧ v = g.cluster * 4 + k % 2048 / 32 % 4 ∨ n = 14 ∧ v = s.featOf (s.coreOf k) ∨ n = 15 ∧ v = (s.cluster g.cluster).ratio) →
      Does 0x3D f k s (exec (.sread f) s) (put1 s k f.d.toNat (BitVec.ofNat 32 v))) ∧
    (n = 10 → Does 0x3D f k s (exec (.sread f) s)
      ((put1 s k f.d.toNat (BitVec.ofNat 32 now)).modThr k fun t => { t with latch := some (now / 2 ^ 32) })) ∧
    (n = 11 → Does 0x3D f k s (exec (.sread f) s) (put1 s k f.d.toNat (BitVec.ofNat 32 (before.2.getD (now / 2 ^ 32))))) ∧
    (n = 16 → (s.det k = true ∨ (s.cluster g.cluster).grant = none) → Does 0x3D f k s (exec (.sread f) s) (put1 s k f.d.toNat 0xFFFFFFFF)) ∧
    (∀ b : Nat, n = 16 → s.det k = false → (s.cluster g.cluster).grant = some b →
      Does 0x3D f k s (exec (.sread f) s)
        (put1 s k f.d.toNat (BitVec.ofNat 32 (min (b / 64) 65535 * 2 ^ 16 + min (b / 64 - used) 65535)))) ∧
    (n = 12 → Does 0x3D f k s (exec (.sread f) s) (put1 s k f.d.toNat t.mode)) ∧
    (n = 13 → ∀ v, v = (if (s.cluster g.cluster).throttled && !s.det k then before.1 ||| 8 else before.1) →
      (f.imm18.toNat / 256 % 2 = 0 → Does 0x3D f k s (exec (.sread f) s) (put1 s k f.d.toNat v)) ∧
      (f.imm18.toNat / 256 % 2 = 1 → Does 0x3D f k s (exec (.sread f) s)
        ((put1 s k f.d.toNat v).modThr k fun t => { t with status := t.status &&& ~~~before.1 }))) ∧
    (f.m = 0 → Does 0x3F f k s (exec (.idx f) s) (put1 s k f.d.toNat (BitVec.ofNat 32 g.index))) ∧
    (f.m = 1 → Does 0x3F f k s (exec (.idx f) s) (put1 s k f.d.toNat (BitVec.ofNat 32 (g.index * (32 * l.kernel.rows) + k % 2048)))) ∧
    (f.m = 2 → Does 0x3F f k s (exec (.idx f) s) (put1 s k f.d.toNat (BitVec.ofNat 32 (l.gx * l.gy * l.gz)))) ∧
    (f.m = 3 → Does 0x3F f k s (exec (.idx f) s) (put1 s k f.d.toNat (BitVec.ofNat 32 (32 * l.kernel.rows))))

/-! ### Classes 0x4 and 0x5 (spec/06) -/

/-- FP32 arithmetic: each result is the exact one of the operands read under FTZ, rounded once as M or the mode register selects; stochastic
rounding draws the row's word, and the row's generator then steps (R134, R137 to R139, R145, R166, R174).

FP32 selection, signs and classes: MinNum and MaxNum give the operand that is no NaN and order −0 below +0; the value-index choice takes the
lower index at equal values; a compare is written to its bit or ANDed with it (R140 to R144). The model's own choices that it rests on: log 85. -/
def Obligations.FloatArithmetic : Prop :=
  (∀ (s : State) (k : Nat) (f : Fields) (r : Rnd),
    let t := s.thr k
    let z := t.mode.getLsbD 2
    let a := fp32.read z (t.x f.a.toNat).toNat
    let b := fp32.read z (t.x f.b.toNat).toNat
    let c := fp32.read z (t.x f.c.toNat).toNat
    let dn := decide (r = .rdn)
    let rounded (v : Sys2Proof.Machine.Real) : State := put1 s k f.d.toNat (BitVec.ofNat 32 (fp32.round r z v))
    (f.m = 0 ∧ r = modeRnd t.mode ∨ f.m = 1 ∧ r = .rne ∨ f.m = 2 ∧ r = .rtz ∨
      f.m = 3 ∧ r = .sr 32 ((genWord (s.genOf k) (k % 32)).toNat % 2 ^ 32)) →
    Does 0x40 f k s (exec (.fadd f) s) (rounded (addR dn a b)) ∧
    Does 0x41 f k s (exec (.fsub f) s) (rounded (addR dn a (negR b))) ∧
    Does 0x42 f k s (exec (.fmul f) s) (rounded (mulR a b)) ∧
    Does 0x43 f k s (exec (.ffma f) s) (rounded (addR dn (mulR a b) c)) ∧
    Does 0x46 f k s (exec (.faddmin f) s) (put1 s k f.d.toNat (BitVec.ofNat 32
      (fp32.minNum false (fp32.round r z (addR dn a b)) (fp32.operand z (t.x f.c.toNat).toNat)))) ∧
    Does 0x4A f k s (exec (.frnd f) s) (rounded (integral r a)) ∧
    Does 0x4B f k s (exec (.fcvti f) s) (put1 s k f.d.toNat (intOf f.b.toNat r a)) ∧
    (f.b = 0 → Does 0x4C f k s (exec (.itof f) s) (rounded (realOfInt (t.x f.a.toNat).toInt))) ∧
    (f.b ≠ 0 → Does 0x4C f k s (exec (.itof f) s) (rounded (realOfInt (t.x f.a.toNat).toNat))) ∧
    Does 0x4D f k s (exec (.fscale f) s) (rounded (scaleR a (t.x f.b.toNat).toInt)) ∧
    Does 0x74 f k s (exec (.fdiv f) s) (rounded (divR a b)) ∧
    Does 0x75 f k s (exec (.fsqrt f) s) (rounded (sqrtR a))) ∧
  (∀ (s : State) (k : Nat) (f : Fields),
    let t := s.thr k
    let z := t.mode.getLsbD 2
    let d := f.d.toNat
    let pat (r : Nat) : Nat := fp32.operand z (t.x r).toNat
    let a := pat f.a.toNat
    let b := pat f.b.toNat
    let ra := fp32.read z (t.x f.a.toNat).toNat
    let rb := fp32.read z (t.x f.b.toNat).toNat
    let pair (p : Nat × Nat) : State := put2 s k d (BitVec.ofNat 32 p.2 ++ BitVec.ofNat 32 p.1)
    Does 0x44 f k s (exec (.fmin f) s) (put1 s k d (BitVec.ofNat 32 (fp32.minNum false a b))) ∧
    Does 0x45 f k s (exec (.fmax f) s) (put1 s k d (BitVec.ofNat 32 (fp32.minNum true a b))) ∧
    (f.cond < 8 → Does 0x47 f k s (exec (.fcmp f) s) (putBit s k d f.bit (fpCond f.cond ra rb))) ∧
    (8 ≤ f.cond → Does 0x47 f k s (exec (.fcmp f) s) (putBit s k d f.bit ((t.x d).getLsbD f.bit && fpCond (f.cond - 8) ra rb))) ∧
    (∀ (n : Nat) (neg : Bool), a < 2 ^ 32 →
      neg = (match f.c.toNat with
        | 0 => (t.x f.b.toNat).getLsbD 31
        | 1 => !(t.x f.b.toNat).getLsbD 31
        | 2 => a.testBit 31 != (t.x f.b.toNat).getLsbD 31
        | 3 => false
        | _ => !a.testBit 31) →
      n = a % 2 ^ 31 + neg.toNat * 2 ^ 31 → Does 0x48 f k s (exec (.fsgn f) s) (put1 s k d (BitVec.ofNat 32 n))) ∧
    Does 0x49 f k s (exec (.fclass f) s) (put1 s k d (BitVec.ofNat 32 (2 ^ fpClass a))) ∧
    Does 0x4E f k s (exec (.fmaxi f) s)
      (pair (fp32.pick true (a, (t.x (f.a.toNat + 1)).toNat) (b, (t.x (f.b.toNat + 1)).toNat))) ∧
    Does 0x4F f k s (exec (.fmini f) s)
      (pair (fp32.pick false (a, (t.x (f.a.toNat + 1)).toNat) (b, (t.x (f.b.toNat + 1)).toNat))) ∧
    ∀ (g : Bool) (x y : Nat),
      (fp32.isNaN x = true → fp32.isNaN y = true → fp32.minNum g x y = 0x7FC00000) ∧
      (fp32.isNaN x = true → fp32.isNaN y = false → fp32.minNum g x y = y) ∧
      (fp32.isNaN x = false → fp32.isNaN y = true → fp32.minNum g x y = x) ∧
      fp32.minNum false 0x80000000 0 = 0x80000000 ∧ fp32.minNum true 0x80000000 0 = 0 ∧
      (fp32.isNaN x = false → ∀ i j, fp32.pick g (x, i) (x, j) = (x, min i j)))

/-- Packed FP16 and BF16: each element is computed by itself from the elements at its place, rounded once with its own half of the draw, and the
two are packed; HMAXI chooses a pair in one register (R146 to R151). -/
def Obligations.PackedFloat : Prop :=
  ∀ (s : State) (k : Nat) (f : Fields),
    let t := s.thr k
    let z := t.mode.getLsbD 2
    let d := f.d.toNat
    let el (r i : Nat) : Nat := (t.x r).toNat / 2 ^ (16 * i) % 2 ^ 16
    let rd (F : Fmt) (r i : Nat) : Sys2Proof.Machine.Real := F.read z (el r i)
    let rnd (i : Nat) : Rnd := rndOf s k f 16 (16 * i)
    let a := f.a.toNat
    let b := f.b.toNat
    let c := f.c.toNat
    let two (e : Nat → Nat) : State := put1 s k d (BitVec.ofNat 32 (e 0 % 2 ^ 16 + e 1 % 2 ^ 16 * 2 ^ 16))
    let arith (F : Fmt) (g : Nat → Sys2Proof.Machine.Real) : State := two fun i => F.round (rnd i) z (g i)
    let dn (i : Nat) : Bool := decide (rnd i = .rdn)
    let dot (F : Fmt) : State :=
      let r := rndOf s k f 32 0
      put1 s k d (BitVec.ofNat 32 (fp32.round r z (addR (decide (r = .rdn))
        (addR (decide (r = .rdn)) (mulR (rd F a 0) (rd F b 0)) (mulR (rd F a 1) (rd F b 1))) (fp32.read z (t.x c).toNat))))
    (∀ F hadd hmul hfma hmin hmax oadd omul ofma omin omax,
      (F = fp16 ∧ hadd = Instr.hadd2 ∧ hmul = Instr.hmul2 ∧ hfma = Instr.hfma2 ∧ hmin = Instr.hmin2 ∧ hmax = Instr.hmax2 ∧
          oadd = 0x50 ∧ omul = 0x51 ∧ ofma = 0x52 ∧ omin = 0x53 ∧ omax = 0x54) ∨
        (F = bf16 ∧ hadd = Instr.badd2 ∧ hmul = Instr.bmul2 ∧ hfma = Instr.bfma2 ∧ hmin = Instr.bmin2 ∧ hmax = Instr.bmax2 ∧
          oadd = 0x56 ∧ omul = 0x57 ∧ ofma = 0x58 ∧ omin = 0x59 ∧ omax = 0x5A) →
      Does oadd f k s (exec (hadd f) s) (arith F fun i => addR (dn i) (rd F a i) (rd F b i)) ∧
      Does omul f k s (exec (hmul f) s) (arith F fun i => mulR (rd F a i) (rd F b i)) ∧
      Does ofma f k s (exec (hfma f) s) (arith F fun i => addR (dn i) (mulR (rd F a i) (rd F b i)) (rd F c i)) ∧
      Does omin f k s (exec (hmin f) s) (two fun i => F.minNum false (F.operand z (el a i)) (F.operand z (el b i))) ∧
      Does omax f k s (exec (hmax f) s) (two fun i => F.minNum true (F.operand z (el a i)) (F.operand z (el b i)))) ∧
    (f.cond < 8 → Does 0x55 f k s (exec (.hcmp2 f) s) (s.modThr k fun t =>
      (t.wrBit d f.bit (fpCond f.cond (rd fp16 a 0) (rd fp16 b 0))).wrBit d (f.bit + 1) (fpCond f.cond (rd fp16 a 1) (rd fp16 b 1)))) ∧
    (8 ≤ f.cond → Does 0x55 f k s (exec (.hcmp2 f) s) (s.modThr k fun t =>
      (t.wrBit d f.bit ((t.x d).getLsbD f.bit && fpCond (f.cond - 8) (rd fp16 a 0) (rd fp16 b 0))).wrBit d (f.bit + 1)
        ((t.x d).getLsbD (f.bit + 1) && fpCond (f.cond - 8) (rd fp16 a 1) (rd fp16 b 1)))) ∧
    Does 0x5B f k s (exec (.hmaxi f) s)
      (let p := fp16.pick true (fp16.operand z (el a 0), el a 1) (fp16.operand z (el b 0), el b 1)
       put1 s k d (BitVec.ofNat 32 (p.1 % 2 ^ 16 + p.2 % 2 ^ 16 * 2 ^ 16))) ∧
    Does 0x5C f k s (exec (.hdot2 f) s) (dot fp16) ∧
    Does 0x5D f k s (exec (.bdot2 f) s) (dot bf16) ∧
    (∀ F i op, (F = fp16 ∧ i = Instr.hcvt ∧ op = 0x5E) ∨ (F = bf16 ∧ i = Instr.bcvt ∧ op = 0x5F) →
      (f.c = 0 → Does op f k s (exec (i f) s) (two fun j => F.round (rnd j) z (fp32.read z (t.x (if j = 0 then a else b)).toNat))) ∧
      (f.c = 1 → Does op f k s (exec (i f) s) (put1 s k d (BitVec.ofNat 32 (fp32.round .rne z (rd F a 0))))) ∧
      (f.c = 2 → Does op f k s (exec (i f) s) (put1 s k d (BitVec.ofNat 32 (fp32.round .rne z (rd F a 1))))))

/-! ### Classes 0x6 and 0x7 (spec/07) -/

/-- Conversions to narrow formats and back: two values make one half of x[D], the other half kept; a byte is widened exactly; halves are
packed and taken apart; a codebook's nearest code, and its entry (R155 to R165).

SRSEED sets the row's generator to d[A] of its lowest guard-passing thread, a zero to the start value, and draws nothing; SRDRAW writes the
lane's word, and then steps the row but for .peek (R166, R168, R169). The statement of SRSEED is of one row. -/
def Obligations.NarrowFormats : Prop :=
  (∀ (s : State) (k : Nat) (f : Fields),
    let t := s.thr k
    let z := t.mode.getLsbD 2
    let d := f.d.toNat
    let a := t.x f.a.toNat
    let b := t.x f.b.toNat
    let ra := fp32.read z a.toNat
    let rb := fp32.read z b.toNat
    let low := (t.x d).toNat % 2 ^ 16
    let high := (t.x d).toNat / 2 ^ 16
    let merge (v : Nat) : State :=
      s.modThr k fun t => t.wrPart d (BitVec.ofNat 32 (if f.c.getLsbD 0 then low + v * 2 ^ 16 else v % 2 ^ 16 + high * 2 ^ 16))
    let rnd (i : Nat) : Rnd := rndOf s k f 16 (16 * i)
    let byte := a.toNat / 2 ^ (8 * (f.c.toNat % 4)) % 256
    let exact (v : Sys2Proof.Machine.Real) : State := put1 s k d (BitVec.ofNat 32 (fp32.round .rne z v))
    Does 0x60 f k s (exec (.cvtE4 f) s)
      (merge (e4m3.narrow fp32 (rnd 0) (f.c.getLsbD 1) z ra + e4m3.narrow fp32 (rnd 1) (f.c.getLsbD 1) z rb * 256)) ∧
    Does 0x61 f k s (exec (.cvtE5 f) s)
      (merge (e5m2.narrow fp32 (rnd 0) (f.c.getLsbD 1) z ra + e5m2.narrow fp32 (rnd 1) (f.c.getLsbD 1) z rb * 256)) ∧
    Does 0x66 f k s (exec (.cvtI8 f) s) (merge (narrowI8 (rnd 0) ra + narrowI8 (rnd 1) rb * 256)) ∧
    Does 0x62 f k s (exec (.unpkE4 f) s) (exact (e4m3.read z byte)) ∧
    Does 0x63 f k s (exec (.unpkE5 f) s) (exact (e5m2.read z byte)) ∧
    Does 0x67 f k s (exec (.unpkI8 f) s) (exact (realOfInt (BitVec.ofNat 8 byte).toInt)) ∧
    Does 0x65 f k s (exec (.dqC4 f) s)
      (exact (bf16.read z ((bookOf t f.b.toNat).getD (a.toNat / 2 ^ (4 * (f.c.toNat % 8)) % 16) 0))) ∧
    Does 0x64 f k s (exec (.qntC4 f) s) (s.modThr k fun t =>
      let sh := 4 * (f.c.toNat % 8)
      t.wrPart d ((t.x d &&& ~~~(0xF#32 <<< sh)) ||| (BitVec.ofNat 32 (quantize ((bookOf t f.b.toNat).map (bf16.read z)) ra) <<< sh))) ∧
    (∀ src dst i op, (src = fp16 ∧ dst = bf16 ∧ i = Instr.cvtBf ∧ op = 0x68) ∨ (src = bf16 ∧ dst = fp16 ∧ i = Instr.cvtHf ∧ op = 0x69) →
      Does op f k s (exec (i f) s)
        (let e (j : Nat) : Nat := dst.narrow src (rnd j) false z (src.read z (a.toNat / 2 ^ (16 * j) % 2 ^ 16))
         put1 s k d (BitVec.ofNat 32 (e 0 % 2 ^ 16 + e 1 % 2 ^ 16 * 2 ^ 16)))) ∧
    (f.c = 0 → Does 0x6C f k s (exec (.pack f) s) (put1 s k d (BitVec.ofNat 32 (a.toNat % 2 ^ 16 + b.toNat % 2 ^ 16 * 2 ^ 16)))) ∧
    (f.c = 1 → Does 0x6C f k s (exec (.pack f) s)
      (put1 s k d (BitVec.ofInt 16 (max (-32768) (min b.toInt 32767)) ++ BitVec.ofInt 16 (max (-32768) (min a.toInt 32767))))) ∧
    (f.c = 2 → Does 0x6C f k s (exec (.pack f) s)
      (put1 s k d (BitVec.ofNat 32 (min a.toNat 65535 + min b.toNat 65535 * 2 ^ 16)))) ∧
    (∀ n e, n = (if f.c.toNat / 8 % 2 = 1 then 8 else 16) → e = a.toNat / 2 ^ (n * (f.c.toNat % 4)) % 2 ^ n →
      Does 0x6D f k s (exec (.unpk f) s) (put1 s k d (BitVec.ofInt 32
        (if f.c.toNat / 4 % 2 = 1 ∧ 2 ^ (n - 1) ≤ e then (e : Int) - 2 ^ n else e)))) ∧
    (∀ e : Nat, e = b.toNat / 2 ^ (8 * (f.c.toNat % 4)) % 256 →
      Does 0x6E f k s (exec (.scaleE8 f) s) (put1 s k d (BitVec.ofNat 32 (fp32.round (rndOf s k f 32 0) z
        (if e = 255 then .nan else scaleR ra (if f.c.getLsbD 2 then 127 - (e : Int) else (e : Int) - 127)))))) ∧
    Does 0x6F f k s (exec (.blkexp f) s) (put1 s k d (BitVec.ofNat 32 (blockExp f.c.toNat ra)))) ∧
  (∀ (s : State) (k : Nat) (ks : List Nat) (f : Fields),
    (Does 0x6B f k s (exec (.srdraw f) s) (put1 s k f.d.toNat (genWord (s.genOf k) (k % 32)))) ∧
    (f.m = 1 → ∀ t, wentOn 0x6B f s k t = noteWord 0x6B f s k none (advance t k)) ∧
    (f.m = 0 → ∀ t, wentOn 0x6B f s k t = stepRow (noteWord 0x6B f s k none (advance t k)) (k / 32 * 32)) ∧
    (Together s ks 0x6A f → k ∈ ks → (∀ j ∈ ks, j / 32 = k / 32 ∧ k ≤ j) → (∃ g, nfind s.groups (k / 2048) = some g) →
      (s.grpOf k).cancelled = false →
      ∃ t, exec (.srseed f) s = .next t ∧
        t.genOf k = (if (s.thr k).d f.a.toNat = 0 then 0x5851F42D4C957F2D else (s.thr k).d f.a.toNat) ∧
        (∀ j, j / 2048 = k / 2048 → j % 2048 / 32 ≠ k % 2048 / 32 → t.genOf j = s.genOf j) ∧ SameMemory s t ∧
        ∀ j, (t.thr j).regs = (s.thr j).regs))

/-- The curve unit, reduction, extraction, checksums and hashes: CRV on an empty table is illegal, sub-code 12, and its row's generator does not step, else it evaluates the segment that
holds x; CRVCLR empties tables and leaves segments; MIX32 is the hash of R178 (R172, R173, R175 to R179, R180).

CRVLD (R171): a bad descriptor lands status 1 two ticks on, the tick its promise gives; a good one starts a load of its segments, the table loading; the load's
end puts the five values of each segment that has come in place, makes the table ready when all have, else empty, and lands the status 0, 2 or 3 with the tick
of the last read. The model's own choices that it rests on: log 31, 42, 82, 97, 98, 114. -/
def Obligations.Curves : Prop :=
  (∀ (s : State) (k : Nat) (f : Fields),
    let t := s.thr k
    let g := s.grpOf k
    let z := t.mode.getLsbD 2
    let d := f.d.toNat
    let a := t.x f.a.toNat
    let b := t.x f.b.toNat
    let c := t.x f.c.toNat
    let ra := fp32.read z a.toNat
    (∀ tb, nfind g.tables (f.c.toNat % 8) = some tb →
      Does 0x70 f k s (exec (.crv f) s) (put1 s k d (BitVec.ofNat 32 (curve g z (rndOf s k f 32 0) tb ra)))) ∧
    (nfind g.tables (f.c.toNat % 8) = none → s.beat.threads = [k] → mayRun s k = true → guardPasses t f = true → asyncDue t = none →
      causeOf s k 0x70 f = 0 → landed t 0x70 f = true → poisonFault t 0x70 f = false →
      exec (.crv f) s = .next (takeFlt s k { cause := 1, sub := 12 })) ∧
    Does 0x72 f k s (exec (.crvrd f) s) (put1 s k d (curveRead f.m.toNat g a)) ∧
    Does 0x73 f k s (exec (.crvclr f) s)
      (s.modGrp (k / 2048) fun g => { g with tables := g.tables.filter fun p => !(p.1 < 8 && a.getLsbD p.1) }) ∧
    (∀ n m e q v, ra = .fin n m e → (q, v) = reduceR (if f.c = 0 then halfPi else lnTwo) n m e →
      Does 0x76 f k s (exec (.frred f) s)
        (put2 s k d (BitVec.ofInt 32 q ++ BitVec.ofNat 32 (fp32.round (rndOf s k f 32 0) z v)))) ∧
    ((ra = .nan ∨ ∃ n, ra = .inf n) → Does 0x76 f k s (exec (.frred f) s) (put2 s k d 0x7FC00000)) ∧
    Does 0x77 f k s (exec (.fxtr f) s) (put2 s k d (extract (BitVec.ofNat 32 (fp32.operand z a.toNat)) ra)) ∧
    Does 0x78 f k s (exec (.crc32c f) s) (put1 s k d (crc32c (2 ^ (f.c.toNat % 4)) a b)) ∧
    (∀ v0 v1 v2 : Word, v0 = a + b * 0x9E3779B9 → v1 = (v0 ^^^ (v0 >>> 16)) * 0x85EBCA6B → v2 = (v1 ^^^ (v1 >>> 13)) * 0xC2B2AE35 →
      Does 0x79 f k s (exec (.mix32 f) s) (put1 s k d (v2 ^^^ (v2 >>> 16)))) ∧
    (Alone s k 0x7A f → ∃ v : Word, exec (.byteperm f) s = .next (wentOn 0x7A f s k (put1 s k d v)) ∧ ∀ j, j < 4 →
      ∀ sel byte, sel = c.toNat / 2 ^ (4 * j) % 16 → byte = (b.toNat * 2 ^ 32 + a.toNat) / 2 ^ (8 * (sel % 8)) % 256 →
        v.toNat / 2 ^ (8 * j) % 256 = if sel < 8 then byte else if byte < 128 then 0 else 255) ∧
    (Alone s k 0x7B f → ∃ v : Word, exec (.brev f) s = .next (wentOn 0x7B f s k (put1 s k d v)) ∧
      ∀ j, j < 32 → v.getLsbD j = a.getLsbD (31 - j)) ∧
    (∀ j, j < 32 → a.getLsbD j = true →
      (f.m = 0 → ((List.range j).filter a.getLsbD).length = b.toNat →
        Does 0x7C f k s (exec (.fns f) s) (put1 s k d (BitVec.ofNat 32 j))) ∧
      (f.m = 1 → ((List.range' (j + 1) (31 - j)).filter a.getLsbD).length = b.toNat →
        Does 0x7C f k s (exec (.fns f) s) (put1 s k d (BitVec.ofNat 32 j)))) ∧
    (((List.range 32).filter a.getLsbD).length ≤ b.toNat → Does 0x7C f k s (exec (.fns f) s) (put1 s k d 0xFFFFFFFF)) ∧
    (Alone s k 0x7F f → ∃ t1, exec (.digest f) s = .next t1 ∧ (∃ u, t1 = wentOn 0x7F f s k u ∧
      (u.grpOf k).digests = ((nfind s.groups (k / 2048)).map fun g => g.digests ++
        [{ tid := k % 2048, n := t.digestN, space := 0, addr := 0, kind := 4, mask := 0, opx := 0, data := a.zeroExtend 128,
             word := t.digestWords }]).getD [] ∧
      (u.thr k).digestN = t.digestN + 1 ∧ (u.thr k).digestWords = t.digestWords + 1 ∧ (u.thr k).regs = t.regs))) ∧
  ((∀ (s : State) (k : Nat) (f : Fields),
    let d := ((s.thr k).x f.d.toNat).toNat
    let c := (s.thr k).cap (4 * f.a.toNat)
    let a := (c.cursor + ((s.thr k).x f.b.toNat).toNat) % 2 ^ 52
    let bad : Prop := 8 ≤ d % 256 ∨ d / 16384 % 4 ≠ 0 ∨ d / 2 ^ 23 ≠ 0 ∨ d / 65536 % 128 = 0 ∨ 64 < d / 65536 % 128 ∨
      64 < d / 256 % 64 + d / 65536 % 128
    Alone s k 0x71 f →
    (bad → ∃ u r, exec (.crvld f) s = .next (wentOn 0x71 f s k u) ∧ nfind u.rets s.ids = some r ∧ r.phase = .read (s.now + 2) ∧ r.kind = .word ∧
      r.data = bytesOfNat 1 4 ∧ (u.thr k).loads = (s.thr k).loads + 1 ∧ u.groups = s.groups ∧ SameMemory s u ∧
      ((u.thr k).t f.time).p = true ∧ ((u.thr k).t f.time).e = false ∧ ((u.thr k).t f.time).tick = s.onDie (s.dieOf k) (s.now + 2)) ∧
    (¬ bad →
      (∀ x, accessFault s k c permLD a (20 * (d / 65536 % 128)) 1 = some x → exec (.crvld f) s = .next (takeFlt s k x)) ∧
      (accessFault s k c permLD a (20 * (d / 65536 % 128)) 1 = none → ∃ u r x, exec (.crvld f) s = .next (wentOn 0x71 f s k u) ∧
        nfind u.rets s.ids = some r ∧ r.th = k ∧ r.kind = .xfer ∧ nfind u.xfers (s.ids + 1) = some x ∧
        x.kind = .curve (d % 8) (d / 256 % 64) (d / 65536 % 128) ∧ (x.space, x.va) = xferVa s k c.space a ∧ x.units = d / 65536 % 128 ∧
        x.booked = true ∧ SameMemory s u ∧ (u.thr k).loads = (s.thr k).loads + 1 ∧
        ((∃ g, nfind s.groups (k / 2048) = some g) → nfind (u.grp (k / 2048)).tables (d % 8) =
          some { loading := true, f := d / 256 % 64, n := d / 65536 % 128 })))) ∧
  ∀ (s : State) (id table seg n : Nat) (x : Xfer), nfind s.xfers id = some x → x.kind = .curve table seg n → x.booked = true →
    ((piecesDone s id = false ∨ curveBehind s id x.group = true) → exec (.curveLoadComplete id) s = .next s) ∧
    (piecesDone s id = true → curveBehind s id x.group = false → (∃ g, nfind s.groups x.group = some g) → x.units = n →
      (∀ p ∈ s.xfers, id < p.1 → p.2.group = x.group → ∀ i j, p.2.kind ≠ .curve table i j) →
      ∃ t, exec (.curveLoadComplete id) s = .next t ∧ nfind t.xfers id = none ∧ SameMemory s t ∧
        (∀ i r th, x.rets = [i] → nfind s.rets i = some r → nfind s.threads r.th = some th → r.discard = false → r.n = 1 → r.dst ≠ 0 → x.stop = none →
          nfind t.rets i = none ∧
          (t.thr r.th).x r.dst = (if ∃ p ∈ x.gotAll, p.poisoned = true then 3 else if ∃ p ∈ x.gotAll, p.absent = true then 2 else 0) ∧
          (t.thr r.th).status = (if x.absent then th.status ||| 1 else th.status) ∧
          ∀ j, r.treg = some j → nfind th.bound j = some i → x.staged = false →
            ((t.thr r.th).t j).p = true ∧ ((t.thr r.th).t j).tick = s.onDie (dieOfCore x.core) x.last) ∧
        nfind (t.grp x.group).tables table = (if wholeStatus x.gotAll = 0 then some { loading := false, f := seg, n := n } else none) ∧
        ∀ j i, j < n → i < 5 → (x.gotUnit j).absent = false → (x.gotUnit j).poisoned = false →
          nget (t.grp x.group).segs (5 * (seg + j) + i) 0 = BitVec.ofNat 32 (natOfBytes (((x.gotUnit j).data.drop (4 * i)).take 4))))

/-! ### Class 0x8 (spec/08) -/

/-- The shuffles, votes, ballots, matches and elections of a row: every source is read before any destination is written, and only active lanes count
(R183, R184, R186, R187, R188).

The reductions and scans of a row. The exact ones give the sum, the least or the greatest over the active lanes, or the sum of the lanes
below; those that round or saturate combine neighbours in the fixed tree over 32 lanes, an inactive lane holding the identity (R189, R190). -/
def Obligations.RowWords : Prop :=
  (∀ (s : State) (ks : List Nat) (row : Nat) (f : Fields), ks ≠ [] → (∀ j ∈ ks, j / 32 = row) →
    let x (j r : Nat) : Word := (s.thr j).x r
    let bit (j : Nat) : Bool := (x j f.a.toNat).getLsbD (f.b.toNat % 32)
    let shuffled (op : Nat) (o : Host.Outcome State Fault Refusal) (src : Nat → Nat → Int) : Prop :=
      Together s ks op f → ∃ t, o = .next t ∧ ∀ v : Nat → Word,
        (∀ j ∈ ks, ∀ n, (f.m = 1 ∧ n = f.b.toNat ∨ f.m ≠ 1 ∧ n = (x j f.b.toNat).toNat) →
          (∀ i ∈ ks, ((i % 32 : Nat) : Int) = src (j % 32) n → v j = x i f.a.toNat) ∧
          ((∀ i ∈ ks, ((i % 32 : Nat) : Int) ≠ src (j % 32) n) → v j = x j f.c.toNat)) → RowResult s t ks f.d.toNat v
    let masked (op : Nat) (o : Host.Outcome State Fault Refusal) (p : Nat → Nat → Bool) : Prop :=
      Together s ks op f → ∃ t, o = .next t ∧ ∃ v, RowResult s t ks f.d.toNat v ∧
        ∀ j ∈ ks, ∀ l, l < 32 → ((v j).getLsbD l = true ↔ ∃ i ∈ ks, i % 32 = l ∧ p j i = true)
    let voted (op : Nat) (o : Host.Outcome State Fault Refusal) (r : Nat → Bool) : Prop :=
      Together s ks op f → ∃ t, o = .next t ∧ RowResult s t ks f.d.toNat fun j =>
        if r j then x j f.d.toNat ||| (1#32 <<< f.bit) else x j f.d.toNat &&& ~~~(1#32 <<< f.bit)
    shuffled 0x80 (exec (.shflIdx f) s) (fun _ n => n) ∧
    shuffled 0x81 (exec (.shflUp f) s) (fun i n => (i : Int) - n) ∧
    shuffled 0x82 (exec (.shflDn f) s) (fun i n => (i : Int) + n) ∧
    shuffled 0x83 (exec (.shflXor f) s) (fun i n => ((i ^^^ n : Nat) : Int)) ∧
    voted 0x84 (exec (.voteAny f) s) (fun _ => ks.any bit) ∧
    voted 0x85 (exec (.voteAll f) s) (fun _ => ks.all bit) ∧
    masked 0x86 (exec (.ballot f) s) (fun _ i => bit i) ∧
    (f.m = 0 → masked 0x87 (exec (.matchW f) s) fun j i => x i f.a.toNat == x j f.a.toNat) ∧
    (f.m = 1 → masked 0x87 (exec (.matchW f) s) fun j i => (s.thr i).d f.a.toNat == (s.thr j).d f.a.toNat) ∧
    voted 0x8F (exec (.elect f) s) (fun j => ks.all fun i => j ≤ i)) ∧
  (∀ (s : State) (ks : List Nat) (row k : Nat) (f : Fields), k ∈ ks → (∀ j ∈ ks, j / 32 = row ∧ k ≤ j) →
    let x (j : Nat) : Word := (s.thr j).x f.a.toNat
    let z := (s.thr k).mode.getLsbD 2
    let rnd : Rnd := if f.m = 0 then modeRnd (s.thr k).mode else if f.m = 1 then .rne else .rtz
    let add (l r : Word) : Word :=
      BitVec.ofNat 32 (fp32.round rnd z (addR (decide (rnd = .rdn)) (fp32.read z l.toNat) (fp32.read z r.toNat)))
    let one (op : Nat) (o : Host.Outcome State Fault Refusal) (p : (Nat → Word) → Prop) : Prop :=
      Together s ks op f → ∃ t v, o = .next t ∧ RowResult s t ks f.d.toNat v ∧ p v
    let tree (op : Nat) (o : Host.Outcome State Fault Refusal) (c : Word → Word → Word) (e : Word) : Prop :=
      one op o fun v => ∀ j ∈ ks, v j = treeRoot c e (laneValues ks e x)
    (f.m = 0 → one 0x88 (exec (.redAdd f) s) fun v => ∀ j ∈ ks, v j = ks.foldl (fun a i => a + x i) 0) ∧
    (f.m = 1 → tree 0x88 (exec (.redAdd f) s) (fun l r => BitVec.ofInt 32 (max (-2 ^ 31) (min (l.toInt + r.toInt) (2 ^ 31 - 1)))) 0) ∧
    (f.m = 0 → one 0x89 (exec (.redMm f) s) fun v => ∀ j ∈ ks, (∃ i ∈ ks, v j = x i) ∧ ∀ i ∈ ks, (v j).toInt ≤ (x i).toInt) ∧
    (f.m = 1 → one 0x89 (exec (.redMm f) s) fun v => ∀ j ∈ ks, (∃ i ∈ ks, v j = x i) ∧ ∀ i ∈ ks, (x i).toInt ≤ (v j).toInt) ∧
    (f.m = 2 → one 0x89 (exec (.redMm f) s) fun v => ∀ j ∈ ks, (∃ i ∈ ks, v j = x i) ∧ ∀ i ∈ ks, (v j).toNat ≤ (x i).toNat) ∧
    (f.m = 3 → one 0x89 (exec (.redMm f) s) fun v => ∀ j ∈ ks, (∃ i ∈ ks, v j = x i) ∧ ∀ i ∈ ks, (x i).toNat ≤ (v j).toNat) ∧
    tree 0x8A (exec (.redFadd f) s) add 0x80000000 ∧
    tree 0x8B (exec (.redFmm f) s)
      (fun l r => BitVec.ofNat 32 (fp32.minNum (f.m == 1) (fp32.operand z l.toNat) (fp32.operand z r.toNat))) 0x7FC00000 ∧
    (f.m.toNat < 2 → Together s ks 0x8C f → ∃ t, exec (.redMaxi f) s = .next t ∧ RowPairResult s t ks f.d.toNat fun _ =>
      let p := treeRoot (fun l r => fp32.pick (f.m == 0) (fp32.operand z l.1, l.2) (fp32.operand z r.1, r.2)) (0x7FC00000, 0xFFFFFFFF)
        (laneValues ks (0x7FC00000, 0xFFFFFFFF) fun j => ((x j).toNat, ((s.thr j).x (f.a.toNat + 1)).toNat))
      BitVec.ofNat 32 p.2 ++ BitVec.ofNat 32 p.1) ∧
    (f.m = 2 → tree 0x8C (exec (.redMaxi f) s) (fun l r =>
      let p := fp16.pick true (fp16.operand z (l.toNat % 2 ^ 16), l.toNat / 2 ^ 16) (fp16.operand z (r.toNat % 2 ^ 16), r.toNat / 2 ^ 16)
      BitVec.ofNat 32 (p.1 % 2 ^ 16 + p.2 % 2 ^ 16 * 2 ^ 16)) 0xFFFF7E00) ∧
    (f.c.getLsbD 0 = false → one 0x8D (exec (.scanAdd f) s) fun v => ∀ j ∈ ks, v j = ks.foldl (fun a i => if i ≤ j then a + x i else a) 0) ∧
    (f.c.getLsbD 0 = true → one 0x8D (exec (.scanAdd f) s) fun v => ∀ j ∈ ks, v j = ks.foldl (fun a i => if i < j then a + x i else a) 0) ∧
    one 0x8E (exec (.scanFadd f) s) fun v => ∀ j ∈ ks,
      let l := [1, 2, 4, 8, 16].foldl (scanStep add) (laneValues ks 0x80000000 x)
      v j = if f.c.getLsbD 0 = false then l.getD (j % 32) 0 else if j % 32 = 0 then 0x80000000 else l.getD (j % 32 - 1) 0)

/-! ### The time registers of class 0x9 (spec/09) -/

/-- TNOW, TDIFF, the moves of time registers, TSORT and TMIN, TCMP and TWAIT, outside deterministic mode and with the canonical results of it
(R194, R216, R218 to R223); TCMP writes its outcome into the bit and leaves the others,
and an M other than 00, which Table 9.2 does not define for it, is illegal (log 123). PREF is a hint and does nothing (R199).

A time register that is bound to no access and holds neither P nor E reads as P = 1 with TICK 0; a word that reads a time register waits for P
or E while it is bound (R194); TWAIT waits, outside deterministic mode, until TICK is at most the threshold ahead, and with .data for the delivery
(R222). The model's own choices that it rests on: log 123. -/
def Obligations.TimeRegisters : Prop :=
  (∀ (s : State) (k : Nat) (f : Fields),
    let t := s.thr k
    let d := f.d.toNat
    let ta := t.readT f.a.toNat
    let tb := t.readT f.b.toNat
    let now := if s.det k then s.startOf k else s.nowOf k
    let mask := (List.range 16).filter fun i => (t.x f.a.toNat).getLsbD i
    let before (i j : Nat) : Prop :=
      if s.det k then i < j else (t.readT i).tick < (t.readT j).tick ∨ (t.readT i).tick = (t.readT j).tick ∧ i < j
    let set (v : TReg) : State := s.modThr k fun t => t.setT d v
    Does 0x96 f k s (exec (.pref f) s) s ∧
    Does 0x99 f k s (exec (.tnow f) s) (set { p := true, e := false, a := false, l := false, tick := now }) ∧
    (s.det k = false → f.m = 0 → Does 0x9C f k s (exec (.tdiff f) s) (put2 s k d (BitVec.ofInt 64 ((ta.tick : Int) - tb.tick)))) ∧
    (s.det k = false → f.m ≠ 0 → Does 0x9C f k s (exec (.tdiff f) s) (put2 s k d (BitVec.ofInt 64 ((ta.tick : Int) - s.nowOf k)))) ∧
    (s.det k = true → Does 0x9C f k s (exec (.tdiff f) s) (put2 s k d 0)) ∧
    Does 0x9D f k s (exec (.tmov f) s) (set ta) ∧
    (s.det k = false → Does 0x9D f k s (exec (.tmovGet f) s) (put2 s k d ta.bits)) ∧
    (s.det k = false → Does 0x9D f k s (exec (.tmovRaw f) s) (put2 s k d (t.t f.a.toNat).bits)) ∧
    (s.det k = true → Does 0x9D f k s (exec (.tmovGet f) s) (put2 s k d ({ p := true, a := ta.a, tick := s.startOf k } : TReg).bits)) ∧
    (s.det k = true →
      Does 0x9D f k s (exec (.tmovRaw f) s) (put2 s k d ({ p := true, a := (t.t f.a.toNat).a, tick := s.startOf k } : TReg).bits)) ∧
    (∀ v, v = TReg.ofBits (t.d f.a.toNat) → Does 0x9D f k s (exec (.tmovSet f) s) (set { v with p := v.p || !v.e })) ∧
    (∀ l : List Nat, l.Perm mask → l.Pairwise before →
      Does 0x9A f k s (exec (.tsort f) s) (put2 s k d (BitVec.ofNat 64 ((List.range 16).foldl (fun n j => n + l.getD j 15 * 16 ^ j) 0)))) ∧
    (mask = [] → Does 0x9B f k s (exec (.tmin f) s) (put1 s k d 0xFFFFFFFF)) ∧
    (∀ i ∈ mask, (∀ j ∈ mask, j ≠ i → before i j) → Does 0x9B f k s (exec (.tmin f) s) (put1 s k d (BitVec.ofNat 32 i))) ∧
    Does 0x9E f k s (exec (.twait f) s) s ∧
    (∀ r : Bool, (s.det k = false ∧
      (f.cond = 0 ∧ (r = true ↔ ta.tick = tb.tick) ∨ f.cond = 1 ∧ (r = true ↔ ta.tick ≠ tb.tick) ∨ f.cond = 2 ∧ (r = true ↔ ta.tick < tb.tick) ∨
        f.cond = 3 ∧ (r = true ↔ ta.tick ≤ tb.tick) ∨ f.cond = 4 ∧ (r = true ↔ tb.tick < ta.tick) ∨
        f.cond = 5 ∧ (r = true ↔ tb.tick ≤ ta.tick) ∨ f.cond = 6 ∧ r = (t.t f.a.toNat).l ∨ f.cond = 7 ∧ r = (t.t f.a.toNat).a ∨
        f.cond = 8 ∧ r = (t.t f.a.toNat).e ∨ f.cond = 9 ∧ r = ta.p) ∨
       s.det k = true ∧
      (f.cond = 0 ∧ (r = true ↔ f.a = f.b) ∨ f.cond = 1 ∧ (r = true ↔ f.a ≠ f.b) ∨ f.cond = 2 ∧ (r = true ↔ f.a.toNat < f.b.toNat) ∨
        f.cond = 3 ∧ (r = true ↔ f.a.toNat ≤ f.b.toNat) ∨ f.cond = 4 ∧ (r = true ↔ f.b.toNat < f.a.toNat) ∨
        f.cond = 5 ∧ (r = true ↔ f.b.toNat ≤ f.a.toNat) ∨ f.cond = 6 ∧ r = false ∨ f.cond = 7 ∧ r = (t.t f.a.toNat).a ∨
        f.cond = 8 ∧ r = false ∨ f.cond = 9 ∧ r = true)) →
      Does 0x9F f k s (exec (.tcmp f) s) (putBit s k d f.bit r)) ∧
    (f.m ≠ 0 → reservedBad 0x9F f = false → replaying s k = false → s.beat.threads = [k] → mayRun s k = true → asyncDue t = none →
      refusalDue s k 0x9F f = false → exec (.tcmp f) s = .next (takeFlt s k { cause := 1, sub := 2 }))) ∧
  (∀ (s : State) (k i : Nat) (f : Fields),
    let t := s.thr k
    (nfind t.bound i = none → (t.t i).p = false → (t.t i).e = false → (t.readT i).p = true ∧ (t.readT i).tick = 0) ∧
    (((t.t i).p = true ∨ (t.t i).e = true) → t.readT i = t.t i) ∧
    (t.knownT i = true ↔ (t.t i).p = true ∨ (t.t i).e = true ∨ nfind t.bound i = none) ∧
    (operandsReady s k 0x9E f = true → replaying s k = false → s.det k = false → guardPasses t f = true →
      t.knownT f.a.toNat = true ∧ (t.readT f.a.toNat).tick ≤ s.nowOf k + (t.x f.b.toNat).toNat ∧
        (f.m ≠ 0 → nfind t.bound f.a.toNat = none)))

/-! ### Loads, stores and atomics at their word (spec/09, spec/11) -/

/-- A load whose checks pass starts (R196, R198, R200): a return takes the next number, with the address, the bytes, the destination and the time
register of its word; its registers are pending, its time register is zero and bound to it, the load counter steps up, LDA holds later memory
words; nothing is read or written yet, and no register or byte of memory changes, and, where the damper sets no limit
(R354), nothing of any other thread. A failed check is a capability or an alignment fault. The model's own choices that it rests on: log 4. -/
def Obligations.LoadsStart : Prop :=
  ∀ (s : State) (k : Nat) (f : Fields) (i : Fields → Instr) (op bytes : Nat) (acq : Bool),
    (i, op, bytes, acq) ∈ [(Instr.ld8, 0x90, 1, false), (Instr.ld16, 0x91, 2, false), (Instr.ld32, 0x92, 4, false), (Instr.ld64, 0x93, 8, false),
      (Instr.ld128, 0x94, 16, false), (Instr.probe, 0x95, 1, false), (Instr.lda32, 0x97, 4, true), (Instr.lda64, 0x98, 8, true)] →
    let c := (s.thr k).cap (4 * f.a.toNat)
    let a := (c.cursor + ((s.thr k).x f.b.toNat).toNat) % 2 ^ 52
    let n := if f.d = 0 then 0 else max 1 (bytes / 4)
    (∀ x, accessFault s k c permLD a bytes bytes = some x → Alone s k op f → exec (i f) s = .next (takeFlt s k x)) ∧
    (accessFault s k c permLD a bytes bytes = none → Alone s k op f → ∃ u r, exec (i f) s = .next (wentOn op f s k u) ∧
      nfind u.rets s.ids = some r ∧ r.th = k ∧ r.dst = f.d.toNat ∧ r.n = n ∧ r.treg = some f.time ∧ r.counter = .loads ∧ r.space = c.space ∧
      r.va = a ∧ r.bytes = bytes ∧ (op = 0x95 ↔ r.kind = .probe) ∧
      u.ids = s.ids + 1 ∧ SameMemory s u ∧ u.upds = s.upds ∧
      (u.thr k).regs = (s.thr k).regs ∧ (u.thr k).loads = (s.thr k).loads + 1 ∧ (u.thr k).t f.time = {} ∧
      nfind (u.thr k).bound f.time = some s.ids ∧ (u.thr k).acquire = (if acq then some s.ids else (s.thr k).acquire) ∧
      (∀ j, nfind (u.thr k).pend j = if f.d ≠ 0 ∧ f.d.toNat ≤ j ∧ j < f.d.toNat + n then some s.ids else nfind (s.thr k).pend j) ∧
      ((s.cluster (s.coreOf k / 4)).grant = none → (s.cluster (s.coreOf k / 4)).nextGrant = none →
        (∀ j, j ≠ k → nfind u.threads j = nfind s.threads j) ∧ ∀ j, j ≠ s.ids → nfind u.rets j = nfind s.rets j))

/-- A store or an atomic whose checks pass starts (R227, R228, R230, R241, R244): an update takes the next number, with the key of the address, the bytes of
the source or the operands, its scope and V; in a deterministic launch it is staged, else it holds the store counter and its time register, which in an
atomic with a return its return holds; memory does not change yet. A failed check of the capability, the alignment or the page faults the thread before anything is done; a page
that is not known holds the thread at its word. Where the update needs an entry of its die's porch and none is free, the thread is not ready (R236).
The model's own choices that it rests on: log 14, 83. -/
def Obligations.UpdatesStart : Prop :=
  ∀ (s t : State) (k key : Nat) (f : Fields) (i : Fields → Instr) (op bytes n : Nat) (perm : BitVec 6),
    ((i, op, bytes, n, perm) ∈ [(Instr.st8, 0xA0, 1, 0, permST), (Instr.st16, 0xA1, 2, 0, permST), (Instr.st32, 0xA2, 4, 0, permST),
        (Instr.st64, 0xA3, 8, 0, permST), (Instr.st128, 0xA4, 16, 0, permST), (Instr.stl32, 0xA5, 4, 0, permST), (Instr.stl64, 0xA6, 8, 0, permST),
        (Instr.stz, 0xA7, 64, 0, permST), (Instr.amm, 0xA9, 4, 1, permAT), (Instr.alog, 0xAA, 4, 1, permAT),
        (Instr.acas32, 0xAB, 4, 2, permAT), (Instr.acas64, 0xAC, 8, 4, permAT), (Instr.ainc, 0xAE, 4, 1, permAT)] ∨
      (i, op, bytes, n, perm) = (Instr.aadd, 0xA8, (if f.m = 3 then 8 else 4), (if f.m = 3 then 2 else 1), permAT) ∨
      (i, op, bytes, n, perm) = (Instr.afmm, 0xAD, (if 2 ≤ f.m.toNat then 8 else 4), (if 2 ≤ f.m.toNat then 2 else 1), permAT)) →
    let c := (s.thr k).cap (4 * f.a.toNat)
    let a := (c.cursor + ((s.thr k).x f.b.toNat).toNat) % 2 ^ 52
    let stage := s.det k && (c.space == 0 || c.space == 4 || decide (0xA8 ≤ op))
    (replaying s k = false → accessFault s k c perm a bytes bytes = none → stage = false → guardPasses (s.thr k) f = true → keyKnown s k c.space a = some key →
      porchFull s (s.dieOf k) key = true → operandsReady s k op f = false) ∧
    (∀ x, Alone s k op f → accessFault s k c perm a bytes bytes = some x → exec (i f) s = .next (takeFlt s k x)) ∧
    (Alone s k op f → accessFault s k c perm a bytes bytes = none →
      (∀ x, resolve s k c.space a = .fault x → exec (i f) s = .next (takeFlt s k x)) ∧
      (resolve s k c.space a = .hold t → exec (i f) s = .next t) ∧
      (resolve s k c.space a = .key t key → (stage = true ∨ porchFull t (t.dieOf k) key = false) → ∃ u id v, exec (i f) s = .next (wentOn op f s k u) ∧
        s.ids ≤ id ∧ nfind u.upds id = some v ∧ v.th = some k ∧ v.key = key ∧ v.va = a ∧ v.bytes = bytes ∧ v.scope = f.scope ∧
        (op < 0xA8 → v.v = f.v ∧
          v.kind = .store (if f.d = 0 then bytesOfNat 0 bytes else bytesOfNat ((s.thr k).q f.d.toNat).toNat bytes)
            (op == 0xA4 && c.space == 1 && c.has permCS && (s.thr k).tags.contains (f.d.toNat / 4))) ∧
        (op < 0xA8 ∨ f.d = 0 →
          (stage = true → (u.thr k).t f.time = { p := true, tick := s.startOf k }) ∧
          (stage = false → v.treg = some f.time ∧ (u.thr k).t f.time = {} ∧ nfind (u.thr k).bound f.time = some id)) ∧
        (0xA8 ≤ op → v.v = true ∧ v.kind = .atomic (op - 0xA0) f.m.toNat ((List.range n).map fun j => (s.thr k).x (f.b.toNat + 1 + j)) ∧
          (f.d ≠ 0 → ∃ r w, v.ret = some r ∧ nfind u.rets r = some w ∧ w.kind = .atomic ∧ w.dst = f.d.toNat ∧ w.n = bytes / 4 ∧
            w.treg = some f.time ∧ (u.thr k).t f.time = {} ∧ nfind (u.thr k).bound f.time = some r ∧ nfind (u.thr k).pend f.d.toNat = some r)) ∧
        (stage = true → v.phase = .staged ∧ (u.thr k).stores = (s.thr k).stores) ∧
        (stage = false → v.counted = true ∧ (u.thr k).stores = (s.thr k).stores + 1) ∧
        SameMemory s u ∧ (u.thr k).regs = (s.thr k).regs ∧ (u.thr k).mode = (s.thr k).mode ∧ (u.thr k).status = (s.thr k).status ∧
        (∀ j, j ≠ id → nfind u.upds j = nfind s.upds j)))

/-- ADRAIN: outside deterministic mode it goes on once every store of its thread has retired; in it the thread arrives, and the stair releases what
the group has staged when all have (R243).

The stair's ticket passes to the next group once the group at the ticket has ended (R245), and a pin of PROBE ends after its last tick (R198). -/
def Obligations.StairAndPins : Prop :=
  (∀ (s : State) (k : Nat) (f : Fields),
    (s.det k = false → Does 0xAF f k s (exec (.adrain f) s) s) ∧
    (operandsReady s k 0xAF f = true → replaying s k = false → s.det k = false → guardPasses (s.thr k) f = true → (s.thr k).stores = 0) ∧
    (∀ u, s.det k = true → u = s.modGrp (k / 2048) (fun g => { g with drain := sput g.drain k }) → Alone s k 0xAF f →
      (drainDue u (k / 2048) = false → exec (.adrain f) s = .next u) ∧
      (drainDue u (k / 2048) = true → exec (.adrain f) s = .next (stair u (k / 2048))))) ∧
  (∀ (s : State) (l id : Nat),
    (∀ x, nfind s.launches l = some x → x.kernel.det = true → x.startTick ≠ none → x.ticket < x.gx * x.gy * x.gz → x.ticket ∉ x.todo →
      (∀ p ∈ s.groups, p.2.launch ≠ l ∨ p.2.index ≠ x.ticket) →
      exec (.stairTicketPass l) s = .next (s.modLch l fun x => { x with ticket := x.ticket + 1 })) ∧
    (∀ p q, nfind s.pins id = some (p, q) → q < s.now → exec (.probePinExpiry id) s = .next { s with pins := ndel s.pins id }) ∧
    (∀ p q, nfind s.pins id = some (p, q) → s.now ≤ q → exec (.probePinExpiry id) s = .next s))

/-! ### The steps of the memory paths (spec/09, spec/11) -/

/-- LEHR_APPLY: a store or an atomic takes effect at its tick: the bytes at its key become its data, or the new value of Table 11.5 of the old
value and the operands, and every other byte stays; the old value goes to an atomic's return; before the tick nothing happens (R230, R232,
R241). One that names a tile in use waits for it (R292), one whose frame has been put out of use is refused (R240); a table entry's update moves frame
counts with it, which stand in memory (R395).

What an atomic makes of an old value (Table 11.5): sums modulo 2^32 and 2^64, saturated and rounded to nearest; least and greatest, of FP32 too and of
a value with its index; logic; exchange; compare and swap; the wrapping counters. -/
def Obligations.UpdateApplied : Prop :=
  (∀ (s : State) (id c : Nat) (u : Upd), nfind s.upds id = some u → u.phase = .lehr c →
    (s.now < c → exec (.lehrApply id) s = .next s) ∧
    (c ≤ s.now → u.stale = false → (inBusyTile s u.key u.bytes = false ∨ u.xfer ≠ none) → (∀ op v, u.kind ≠ .bar op v) →
      ∃ t v, exec (.lehrApply id) s = .next t ∧ nfind t.upds id = some v ∧ (∃ back, v.phase = .applied back) ∧
      v.c = some (max s.now (u.c.getD 0)) ∧
      (∀ data tag, u.kind = .store data tag → SameMemoryBut u.key data.length s t ∧
        rdBytes t u.key data.length = data ∧ (tag = true → u.key / 16 ∈ t.memTags)) ∧
      (∀ op m args, u.kind = .atomic op m args → poisonedAt s u.key u.bytes = false → (u.bytes = 4 ∨ u.bytes = 8) →
        SameMemoryBut u.key u.bytes s t ∧
        rdBytes t u.key u.bytes = atomicBytes op m u.bytes args (rdNat s u.key u.bytes) ∧
        ∀ r w, u.ret = some r → nfind s.rets r = some w → ∃ w', nfind t.rets r = some w' ∧ w'.data = rdBytes s u.key u.bytes) ∧
      (∀ e, u.kind = .pte e → inCounts u.key 8 = false →
        rdNat t u.key 8 = e.toNat ∧
          ∀ b, b < u.key ∨ u.key + 8 ≤ b → inCounts b 1 = false → Memory.read t.mem b = Memory.read s.mem b) ∧
      (∀ e old, u.kind = .pte e → inCounts u.key 8 = false → old = BitVec.ofNat 64 (rdNat s u.key 8) →
        (pteV old = false → pteV e = true → pteState e ≤ 2 → inStack (pteFrame e) = true → countsAt u.key e = true →
          t.count (pteFrame e) = min (s.count (pteFrame e) + 1) 65535) ∧
        (pteV e = false → pteV old = true → pteState old ≤ 2 → inStack (pteFrame old) = true → countsAt u.key old = true →
          t.count (pteFrame old) = if s.count (pteFrame old) = 65535 then 65535 else s.count (pteFrame old) - 1))) ∧
    (c ≤ s.now → inBusyTile s u.key u.bytes = true → u.xfer = none → ∃ t v, exec (.lehrApply id) s = .next t ∧ SameMemory s t ∧
      nfind t.upds id = some v ∧ v.phase = .blocked ∧ v.c = none ∧ v.told = false) ∧
    (c ≤ s.now → (inBusyTile s u.key u.bytes = false ∨ u.xfer ≠ none) → u.stale = true →
      exec (.lehrApply id) s = exec (.storeRefusal id 1) s)) ∧
  (∀ (o v w : Word) (a b : Double) (x0 x1 x2 x3 : Word),
    atomic32 0x8 0 o v w = BitVec.ofNat 32 (o.toNat + v.toNat) ∧
    (atomic32 0x8 1 o v w).toInt = max (-2 ^ 31) (min (o.toInt + v.toInt) (2 ^ 31 - 1)) ∧
    atomic32 0x8 2 o v w = BitVec.ofNat 32 (fp32.round .rne false (addR false (fp32.read false o.toNat) (fp32.read false v.toNat))) ∧
    (∀ m, m < 2 → atomic32 0xD m o v w = BitVec.ofNat 32 (fp32.minNum (m == 1) o.toNat v.toNat)) ∧
    (∀ m p, 2 ≤ m → m < 4 → p = fp32.pick (m == 2) (a.toNat % 2 ^ 32, a.toNat / 2 ^ 32) (x0.toNat, x1.toNat) →
      atomic64 0xD m a [x0, x1] = BitVec.ofNat 32 p.2 ++ BitVec.ofNat 32 p.1) ∧
    (atomic32 0x9 0 o v w).toInt = min o.toInt v.toInt ∧ (atomic32 0x9 1 o v w).toInt = max o.toInt v.toInt ∧
    (atomic32 0x9 2 o v w).toNat = min o.toNat v.toNat ∧ (atomic32 0x9 3 o v w).toNat = max o.toNat v.toNat ∧
    atomic32 0xA 0 o v w = o &&& v ∧ atomic32 0xA 1 o v w = o ||| v ∧ atomic32 0xA 2 o v w = o ^^^ v ∧ atomic32 0xA 3 o v w = v ∧
    atomic32 0xB 0 o v w = (if o = v then w else o) ∧
    atomic32 0xE 0 o v w = (if v.toNat ≤ o.toNat then 0 else o + 1) ∧
    atomic32 0xE 1 o v w = (if o = 0 ∨ v.toNat < o.toNat then v else o - 1) ∧
    (atomic64 0x8 3 a [x0, x1]).toNat = (a.toNat + x1.toNat * 2 ^ 32 + x0.toNat) % 2 ^ 64 ∧
    (b = x1 ++ x0 → atomic64 0xC 0 a [x0, x1, x2, x3] = if a = b then x3 ++ x2 else a))

/-- The course of an update: it arrives at its home when its way is free, and its tick is the latest of now, the lease on its line, its not-before tick
and the tick after every application held for the line (R232, R203, R234); at a crossbar port it is applied on arrival, and beyond a port the far end's
acknowledgement is the tick (Table 11.2); its completion becomes known and is written to its time register, as its home's die keeps it (R26); it
retires, and its counter steps down (R230); a porch sends in sequence order (R236), and its acknowledgement retires it; one that a port acknowledged at a scope below 6 waits for the far end, without its counter (R251). The model's own choices that it rests on: log 7. -/
def Obligations.UpdateCourse : Prop :=
  ∀ (s : State) (id : Nat) (u : Upd), nfind s.upds id = some u →
    (∀ tick, u.phase = .travel tick →
      (s.now < tick → exec (.lehrArrival id) s = .next s) ∧
      (tick ≤ s.now → u.ungranted = false → behind s id u = false → inBusyTile s u.key u.bytes = false → u.stale = false → frameFree s u.key = false →
        (∀ d, homeOf u.key = .die d → lehrCount s d < 4096) → ∃ t v, nfind t.upds id = some v ∧ SameMemory s t ∧
          ((∀ x, homeOf u.key ≠ .sram x) → exec (.lehrArrival id) s = .next t) ∧
          (∀ x, homeOf u.key = .sram x → exec (.lehrArrival id) s = exec (.lehrApply id) t) ∧
          (∀ x c, homeOf u.key = .sram x → c = max s.now u.notBefore → v.phase = .lehr c ∧ v.c = some c) ∧
          (farApplied u = true → ∃ c, v.phase = .lehr c ∧ v.c = some c ∧ s.now ≤ c) ∧
          ((∀ x, homeOf u.key ≠ .sram x) → farApplied u = false →
            ∀ c, c = max (max s.now (if homeIsDie (homeOf u.key) then nget s.leases (u.key / 64) 0 else 0))
              (max u.notBefore (lineAfter s (u.key / 64))) → v.phase = .lehr c ∧ v.c = some c))) ∧
    (∀ c n k, u.c = some c → u.knownAt = some n → u.th = some k → n ≤ s.now → u.told = false →
      ∃ t, exec (.storeCompletionKnown id) s = .next t ∧ SameMemory s t ∧ (t.thr k).regs = (s.thr k).regs ∧
        ∀ i, u.treg = some i → nfind (s.thr k).bound i = some id → (∃ th, nfind s.threads k = some th) →
          ((t.thr k).t i).p = true ∧ ((t.thr k).t i).tick = s.onDie (keeper u) c) ∧
    (∀ back k, u.phase = .applied back → offDie u.die u.key = false → back ≤ s.now → u.th = some k → u.counted = true →
      sameWord { s with upds := ndel s.upds id } u = none → (s.grp (k / 2048)).releasing.contains id = false → (∃ th, nfind s.threads k = some th) →
      ∃ t, exec (.storeRetire id) s = .next t ∧ nfind t.upds id = none ∧ (t.thr k).stores = (s.thr k).stores - 1 ∧ SameMemory s t ∧
        (t.thr k).regs = (s.thr k).regs) ∧
    (∀ back k, u.phase = .applied back → offDie u.die u.key = true → 0 < back → back ≤ s.now → u.th = some k →
      ∃ t, exec (.porchAck id) s = .next t ∧ SameMemory s t ∧
        ((6 ≤ u.scope ∨ homeOf u.key ≠ .pool ∧ homeOf u.key ≠ .host) → nfind t.upds id = none) ∧
        (u.scope < 6 → (homeOf u.key = .pool ∨ homeOf u.key = .host) → ∃ v tick, nfind t.upds id = some v ∧ v.phase = .far tick ∧ s.now ≤ tick ∧
          v.counted = false ∧ v.treg = none) ∧
        (u.counted = true → sameWord { s with upds := ndel s.upds id } u = none → (s.grp (k / 2048)).releasing.contains id = false →
          (∃ th, nfind s.threads k = some th) → (t.thr k).stores = (s.thr k).stores - 1)) ∧
    (∀ die home, porchNext s die home = some id → s.lostSends.contains (u.die, homeOf u.key) = false →
      ∃ t v tick, exec (.porchSend die home) s = .next t ∧ nfind t.upds id = some v ∧ v.sent = some s.now ∧ v.replays = 0 ∧ v.phase = .travel tick ∧
        s.now + (match homeOf u.key with | .die d => if d = u.die then 12 else 140 | .sram _ => 2 | _ => 24) ≤ tick ∧ SameMemory s t)

/-- A porch that hears nothing (R239, R434): an entry is replayed 1,024 ticks apart, at most eight times; after 9,216 ticks its home is seized and a record
written; firmware then posts the acknowledgement of an entry that was applied, orders the entries sent again, or declares the home lost, which
refuses them. The model's own choices that it rests on: log 24. -/
def Obligations.PorchRecovery : Prop :=
  ∀ (s : State) (id t0 die : Nat) (u : Upd) (h : Home), nfind s.upds id = some u → u.sent = some t0 →
    (u.phase = .porch → u.replays < 8 → t0 + 1024 * (u.replays + 1) ≤ s.now → ∃ t v, exec (.porchReplay id) s = .next t ∧
      nfind t.upds id = some v ∧ v.replays = u.replays + 1 ∧ SameMemory s t) ∧
    (u.phase = .porch → s.now < t0 + 1024 * (u.replays + 1) → exec (.porchReplay id) s = .next s) ∧
    (u.phase = .porch → t0 + 9216 ≤ s.now → (s.die u.die).seized.contains (homeOf u.key) = false →
      ∃ t, exec (.porchSeize id) s = .next t ∧ (t.die u.die).seized.contains (homeOf u.key) = true ∧
        ((s.die (u.die)).mcq.length < 256 → ∃ r, r ∈ (t.die u.die).mcq ∧ r.cause = 4 ∧ r.die = u.die ∧ r.aux = BitVec.ofNat 32 u.seq)) ∧
    ((s.die die).seized.contains h = false →
      exec (.porchPostAck die h) s = .next s ∧ exec (.porchResend die h) s = .next s ∧ exec (.homeLost die h) s = .next s) ∧
    ((s.die die).seized.contains h = true → seizedEntry s die h = some (id, u) →
      (∀ back, u.phase = .applied back → ∃ t, exec (.porchPostAck die h) s = .next t ∧ (t.die die).seized.contains h = false ∧
        ((6 ≤ u.scope ∨ h ≠ .pool ∧ h ≠ .host) → nfind t.upds id = none) ∧
        (u.scope < 6 → (h = .pool ∨ h = .host) → ∃ v tick, nfind t.upds id = some v ∧ v.phase = .far tick ∧ v.counted = false)) ∧
      (u.phase = .porch → porchQueue s die h = [id] → ∃ t v, exec (.porchResend die h) s = .next t ∧ (t.die die).seized.contains h = false ∧
        nfind t.upds id = some v ∧ v.sent = none ∧ SameMemory s t) ∧
      (u.phase = .porch → porchQueue s die h = [id] → ∃ t, exec (.homeLost die h) s = .next t ∧ (t.die die).seized.contains h = false ∧
        nfind t.upds id = none ∧ SameMemoryBut (2 * 2 ^ 48) (2 ^ 48 + 32) s t))

/-- A refusal (R240, Table 11.8): an update that its home has not applied goes without effect; its time register receives P and the tick, its
thread holds the word's index, the address and the code of the first refusal, and counts the further ones; its home writes a record.
One that was applied is not refused. Events in host memory apart, no byte changes. The model's own choices that it rests on: log 22, 88. -/
def Obligations.Refusals : Prop :=
  ∀ (s : State) (id code k : Nat) (u : Upd), nfind s.upds id = some u → u.th = some k → 1 ≤ code → code ≤ 5 →
    let die := match homeOf u.key with | .die d => d | _ => u.die
    (∀ th, u.unapplied = true → u.ret = none → u.xfer = none → nfind s.threads k = some th →
      ∃ t, exec (.storeRefusal id code) s = .next t ∧ nfind t.upds id = none ∧
        SameMemoryBut (2 * 2 ^ 48) (2 ^ 48 + 32) s t ∧
        (th.refusal = none → (t.thr k).refusal = some { pc := u.pc, addr := u.va, cause := code, more := 0 }) ∧
        (∀ r, th.refusal = some r → (t.thr k).refusal = some { r with more := r.more + 1 }) ∧
        (∀ i, u.treg = some i → nfind th.bound i = some id →
          ((t.thr k).t i).p = true ∧ ((t.thr k).t i).e = false ∧ ((t.thr k).t i).tick = s.nowOn (keeper u)) ∧
        ((s.die die).mcq.length < 256 → ∃ r, r ∈ (t.die die).mcq ∧ r.cause = 5 ∧ r.die = die ∧ r.who = th.owner ∧
          r.unit = if code = 4 then 3 else 0)) ∧
    (u.unapplied = false → exec (.storeRefusal id code) s = .next s)

/-- The course of a load: a promise that becomes known is written to the time register the load is bound to, or an estimate that nothing
constrains (R205, R206); PROBE then lands with its source and pins its line (R198); at its read point a load takes the bytes of memory, with porch entries
and its own stores over them (R201, R202, R237); the value lands at its tick, in registers that are then no
longer pending, the counter steps down and the binding ends (R196, R193); a poisoned value poisons its registers and leaves them as they were (R214).

A promise that is broken before it is kept (R212, R213): its time register receives L and the revised tick, the thread's late counter steps up to its
limit, LATE is set, and the late trap falls due where the mode asks for it; the access is booked at the revised tick, which is no earlier than what broke it allows. An event breaks no promise of a path
that it cannot touch, and none of an access that had given only an estimate. A firm promise replaces a bounded path's estimate 400 ticks after the issue.
The model's own choices that it rests on: log 7, 8. -/
def Obligations.LoadCourse : Prop :=
  (∀ (s : State) (id : Nat) (r : Ret) (th : Thread), nfind s.rets id = some r → nfind s.threads r.th = some th →
    (∀ known read land, r.phase = .probe known read land → (r.kind ≠ .probe ∨ r.est = true) → known ≤ s.now →
      ∃ t w, exec (.promiseKnown id) s = .next t ∧ nfind t.rets id = some w ∧ w.phase = (if r.key = none then .await else .booked read land) ∧ SameMemory s t ∧
        (t.thr r.th).regs = th.regs ∧ ∀ i, r.partOf = none → r.treg = some i → nfind th.bound i = some id →
          (r.est = false → ((t.thr r.th).t i).p = true ∧
            ((t.thr r.th).t i).tick = max (s.nowOn (dieOfCore r.core)) (s.onDie (dieOfCore r.core) land)) ∧
          (r.est = true → ((t.thr r.th).t i).e = true)) ∧
    (∀ known read land, r.phase = .probe known read land → r.kind = .probe → r.est = false → known ≤ s.now → r.discard = false → r.n = 1 → r.dst ≠ 0 →
      ∃ t, exec (.promiseKnown id) s = .next t ∧ (t.thr r.th).x r.dst = BitVec.ofNat 32 r.source ∧ SameMemory s t ∧
        (∀ d, homeOf (r.key.getD 0) = .die d →
          nfind t.pins (r.key.getD 0 / 64 * 1024 + (if d = dieOfCore r.core ∧ r.hint ≠ 2 then r.core else 1023)) =
            some (land, land + (s.lchOf r.th).lease) ∧
          ∃ w, nfind t.rets id = some w ∧ w.phase = .booked land land ∧ w.n = 0 ∧ w.treg = none) ∧
        ((∀ d, homeOf (r.key.getD 0) ≠ .die d) → nfind t.rets id = none)) ∧
    (∀ read land key, r.phase = .booked read land → r.key = some key → r.kind ≠ .probe →
      (s.now < read → readPoint id s = s) ∧
      (read ≤ s.now → poisonedAt s key r.bytes = false → ∃ w, nfind (readPoint id s).rets id = some w ∧ w.phase = .read land ∧
        w.data = overlayOwn s r.th id key (forwarded s r.fwd key (rdBytes s key r.bytes)) ∧ SameMemory s (readPoint id s))) ∧
    (∀ read land, r.phase = .booked read land → r.est = true → r.issued + 400 ≤ s.now → r.bounded = true → r.kind = .probe → r.discard = false →
      r.n = 1 → r.dst ≠ 0 → ∃ t, exec (.firmPromise id) s = .next t ∧ (t.thr r.th).x r.dst = BitVec.ofNat 32 r.source ∧ SameMemory s t) ∧
    (∀ read land, r.phase = .booked read land → r.est = true → r.issued + 400 ≤ s.now → r.bounded = true → r.kind ≠ .probe →
      ∃ t w, exec (.firmPromise id) s = .next t ∧ nfind t.rets id = some w ∧ w.est = false ∧
        ∀ i, r.partOf = none → r.treg = some i → nfind th.bound i = some id → ((t.thr r.th).t i).p = true ∧ ((t.thr r.th).t i).e = false ∧
          ((t.thr r.th).t i).tick = s.onDie (dieOfCore r.core) land) ∧
    (∀ land acq tagged ws, r.phase = .read land → r.kind = .load acq tagged → land ≤ s.now → r.discard = false → r.dst ≠ 0 → ws = wordsOf r.data →
      r.n ≤ ws.length → ∃ t, exec (.loadDelivery id) s = .next t ∧ nfind t.rets id = none ∧ SameMemory s t ∧
        (t.thr r.th).loads = (if r.counter = .loads then th.loads - 1 else th.loads) ∧
        (∀ j, nfind (t.thr r.th).pend j ≠ some id) ∧ (∀ i, r.treg = some i → nfind (t.thr r.th).bound i ≠ some id) ∧
        (r.poisoned = false → ∀ j, j < r.n → (t.thr r.th).x (r.dst + j) = ws.getD j 0) ∧
        (r.poisoned = true → (t.thr r.th).regs = th.regs ∧ ∀ j, j < r.n → r.dst + j ∈ (t.thr r.th).poison) ∧
        (t.thr r.th).acquire ≠ some id) ∧
    (∀ land, r.phase = .read land → r.kind = .atomic → land ≤ s.now → r.discard = false → r.dst ≠ 0 → r.poisoned = false →
      r.n ≤ (wordsOf r.data).length → ∃ t, exec (.atomicReturn id) s = .next t ∧ nfind t.rets id = none ∧ SameMemory s t ∧
        ∀ j, j < r.n → (t.thr r.th).x (r.dst + j) = (wordsOf r.data).getD j 0) ∧
    (∀ key x es, r.phase = .blocked → r.key = some key → serveOf s id r key = .go x es →
      exec (.bookingRetry id) s = .next (bookOn s id r key x es)) ∧
    (∀ tick left, r.phase = .retry tick left → (s.now < tick ∨ r.key = none) → exec (.bookingRetry id) s = .next s)) ∧
  (∀ (s : State) (id : Nat) (b : Break) (r : Ret) (th : Thread), nfind s.rets id = some r → nfind s.threads r.th = some th →
    (r.est = true → exec (.brokenPromise id b) s = .next s) ∧
    ((∀ key, r.key = some key → breaksRet b r key = false) → exec (.brokenPromise id b) s = .next s) ∧
    (∀ read land key, r.est = false → r.phase = .booked read land → r.key = some key → breaksRet b r key = true → r.partOf = none →
      (∀ p ∈ s.rets, id < p.1 → p.2.partOf = none) → ∃ t w x y, exec (.brokenPromise id b) s = .next t ∧
      nfind t.rets id = some w ∧ w.late = true ∧ w.phase = .booked x y ∧ s.now + b.delay ≤ y ∧
      (r.kind = .atomic → x = read) ∧ (r.kind ≠ .atomic → max read (s.now + b.delay - (land - read)) ≤ x) ∧
      (t.thr r.th).regs = th.regs ∧
      (∀ i, r.treg = some i → nfind th.bound i = some id →
        ((t.thr r.th).t i).l = true ∧ ((t.thr r.th).t i).tick = s.onDie (dieOfCore r.core) y) ∧
      ((∀ p ∈ s.rets, id < p.1 → p.2.th ≠ r.th) → (t.thr r.th).late = min (th.late + 1) 65535 ∧
        (t.thr r.th).status = th.status ||| 4 ∧ (t.thr r.th).pendLate = (th.pendLate || th.mode.getLsbD 3))))

/-! ### Class 0xB (spec/12) -/

/-- FENCE and WAITC: once their waits have ended FENCE reports the tick and WAITC does nothing (R249, R251, R253); a FENCE.all at a scope of 1 or more is
ready only when every earlier store and atomic of its thread has completed at that scope and every load has delivered; WAITC only when each
counter is at its threshold or below.

ROWSYNC waits for the rest of its row and the last to arrive releases all of it (R262); CNTREAD and CNTWAIT read the counter of a level of work, and a
handle that names no record reads as ones and waits for nothing (R264); a parked thread wakes at its tick, or when what it waits for holds, and
goes on (R102), PARK's 16 ticks before it and then stalled until it (R101); the bar of YIELD runs out (R92). The model's own choices that it rests
on: log 43, 96. -/
def Obligations.FencesCountersWakes : Prop :=
  (∀ (s : State) (k : Nat) (f : Fields),
    let n := fenceTick s k f.m.toNat f.scope
    (n ≤ s.now ∧ (f.scope = 0 → n = s.now) ∧ ((s.thr k).stood = s.now → n = s.now)) ∧
    Does 0xB0 f k s (exec (.fence f) s) (s.modThr k fun t =>
      t.setT f.time { p := true, e := false, a := false, l := false, tick := s.onDie (s.dieOf k) n }) ∧
    Does 0xB1 f k s (exec (.waitc f) s) s ∧
    (operandsReady s k 0xB0 f = true → replaying s k = false → guardPasses (s.thr k) f = true → f.m = 0 → 1 ≤ f.scope →
      (s.thr k).loads = 0 ∧ ∀ p ∈ s.upds, p.2.th = some k → p.2.fenced s.now f.scope = true) ∧
    (operandsReady s k 0xB1 f = true → replaying s k = false → guardPasses (s.thr k) f = true → f.imm18.toNat % 16 < 14 → (s.thr k).loads ≤ f.imm18.toNat % 16) ∧
    (operandsReady s k 0xB1 f = true → replaying s k = false → guardPasses (s.thr k) f = true → f.imm18.toNat / 16 % 16 < 14 →
      (s.thr k).stores ≤ f.imm18.toNat / 16 % 16) ∧
    (operandsReady s k 0xB1 f = true → replaying s k = false → guardPasses (s.thr k) f = true → f.imm18.toNat / 256 % 16 < 14 →
      (s.thr k).copies ≤ f.imm18.toNat / 256 % 16) ∧
    (operandsReady s k 0xB1 f = true → replaying s k = false → guardPasses (s.thr k) f = true → f.imm18.toNat / 4096 % 16 < 14 →
      (s.thr k).passes ≤ f.imm18.toNat / 4096 % 16)) ∧
  (∀ (s : State) (k n : Nat) (f : Fields),
    let t := s.thr k
    (Alone s k 0xBD f → (∃ j ∈ threadsOf s (k / 2048), j ≠ k ∧ rowOf j = rowOf k ∧ (s.thr j).life ≠ .exited ∧ (s.thr j).wait ≠ .row) →
      exec (.rowsync f) s = .next (s.modThr k fun t => { t with wait := .row })) ∧
    (Alone s k 0xBD f → k ∈ threadsOf s (k / 2048) →
      (∀ j ∈ threadsOf s (k / 2048), j ≠ k → rowOf j = rowOf k → (s.thr j).life = .exited ∨ (s.thr j).wait = .row) →
      ∃ u, exec (.rowsync f) s = .next u ∧ SameMemory s u ∧ ∀ j ∈ threadsOf s (k / 2048), rowOf j = rowOf k → (s.thr j).life ≠ .exited →
        (u.thr j).wait = .none ∧ (u.thr j).regs = (s.thr j).regs ∧ (u.thr j).together = s.ids) ∧
    (handleSlot s k (t.x f.a.toNat) = none → Does 0xBF f k s (exec (.cntread f) s) (put1 s k f.d.toNat 0xFFFFFFFF) ∧
      Does 0xBE f k s (exec (.cntwait f) s) s) ∧
    (∀ l, handleSlot s k (t.x f.a.toNat) = some l → n = workCount s l f.m.toNat →
      Does 0xBF f k s (exec (.cntread f) s) (put1 s k f.d.toNat (BitVec.ofNat 32 n)) ∧
      (n ≤ (t.x f.b.toNat).toNat → Does 0xBE f k s (exec (.cntwait f) s) s) ∧
      ((t.x f.b.toNat).toNat < n → Alone s k 0xBE f →
        exec (.cntwait f) s = .next (s.modThr k fun u => { u with wait := .count f.m.toNat (workOf s l f.m.toNat) (t.x f.b.toNat).toNat }))) ∧
    (∀ level work m, t.wait = .count level work m →
      (m < openOf s level work → exec (.parkWake k) s = .next s) ∧
      (openOf s level work ≤ m → exec (.parkWake k) s = .next (s.modThr k fun t => { t with wait := .fallen (s.nowOf k + 1) }))) ∧
    (∀ w, t.wait = .park w →
      (s.nowOf k + 16 < w → exec (.parkWake k) s = .next s) ∧
      (w ≤ s.nowOf k + 16 → exec (.parkWake k) s = .next (s.modThr k fun t => { t with wait := .woken w }))) ∧
    (∀ w, (t.wait = .tick w ∨ t.wait = .idle w ∨ t.wait = .woken w ∨ t.wait = .fallen w) →
      (s.nowOf k < w → exec (.parkWake k) s = .next s) ∧
      (w ≤ s.nowOf k → exec (.parkWake k) s = .next (advanceBy (s.modThr k fun t => { t with wait := .none }) k 1))) ∧
    (t.yieldBar ≤ s.curSlot (s.coreOf k) → exec (.yieldBarExpiry k) s = .next (s.modThr k fun t => { t with yieldBar := 0 })) ∧
    (s.curSlot (s.coreOf k) < t.yieldBar → exec (.yieldBarExpiry k) s = .next s))

/-- Barrier objects (R254, R255, Table 11.2): each word goes to its object's crossbar port, its ticket and its tick still to land; there BAR.INIT writes the
expected count, no arrivals and the reserved word and leaves the generation; an arrival takes the generation as its ticket and steps the
arrivals, and the last one clears them and steps the generation; a wait parks, and goes on when the generation has passed its ticket. A
capability that does not reach the object faults. -/
def Obligations.BarrierObjects : Prop :=
  (∀ (s : State) (k key : Nat) (f : Fields),
    let t := s.thr k
    let c := t.cap (4 * f.a.toNat)
    let a := (c.cursor + (t.x f.b.toNat).toNat) % 2 ^ 52
    let sent (u : State) (op : Nat) (v : Word) : Prop := SameMemory s u ∧ (u.thr k).regs = t.regs ∧ nfind (u.thr k).bound f.time = some s.ids ∧
      ∃ w tick, nfind u.upds (s.ids + 1) = some w ∧ w.kind = .bar op v ∧ w.key = key ∧ w.bytes = 16 ∧ w.th = some k ∧ w.ret = some s.ids ∧
        w.phase = .travel tick ∧ s.now + 2 ≤ tick
    (∀ x, accessFault s k c permST a 16 16 [1] = some x →
      (Alone s k 0xB2 f → exec (.barInit f) s = .next (takeFlt s k x)) ∧ (Alone s k 0xB3 f → exec (.barArr f) s = .next (takeFlt s k x)) ∧
      (Alone s k 0xB4 f → exec (.barWait f) s = .next (takeFlt s k x)) ∧ (Alone s k 0xB5 f → exec (.barArrw f) s = .next (takeFlt s k x))) ∧
    (accessFault s k c permST a 16 16 [1] = none → key = 2 ^ 52 + (s.grpOf k).cluster * 2 ^ 22 + a % 2 ^ 22 →
      (Alone s k 0xB2 f → ∃ u, exec (.barInit f) s = .next (wentOn 0xB2 f s k u) ∧ sent u 2 (t.x f.d.toNat)) ∧
      (Alone s k 0xB3 f → ∃ u, exec (.barArr f) s = .next (wentOn 0xB3 f s k u) ∧ sent u 3 0 ∧
        (f.d ≠ 0 → nfind (u.thr k).pend f.d.toNat = some s.ids)) ∧
      (Alone s k 0xB4 f → exec (.barWait f) s = .next (noteWord 0xB4 f s k none ({ s with ids := s.ids + 1 }.modThr k fun t =>
        { t.bind f.time s.ids with wait := .barrier key (some (t.x f.d.toNat)) (some f.time) (s.now + 2) }))) ∧
      (Alone s k 0xB5 f → ∃ u, exec (.barArrw f) s = .next u ∧ sent u 5 0 ∧ (u.thr k).wait = .barrier key none none 0 ∧ (u.thr k).pc = t.pc))) ∧
  (∀ (s : State) (id op c : Nat) (v : Word) (u : Upd), nfind s.upds id = some u → u.kind = .bar op v → u.phase = .lehr c → c ≤ s.now →
    inBusyTile s u.key u.bytes = false → u.stale = false →
    let word (x : State) (j : Nat) : Nat := rdNat x (u.key + 4 * j) 4
    ∃ t, exec (.lehrApply id) s = .next t ∧ nfind t.upds id = none ∧ SameMemoryBut u.key 16 s t ∧
      (op = 2 → word t 0 = v.toNat ∧ word t 1 = 0 ∧ word t 2 = word s 2 ∧ word t 3 = 0) ∧
      (op ≠ 2 → word t 0 = word s 0 ∧ word t 3 = word s 3 ∧
        (word s 0 ≤ (word s 1 + 1) % 2 ^ 32 → word t 1 = 0 ∧ word t 2 = (word s 2 + 1) % 2 ^ 32) ∧
        ((word s 1 + 1) % 2 ^ 32 < word s 0 → word t 1 = (word s 1 + 1) % 2 ^ 32 ∧ word t 2 = word s 2) ∧
        ∀ i r th, u.ret = some i → nfind s.rets i = some r → r.discard = false → r.n = 1 → r.dst ≠ 0 → nfind s.threads r.th = some th →
          ((t.thr r.th).x r.dst).toNat = word s 2)) ∧
  (∀ (s : State) (k key from_ : Nat) (ticket : Word) (treg : Option Nat), (s.thr k).wait = .barrier key (some ticket) treg from_ →
    let gen := rdNat s (key + 8) 4
    let ahead := (gen + 2 ^ 32 - ticket.toNat) % 2 ^ 32
    (s.now < from_ → exec (.parkWake k) s = .next s) ∧
    (from_ ≤ s.now → (∃ th, nfind s.threads k = some th) → (s.threads.map (·.1)).Nodup →
      (¬ (0 < ahead ∧ ahead < 2 ^ 31) → ∃ t, exec (.parkWake k) s = .next t ∧ t.thr k = s.thr k ∧ SameMemory s t) ∧
      (0 < ahead → ahead < 2 ^ 31 → ∃ t, exec (.parkWake k) s = .next t ∧ (t.thr k).wait = .none ∧ (t.thr k).regs = (s.thr k).regs ∧ SameMemory s t)))

/-- Hardware barriers (R256, R257): a thread's arrival opens an instance that covers its group, its launch's groups on the cluster or the die, or the grid, or joins
the open one; one that the open instance does not cover waits for the next. An instance that is due releases its waiters, who receive its number;
the clusters of a grid follow at their ranks, eight in each span of 64 ticks (R258), a release that crosses dies a tick later (R270). The model's own choices that it rests on: log 76. -/
def Obligations.HardwareBarriers : Prop :=
  (∀ (s : State) (k level place : Nat) (f : Fields) (i : Fields → Instr) (op : Nat),
    (i, op, level) ∈ [(Instr.barGrp, 0xB6, 0), (Instr.barClu, 0xB7, 1), (Instr.barDie, 0xB8, 2), (Instr.barGrid, 0xB9, 3)] →
    place = (match level with | 0 => k / 2048 | 1 => (s.grpOf k).cluster | 2 => s.dieOf k | _ => 0) → Alone s k op f →
    (∀ id b, openBar s level (s.grpOf k).launch place = some (id, b) → (s.grpOf k).index ∈ b.members →
      ∃ t, exec (i f) s = .next t ∧ (t.thr k).wait = .hw id false f.d.toNat ∧ (t.thr k).regs = (s.thr k).regs ∧ SameMemory s t ∧
        nfind t.hwbars id = some { b with arrived := sput b.arrived k }) ∧
    (∀ id b, openBar s level (s.grpOf k).launch place = some (id, b) → (s.grpOf k).index ∉ b.members →
      ∃ t, exec (i f) s = .next t ∧ (t.thr k).wait = .hw id true f.d.toNat ∧ t.hwbars = s.hwbars ∧ SameMemory s t) ∧
    (openBar s level (s.grpOf k).launch place = none →
      ∃ t b, exec (i f) s = .next t ∧ (t.thr k).wait = .hw s.ids false f.d.toNat ∧ nfind t.hwbars s.ids = some b ∧ b.arrived = [k] ∧
        b.level = level ∧ b.launch = (s.grpOf k).launch ∧ b.place = place ∧ b.number = barNumber s k level % 2 ^ 32 ∧ SameMemory s t ∧
        (level = 3 → b.members = List.range ((s.lchOf k).gx * (s.lchOf k).gy * (s.lchOf k).gz)) ∧ (level = 0 → b.members = [(s.grpOf k).index]) ∧
        (level = 1 ∨ level = 2 → ∀ i, i ∈ b.members ↔ ∃ p ∈ s.groups, p.2.index = i ∧ p.2.launch = (s.grpOf k).launch ∧
          (∀ x y, p.2.residency ≠ .killed x y) ∧ place = if level = 1 then p.2.cluster else p.2.cluster / 12))) ∧
  (∀ (s : State) (id : Nat) (b : HwBar), nfind s.hwbars id = some b →
    (barDue s b = false → exec (.hwBarrierRelease id) s = .next s) ∧
    (barDue s b = true → b.level ≠ 3 → ∃ t, exec (.hwBarrierRelease id) s = .next t ∧ nfind t.hwbars id = none ∧ SameMemory s t ∧
      ∀ k th d, nfind s.threads k = some th → (∀ p ∈ s.threads, p.1 = k → p.2 = th) → (s.threads.map (·.1)).Nodup → th.wait = .hw id false d → d ≠ 0 →
        (t.thr k).x d = BitVec.ofNat 32 b.number ∧ (t.thr k).wait = .none) ∧
    (barDue s b = true → b.level = 3 → ∃ t c, exec (.hwBarrierRelease id) s = .next t ∧ nfind t.hwbars id = some c ∧ c.released = some (gridTick s (waitingClusters s id)) ∧
      s.now ≤ gridTick s (waitingClusters s id) ∧ gridTick s (waitingClusters s id) ≤ s.now + 1 ∧ c.left = gridRanks b.number (waitingClusters s id) ∧ t.threads = s.threads)) ∧
  ∀ (s : State) (id cluster rank n : Nat) (b : HwBar), nfind s.hwbars id = some b → b.released = some n → nfind b.left cluster = some rank →
    (s.now < n + 64 * (rank / 8) → exec (.gridRankRelease id cluster) s = .next s) ∧
    (n + 64 * (rank / 8) ≤ s.now → ∃ t, exec (.gridRankRelease id cluster) s = .next t ∧ SameMemory s t ∧
      (∀ c, nfind t.hwbars id = some c → nfind c.left cluster = none) ∧
      ∀ k th d, nfind s.threads k = some th → (s.threads.map (·.1)).Nodup → (s.grpOf k).cluster = cluster → th.wait = .hw id false d → d ≠ 0 →
        (t.thr k).x d = BitVec.ofNat 32 b.number ∧ (t.thr k).wait = .none)

/-- Flags (R260, R261): FLAGSET is a store, or an addition without return, of its word that waits as a release does, parked at its word until its thread's earlier
loads have delivered and its earlier stores' completions are known (R250); FLAGWAIT starts a read of its flag as a
load; a read that arrives ends the wait, with its word in x[D] and the tick of its read point in the time register, where the condition holds for the
word, and else the thread waits on; a fired monitor or a poll that is due starts the next read. A read for which its thread no longer waits is
dropped (R302). The model's own choices that it rests on: log 20. -/
def Obligations.Flags : Prop :=
  (∀ (s s1 : State) (k key : Nat) (f : Fields),
    let t := s.thr k
    let c := t.cap (4 * f.a.toNat)
    let a := (c.cursor + (t.x f.b.toNat).toNat) % 2 ^ 52
    (∀ perm, perm = (if f.m = 1 then permST ||| permAT else permST) → accessFault s k c perm a 4 4 = none → Alone s k 0xBA f →
      resolve s k c.space a = .key s1 key → porchFull s1 (s1.dieOf k) key = false → releaseReady s k f.scope = true →
      ∃ u v, exec (.flagset f) s = .next (wentOn 0xBA f s k u) ∧ nfind u.upds s.ids = some v ∧ v.key = key ∧ v.bytes = 4 ∧ SameMemory s u ∧
        v.kind = (if f.m = 1 then .atomic 0x8 0 [t.x f.d.toNat] else .store (bytesOfNat (t.x f.d.toNat).toNat 4) false)) ∧
    (∀ perm, perm = (if f.m = 1 then permST ||| permAT else permST) → accessFault s k c perm a 4 4 = none → Alone s k 0xBA f →
      resolve s k c.space a = .key s1 key → porchFull s1 (s1.dieOf k) key = false → releaseReady s k f.scope = false →
      exec (.flagset f) s = .next (s.modThr k fun t => { t with wait := .release f.scope })) ∧
    (∀ n, t.wait = .release n →
      (releaseReady s k n = false → t.refusal = none → exec (.parkWake k) s = .next s) ∧
      (releaseReady s k n = true → exec (.parkWake k) s = .next (s.modThr k fun t => { t with wait := .none }))) ∧
    (1 ≤ f.scope → releaseReady s k f.scope = true → t.loads = 0 ∧ ∀ p ∈ s.upds, p.2.th = some k → p.2.xfer = none → p.2.phase ≠ .staged →
      (∀ n, p.2.phase ≠ .far n) → ∃ n, p.2.knownAt = some n ∧ n ≤ s.now) ∧
    (∀ x, accessFault s k c permLD a 4 4 = some x → Alone s k 0xBB f → exec (.flagwait f) s = .next (takeFlt s k x)) ∧
    (accessFault s k c permLD a 4 4 = none → Alone s k 0xBB f → ∃ u r, exec (.flagwait f) s = .next (noteWord 0xBB f s k none u) ∧
      (u.thr k).wait = .flag none c.space a 0 false (some s.ids) f ∧ (u.thr k).regs = t.regs ∧ nfind (u.thr k).bound f.time = some s.ids ∧
      nfind u.rets s.ids = some r ∧ r.th = k ∧ r.kind = .flag ∧ r.space = c.space ∧ r.va = a ∧ r.bytes = 4 ∧ SameMemory s u)) ∧
  (∀ (s : State) (id land : Nat) (r : Ret) (th : Thread), nfind s.rets id = some r → r.kind = .flag → r.phase = .read land → land ≤ s.now →
    nfind s.threads r.th = some th →
    (∀ key sp va poll fired f, th.wait = .flag key sp va poll fired (some id) f →
      let w : Word := BitVec.ofNat 32 (natOfBytes r.data)
      let holds : Prop := match f.m.toNat with
        | 0 => w ≠ th.x f.d.toNat
        | 1 => w = th.x f.d.toNat
        | 2 => (th.x f.d.toNat).toInt ≤ w.toInt
        | _ => w.toInt < (th.x f.d.toNat).toInt
      (r.absent = true → ∃ t, exec (.loadDelivery id) s = .next t ∧ SameMemory s t ∧
        (t.thr r.th).wait = .flag none sp va (s.now + 256) fired none f ∧ (t.thr r.th).regs = th.regs) ∧
      (r.absent = false → r.poisoned = false →
        (holds → ∃ t, exec (.loadDelivery id) s = .next t ∧ (t.thr r.th).wait = .none ∧ (f.d ≠ 0 → (t.thr r.th).x f.d.toNat = w) ∧
          ((t.thr r.th).t f.time).p = true ∧ ((t.thr r.th).t f.time).tick = s.onDie (dieOfCore r.core) r.issued ∧ SameMemory s t) ∧
        (¬ holds → ∃ t next, exec (.loadDelivery id) s = .next t ∧ (t.thr r.th).wait = .flag key sp va next fired none f ∧
          (t.thr r.th).regs = th.regs ∧ SameMemory s t))) ∧
    ((∀ key sp va poll fired f, th.wait ≠ .flag key sp va poll fired (some id) f) →
      exec (.loadDelivery id) s = .next { s with rets := ndel s.rets id })) ∧
  (∀ (s : State) (k : Nat) (key : Option Nat) (sp va poll : Nat) (fired : Bool) (f : Fields) (th : Thread), nfind s.threads k = some th →
    th.wait = .flag key sp va poll fired none f →
    let again (o : Host.Outcome State Fault Refusal) : Prop := ∃ t r, o = .next t ∧ (t.thr k).wait = .flag key sp va poll false (some s.ids) f ∧
      nfind t.rets s.ids = some r ∧ r.th = k ∧ r.kind = .flag ∧ r.space = sp ∧ r.va = va ∧ SameMemory s t
    (fired = true → again (exec (.flagMonitorReread k) s)) ∧ (fired = false → exec (.flagMonitorReread k) s = .next s) ∧
    (0 < poll → poll ≤ s.now → again (exec (.flagPoll k) s)) ∧ ((poll = 0 ∨ s.now < poll) → exec (.flagPoll k) s = .next s))

/-! ### Copies and tiles (spec/16) -/

/-- A copy word (R284, R285, R288): in a row other than the producer it is a copy fault; the first check of R284 that fails is its fault; else it starts: a
transfer of the units of its operand block, its return pending and bound, the copy counter up, its destination tile filling and its source
tile draining. Nothing is read or written yet. The model's own choices that it rests on: log 35. -/
def Obligations.CopiesStart : Prop :=
  ∀ (s : State) (k o op : Nat) (f : Fields) (i : Fields → Instr),
    (i, op, o) ∈ [(Instr.copyGt, 0xC0, 0), (Instr.copyTg, 0xC1, 1), (Instr.copyTt, 0xC2, 2), (Instr.copyGg, 0xC3, 3), (Instr.copyGath, 0xC4, 4),
      (Instr.copyScat, 0xC5, 5)] → Alone s k op f →
    let t := s.thr k
    let b (j : Nat) : Nat := (t.x (f.b.toNat + j)).toNat
    let c := t.cap (4 * f.a.toNat)
    (k % 2048 / 32 ≠ (s.kernOf k).producer → exec (i f) s = .next (takeFlt s k { cause := 8, sub := 1 })) ∧
    (∀ x, copyFault o f k s = some x → exec (i f) s = .next (takeFlt s k x)) ∧
    (copyFault o f k s = none → ∃ u x r, exec (i f) s = .next (wentOn op f s k u) ∧ nfind u.rets s.ids = some r ∧ r.th = k ∧ r.kind = .xfer ∧
      r.dst = f.d.toNat ∧ r.treg = some f.time ∧ r.counter = .copies ∧ nfind u.xfers (s.ids + 1) = some x ∧ x.kind = .copy o ∧ x.group = k / 2048 ∧
      x.rets = [s.ids] ∧ x.next = 0 ∧ x.stop = none ∧ x.space = c.space ∧ x.scope = f.scope ∧ x.v = f.v ∧
      x.va = (if 4 ≤ o then c.cursor else (c.cursor + b 0) % 2 ^ 52) ∧
      x.units = (if o = 3 then b 2 / 16 else if 4 ≤ o then b 3 * b 1 / 16 else b 3 / 16) ∧
      (u.thr k).copies = t.copies + 1 ∧ (u.thr k).regs = t.regs ∧ (u.thr k).loads = t.loads ∧ (u.thr k).stores = t.stores ∧ SameMemory s u ∧
      (∀ n w, n ∈ (copyTiles t f o).1 → tileOf s (k / 2048) n = some w → tileOf u (k / 2048) n = some { w with fill := [s.ids + 1], drain := [] }) ∧
      ∀ n w, n ∈ (copyTiles t f o).2 → n ∉ (copyTiles t f o).1 → tileOf s (k / 2048) n = some w →
        tileOf u (k / 2048) n = some { w with fill := [], drain := [s.ids + 1] })

/-- The course of a copy (R285, R286, R288): a unit of COPY.GT is read and written to its tile, 16 bytes and no others; an absent page stops the copy with
outcome 1; its end lands the status, the outcome, the detail and the bytes of the longest prefix written, and frees its tiles. Nothing
happens before its turn, and a unit that waits for entries of the porch tries again later (R237), one that the damper has no bytes for in the next interval (R354). The model's own choices that it rests on: log 14. -/
def Obligations.CopyCourse : Prop :=
  ∀ (s : State) (id u o : Nat) (x : Xfer), nfind s.xfers id = some x → x.kind = .copy o →
    (unitDue s id = false → exec (.copyUnit id u) s = .next s) ∧
    (unitDue s id = true → x.next = u → x.met = true → entriesOpen s x.after = true → rowOutside s x u = false →
      exec (.copyUnit id u) s = .next (laterXfer s id)) ∧
    (unitDue s id = true → x.next = u → o = 0 → (x.met = true → entriesOpen s x.after = false) →
      let got := readUnit s x.group (dieOfCore x.core) x.space ((x.va + 16 * u) % 2 ^ 52) 16 { k := x.thread, before := x.before, met := x.met }
      (got = .absent → ∃ t y, exec (.copyUnit id u) s = .next t ∧ nfind t.xfers id = some y ∧ y.stop = some (1, 0) ∧
        SameMemoryBut (2 * 2 ^ 48) (2 ^ 48 + 32) s t) ∧
      (∀ data, got = .bytes data → chargeUnit s id x (some (x.space, x.unitVa u)) = none →
        exec (.copyUnit id u) s = .next (s.modXfer id fun y => { y with at_ := (s.now / 1024 + 1) * 1024 })) ∧
      (∀ data key, got = .bytes data → data.length = 16 → chargeUnit s id x (some (x.space, x.unitVa u)) ≠ none →
        key = 2 ^ 52 + sramPlace s x.group * 2 ^ 22 + (x.tileOff + 16 * u) % 2 ^ 22 →
        ∃ t y, exec (.copyUnit id u) s = .next t ∧ SameMemoryBut key 16 s t ∧ rdBytes t key 16 = data ∧ nfind t.xfers id = some y ∧
          y.next = u + 1 ∧ y.moved.contains u = true ∧ y.last = s.now)) ∧
    (xferDone s x = false → exec (.copyComplete id) s = .next s) ∧
    (xferDone s x = true → ∃ t, exec (.copyComplete id) s = .next t ∧ nfind t.xfers id = none ∧ SameMemory s t ∧
      (∀ n w, tileOf t x.group n = some w → id ∉ w.fill ∧ id ∉ w.drain) ∧
      ∀ r v n th, x.rets = [r] → nfind s.rets r = some v → v.discard = false → v.n = 1 → v.dst ≠ 0 → nfind s.threads v.th = some th →
        let written (j : Nat) : Prop := j ∈ x.moved ∧ (j ∈ x.cut → x.units + j ∈ x.moved)
        n ≤ x.units → (∀ j, j < n → written j) → (n = x.units ∨ ¬ written n) →
        (t.thr v.th).x v.dst = BitVec.ofNat 32 ((x.stop.getD (0, 0)).1 * 2 ^ 30 + (x.stop.getD (0, 0)).2 * 2 ^ 24 + 16 * n) ∧
        nfind t.rets r = none)

/-- The tile words (R290, R291, R293): TDECL declares a range, or reports why not; TFREE empties a tile; TSTATE gives its state and the copies in flight;
TDRAIN only waits; TREADY writes one bit; CPCANCEL stops the copies of a tile, or of the thread. A producer word in another row is a copy
fault. -/
def Obligations.Tiles : Prop :=
  ∀ (s : State) (k n : Nat) (f : Fields),
    let t := s.thr k
    let g := k / 2048
    let c := t.cap f.b.toNat
    let off := c.cursor
    let len := (t.x f.c.toNat).toNat
    let producer : Prop := k % 2048 / 32 = (s.kernOf k).producer
    (¬ producer →
      (Alone s k 0xC6 f → exec (.tdecl f) s = .next (takeFlt s k { cause := 8, sub := 1 })) ∧
      (Alone s k 0xC7 f → exec (.tfree f) s = .next (takeFlt s k { cause := 8, sub := 1 })) ∧
      (Alone s k 0xCB f → exec (.cpcancelTile f) s = .next (takeFlt s k { cause := 8, sub := 1 }) ∧
        exec (.cpcancelAll f) s = .next (takeFlt s k { cause := 8, sub := 1 }))) ∧
    (producer → n = (t.x f.a.toNat).toNat → n < 256 →
      (accessFault s k c (permLD ||| permST) off len 1 [1] = none → off % 64 = 0 → len % 64 = 0 → 64 ≤ len → len ≤ 4194304 →
        (tileOf s g n ≠ none → Does 0xC6 f k s (exec (.tdecl f) s) (put1 s k f.d.toNat 2)) ∧
        (tileOf s g n = none → (∃ w ∈ (s.grp g).tiles, off < w.off + w.len ∧ w.off < off + len) →
          Does 0xC6 f k s (exec (.tdecl f) s) (put1 s k f.d.toNat 3)) ∧
        (tileOf s g n = none → (∀ w ∈ (s.grp g).tiles, ¬ (off < w.off + w.len ∧ w.off < off + len)) → tileCount s (s.grp g).cluster < 256 →
          Does 0xC6 f k s (exec (.tdecl f) s)
            (put1 (s.modGrp g fun gr => { gr with tiles := gr.tiles ++ [{ num := n, off := off, len := len }] }) k f.d.toNat 0))) ∧
      (tileOf s g n ≠ none → Does 0xC7 f k s (exec (.tfree f) s)
        (s.modGrp g fun gr => { gr with tiles := gr.tiles.filter fun w => w.num ≠ n })) ∧
      (∀ w, tileOf s g n = some w → ∃ u, (Alone s k 0xCB f → exec (.cpcancelTile f) s = .next (wentOn 0xCB f s k u)) ∧ u.threads = s.threads ∧
        SameMemory s u ∧ ∀ id x, nfind s.xfers id = some x → ((id ∈ w.fill ∨ id ∈ w.drain) → nfind u.xfers id = some x.cancel) ∧
          (id ∉ w.fill → id ∉ w.drain → nfind u.xfers id = some x)) ∧
      (∃ u, (Alone s k 0xCB f → exec (.cpcancelAll f) s = .next (wentOn 0xCB f s k u)) ∧ u.threads = s.threads ∧ SameMemory s u ∧
        ∀ id x o, nfind s.xfers id = some x → x.kind = .copy o → (k ∈ x.threads → nfind u.xfers id = some x.cancel) ∧
          (k ∉ x.threads → nfind u.xfers id = some x))) ∧
    (n = (t.x f.a.toNat).toNat → n < 256 →
      Does 0xC9 f k s (exec (.tdrain f) s) s ∧
      (tileOf s g n = none → Does 0xC8 f k s (exec (.tstate f) s) (put1 s k f.d.toNat 0) ∧
        Does 0xCA f k s (exec (.tready f) s) (putBit s k f.d.toNat f.bit false)) ∧
      ∀ w, tileOf s g n = some w → w.fill.length + w.drain.length < 256 →
        Does 0xC8 f k s (exec (.tstate f) s) (put1 s k f.d.toNat (BitVec.ofNat 32
          ((if w.fill ≠ [] then 1 else if w.drain = [] then 2 else 3) + 256 * (w.fill.length + w.drain.length)))) ∧
        Does 0xCA f k s (exec (.tready f) s) (putBit s k f.d.toNat f.bit (w.fill.isEmpty && w.drain.isEmpty))) ∧
    (producer → 256 ≤ (t.x f.a.toNat).toNat → Alone s k 0xC7 f → exec (.tfree f) s = .next (takeFlt s k { cause := 8, sub := 4 }))

/-! ### Pages (spec/16, spec/22) -/

/-- A page word (R297 to R300): a failed check of its capability faults; else it starts a walk whose result reports through its return,
its register pending and its time register bound; DISCARD's capability must cover the whole page. No byte of memory changes.

A walk (R391, Table 22.5): before its tick nothing happens; a level that holds a table entry leads to the next; a leaf, or none, goes back to the core;
there, unless a sweep has met it, when it walks again (R393), PGSTAT's word becomes known, a load of a present page is booked or finds a calendar full, one of an absent page receives zero with A, and a PAGEIN of a
discarded page takes a zeroed frame, which its count then knows (R395), and lands 0, as does one of a resident page. The model's own choices that it
rests on: log 10, 14, 93. -/
def Obligations.PagesAndWalks : Prop :=
  (∀ (s : State) (k op : Nat) (f : Fields) (i : Fields → Instr) (perm : BitVec 6) (kind : RetKind),
    (i, op, perm, kind) ∈ [(Instr.pagein, 0xCC, permLD, RetKind.page 0xC 0), (Instr.pgstat, 0xCD, permLD, RetKind.pgstat),
      (Instr.place, 0xCE, permLD, RetKind.page 0xE ((s.thr k).x f.d.toNat)), (Instr.discard, 0xCF, permST, RetKind.page 0xF 0)] →
    let c := (s.thr k).cap (4 * f.a.toNat)
    let a := (c.cursor + ((s.thr k).x f.b.toNat).toNat) % 2 ^ 52
    Alone s k op f →
    (∀ x, accessFault s k c perm a 1 1 [0, 2, 3] = some x → exec (i f) s = .next (takeFlt s k x)) ∧
    let v := s.tva k c.space a
    let covers (l : Leaf) : Prop := c.base + v ≤ v / pageBytes l.size * pageBytes l.size + a ∧
      v / pageBytes l.size * pageBytes l.size + pageBytes l.size + a ≤ c.base + c.length + v
    (accessFault s k c perm a 1 1 [0, 2, 3] = none →
      (∀ l, op = 0xCF → walk s (s.lchOf k).tenant v = .leaf l → ¬ covers l →
        exec (i f) s = .next (takeFlt s k { cause := 4, sub := 4, addr := a })) ∧
      ((op = 0xCF → ∀ l, walk s (s.lchOf k).tenant v = .leaf l → covers l) →
        ∃ u r tick, exec (i f) s = .next (wentOn op f s k u) ∧ nfind u.rets s.ids = some r ∧ r.th = k ∧ r.kind = kind ∧ r.dst = f.d.toNat ∧
          r.treg = some f.time ∧ r.counter = .loads ∧ r.va = a ∧ r.phase = .walk tick 4 (s.tenant (s.lchOf k).tenant).root ∧ s.now + 24 + 8 ≤ tick ∧
          (u.thr k).loads = (s.thr k).loads + 1 ∧ (u.thr k).regs = (s.thr k).regs ∧ nfind (u.thr k).bound f.time = some s.ids ∧ SameMemory s u ∧
          ∀ j, j ≠ k → nfind u.threads j = nfind s.threads j))) ∧
  (∀ (s : State) (table level va : Nat),
    (∀ t, cachedTable s table level va = some t → readLevel s table level va = .down t ∧ levelTicks s table level va = 8) ∧
    (cachedTable s table level va = none → readLevel s table level va = walkLevel s table level va ∧
      levelTicks s table level va = if inCache s (pteAddr table level va) then 30 else 130) ∧
    cachedTable (sweepAll s) table level va = none ∧ cachedTable (sweepPage s va) table level va = none ∧
    (walkLeg 3 3 = 24 ∧ walkLeg 3 4 = 70)) ∧
  (∀ (s : State) (id : Nat) (r : Ret), nfind s.rets id = some r →
    (∀ tick level table, r.phase = .walk tick level table →
      (s.now < tick → exec (.pageWalk id) s = .next s) ∧
      (tick ≤ s.now → r.swept = true → exec (.pageWalk id) s = .next (s.modRet id fun y =>
        { y with swept := false, phase := walkPhase s r.core (s.lchOf r.th).tenant (s.tva r.th r.space r.va) })) ∧
      (tick ≤ s.now → r.swept = false → (s.tenant (s.lchOf r.th).tenant).root ≠ 0 →
        let va := s.tva r.th r.space r.va
        (∀ next, cachedTable s table level va = some next ∨ (cachedTable s table level va = none ∧ walkLevel s table level va = .down next) →
          ∃ t w, exec (.pageWalk id) s = .next t ∧ nfind t.rets id = some w ∧
            w.phase = .walk (s.now + (if tableDie next = tableDie table then 0 else 70) + levelTicks t next (level - 1) va) (level - 1) next ∧
            cachedTable t table level va = some next ∧ t = { s with rets := t.rets, dies := t.dies, cached := t.cached }) ∧
        (∀ res, cachedTable s table level va = none → walkLevel s table level va = .stop res → (∀ l, res = .leaf l → spanLeaf s l = l) → ∃ t w, exec (.pageWalk id) s = .next t ∧
          nfind t.rets id = some w ∧ w.phase = .back (s.now + walkLeg (dieOfCore r.core) (tableDie table)) res ∧ t.threads = s.threads))) ∧
    (∀ tick res, r.phase = .back tick res → s.now < tick → exec (.pageWalk id) s = .next s) ∧
    (∀ tick l th, r.phase = .back tick (.leaf l) → tick ≤ s.now → r.swept = false → BitVec.ofNat 64 (rdNat s l.entry 8) = l.raw → (l.size = 0 ∨ l.size = 2 ∨ l.size = 4) → nfind s.threads r.th = some th →
      (r.kind = .pgstat → ∃ t w, exec (.pageWalk id) s = .next t ∧ nfind t.rets id = some w ∧ w.phase = .read (s.now + 2) ∧ SameMemory s t ∧
        (l.state ≠ 3 → l.state ≠ 4 → pteFrame l.raw < 2 ^ 40 →
          w.data = bytesOfNat ((l.state + l.size * 16 + pteFrame l.raw / 2 ^ 36 % 16 * 256) % 2 ^ 32) 4)) ∧
      (∀ acq tagged, r.kind = .load acq tagged → r.partOf = none → (l.state = 3 ∨ l.state = 4) → ∃ t w, exec (.pageWalk id) s = .next t ∧ nfind t.rets id = some w ∧
        w.absent = true ∧ w.data = bytesOfNat 0 r.bytes ∧ w.phase = .read (s.now + 2) ∧ SameMemory s t ∧
        (t.thr r.th).status = th.status ||| 1) ∧
      (∀ acq tagged v u key x es, r.kind = .load acq tagged → l.present = true → v = s.tva r.th r.space r.va →
        u = lanePageSet (tlbFill s r.core (s.lchOf r.th).tenant v l) r.core (laneOf r.th) (s.lchOf r.th).tenant v l →
        key = pteFrame l.raw + v % pageBytes l.size → serveOf u id r key = .go x es →
        ∃ t w, exec (.pageWalk id) s = .next t ∧ nfind t.rets id = some w ∧ SameMemory s t ∧ (t.thr r.th).regs = th.regs ∧ w.key = some key ∧
          ((∃ known read land, w.phase = .probe known read land ∧ s.now ≤ known) ∨ ∃ again left, w.phase = .retry again left)) ∧
      (r.kind = .page 0xC 0 → l.state ≠ 3 → l.state ≠ 4 → r.discard = false → r.n = 1 → r.dst ≠ 0 → ∃ t, exec (.pageWalk id) s = .next t ∧
        nfind t.rets id = none ∧ (t.thr r.th).x r.dst = 0 ∧ SameMemory s t) ∧
      (∀ g rest, r.kind = .page 0xC 0 → l.state = 3 → pteNoPg l.raw = false → l.size = 0 → pteIl l.raw = false →
        (s.die (pteFrame l.raw / 2 ^ 36 % 16)).pool4k = g :: rest → rest.length ≠ 63 → (l.entry + 8 ≤ g ∨ g + 4096 ≤ l.entry) →
        g % 4096 = 0 → g < 2 ^ 40 → inCounts g 4096 = false → inCounts l.entry 8 = false → r.discard = false → r.n = 1 → r.dst ≠ 0 →
        ∃ t, exec (.pageWalk id) s = .next t ∧ nfind t.rets id = none ∧ (t.thr r.th).x r.dst = 0 ∧
          (∀ a, g ≤ a → a < g + 4096 → Memory.read t.mem a = 0) ∧ rdNat t l.entry 8 = (pteWith l.raw 0 g).toNat ∧
          (t.die (pteFrame l.raw / 2 ^ 36 % 16)).pool4k = rest ∧ (s.count g < 65535 → t.count g = s.count g + 1) ∧
          ∀ a, (a < g ∨ g + 4096 ≤ a) → (a < l.entry ∨ l.entry + 8 ≤ a) → inCounts a 1 = false → Memory.read t.mem a = Memory.read s.mem a)))

/-- The page operations (R396, R397, R399, R400): copy-on-write of a frame with one entry only makes its leaf resident; of one with more it copies the
page to a new frame, which its leaf then names, and the held word walks again; the host may refuse it, which faults the thread at its word with cause 7; a migration copies once the stores before it are applied, and
commits the new leaf with status 0; a frame pool takes a frame, and one that is full tells the host; the host starts a migration, writes an entry, or refuses a PAGEIN, which lands
1. The model's own choices that it rests on: log 14, 33, 87. -/
def Obligations.PageOperations : Prop :=
  (∀ (s : State) (id tick : Nat) (o : PageOp) (th xfer : Option Nat), nfind s.pageOps id = some o → o.kind = .cow th xfer → o.phase = .start tick →
    (s.now < tick → exec (.copyOnWrite id) s = .next s) ∧
    (∀ l, tick ≤ s.now → cowBehind s id o = false → walk s o.tenant o.va = .leaf l → l.state = 1 → l.size = 0 → pteNoCow l.raw = false →
      pteFrame l.raw < 2 ^ 40 →
      (s.count (pteFrame l.raw) = 1 → inCounts l.entry 8 = false → ∃ t, exec (.copyOnWrite id) s = .next t ∧ nfind t.pageOps id = none ∧
        SameMemoryBut l.entry 8 s t ∧ rdNat t l.entry 8 = (pteWith l.raw 0 (pteFrame l.raw)).toNat ∧ ∀ k, (t.thr k).pageHold ≠ some id) ∧
      (∀ g rest, s.count (pteFrame l.raw) ≠ 1 → pteIl l.raw = false →
        (s.die (pteFrame l.raw / 2 ^ 36 % 16)).pool4k = g :: rest → rest.length ≠ 63 → ∃ t p tick, exec (.copyOnWrite id) s = .next t ∧
        nfind t.pageOps id = some p ∧ p.phase = .copying tick g ∧ s.now < tick ∧ SameMemory s t))) ∧
  (∀ (s : State) (id tick g : Nat) (o : PageOp) (th xfer : Option Nat), nfind s.pageOps id = some o → o.kind = .cow th xfer → o.phase = .copying tick g →
    let fr := pteFrame o.leaf.raw
    (s.now < tick → exec (.copyOnWrite id) s = .next s) ∧
    (Inv s → tick ≤ s.now → pteV o.leaf.raw = true → o.leaf.state = 1 → o.leaf.size = 0 → BitVec.ofNat 64 (rdNat s o.leaf.entry 8) = o.leaf.raw →
      (o.leaf.entry + 8 ≤ g ∨ g + 4096 ≤ o.leaf.entry) → g % 4096 = 0 → g < 2 ^ 40 → fr < 2 ^ 40 → fr ≠ g → inCounts g 4096 = false →
      inCounts o.leaf.entry 8 = false → ∃ t, exec (.copyOnWrite id) s = .next t ∧ nfind t.pageOps id = none ∧
        rdNat t o.leaf.entry 8 = (pteWith o.leaf.raw 0 g).toNat ∧ (∀ j, j < 4096 → Memory.read t.mem (g + j) = Memory.read s.mem (fr + j)) ∧
        t.count g = 1 ∧ t.count fr = (if s.count fr = 65535 then 65535 else s.count fr - 1) ∧
        (∀ a, (a < g ∨ g + 4096 ≤ a) → (a < o.leaf.entry ∨ o.leaf.entry + 8 ≤ a) → inCounts a 1 = false → Memory.read t.mem a = Memory.read s.mem a) ∧
        ∀ k th, nfind s.threads k = some th → th.pageHold = some id → (t.thr k).pageHold = none ∧ (t.thr k).freshWalk = true)) ∧
  (∀ (s : State) (k space va : Nat), replaying s k = false → (space = 0 ∨ space = 2 ∨ space = 3) → (s.thr k).cowRefused = true →
    resolve s k space va = .fault { cause := 7, addr := va }) ∧
  (∀ (s : State) (id k : Nat) (o : PageOp) (t : Thread) (frame : Word), s.pageOps = [(id, o)] → o.kind = .cow (some k) none → o.phase = .host →
    pteFrame o.leaf.raw / 4096 % 2 ^ 32 = frame.toNat → nfind s.threads k = some t → t.pageHold = some id →
    exec (.cowRefusal frame) s = .next ({ s with pageOps := [] }.modThr k fun t => { t with pageHold := none, cowRefused := true })) ∧
  (∀ (s : State) (die size pa : Nat), s.pageOps = [] →
    (2 < size → exec (.framePoolFill die size pa) s = .next s) ∧
    (size ≤ 2 → 4096 ≤ (poolOf (s.die die) size).length →
      exec (.framePoolFill die size pa) s = .next (postEvent s 9 die 0 (BitVec.ofNat 32 (pa / 4096)))) ∧
    (size ≤ 2 → (poolOf (s.die die) size).length < 4096 →
      exec (.framePoolFill die size pa) s = .next (s.modDie die fun d => setPool d size (poolOf d size ++ [pa])))) ∧
  (∀ (s : State) (id g : Nat) (o : PageOp) (target : MigTarget) (ret : Option Nat), nfind s.pageOps id = some o → o.kind = .move target ret →
    (o.phase = .drain g → storesLeft s o = true → exec (.migrationCopy id) s = .next s) ∧
    (o.phase = .drain g → storesLeft s o = false → ∃ t p tick, exec (.migrationCopy id) s = .next t ∧ nfind t.pageOps id = some p ∧
      p.phase = .copying tick g ∧ s.now < tick ∧ SameMemory s t) ∧
    (∀ tick, o.phase = .copying tick g →
      (s.now < tick → exec (.migrationCommit id) s = .next s) ∧
      (∀ d, Inv s → tick ≤ s.now → target = .die d → o.leaf.size = 0 → (o.leaf.entry + 8 ≤ g ∨ g + 4096 ≤ o.leaf.entry) →
        g % 4096 = 0 → g < 2 ^ 40 → inCounts g 4096 = false → inCounts o.leaf.entry 8 = false → pteFrame o.leaf.raw < 2 ^ 40 → (poolOf (s.die (pteFrame o.leaf.raw / 2 ^ 36 % 16)) 0).length < 4096 →
        ∃ t, exec (.migrationCommit id) s = .next t ∧ nfind t.pageOps id = none ∧ rdNat t o.leaf.entry 8 = (pteWith o.leaf.raw 0 g).toNat ∧
          (∀ j, j < 4096 → Memory.read t.mem (g + j) = Memory.read s.mem (pteFrame o.leaf.raw + j)) ∧
          (∀ r v th, ret = some r → nfind s.rets r = some v → nfind s.threads v.th = some th → v.discard = false → v.n = 1 → v.dst ≠ 0 →
            (t.thr v.th).x v.dst = 0)))) ∧
  (∀ (s : State) (tenant va g rest : Nat) (l : Leaf), walk s tenant va = .leaf l → l.size = 0 → inCounts l.entry 8 = false →
    ((l.state = 0 ∨ l.state = 1 ∨ l.state = 5) → ∃ t o, exec (.hostMigrationStart tenant va (.absent g rest)) s = .next t ∧
      nfind t.pageOps s.ids = some o ∧ o.phase = .drain 0 ∧ SameMemoryButEntry l.entry s t ∧
      rdNat t l.entry 8 = (pteWith l.raw 2 (pteFrame l.raw)).toNat) ∧
    ((l.state = 3 ∨ l.state = 4) → exec (.hostMigrationStart tenant va (.absent g rest)) s = .next s) ∧
    (∀ id o r v th, s.pageOps = [(id, o)] → o.kind = .pagein [r] → o.leaf.base = l.base → nfind s.rets r = some v →
      nfind s.threads v.th = some th → v.discard = false → v.n = 1 → v.dst ≠ 0 → ∃ t, exec (.pageinHostRefusal tenant va) s = .next t ∧
        nfind t.pageOps id = none ∧ nfind t.rets r = none ∧ (t.thr v.th).x v.dst = 1 ∧ SameMemory s t)) ∧
  ∀ (s : State) (pa : Nat) (e : Double), pa % 8 = 0 →
    (stackBytes s pa 8 = false → exec (.tableEntryPort pa e) s = .next s) ∧
    (s.upds = [] → stackBytes s pa 8 = true → frameFree s pa = false → ∃ t u c, exec (.tableEntryPort pa e) s = .next t ∧ nfind t.upds s.ids = some u ∧
      u.kind = .pte e ∧ u.key = pa ∧ u.phase = .lehr c ∧ s.now ≤ c ∧ nget s.leases (pa / 64) 0 ≤ c ∧ SameMemory s t)

/-! ### Class 0xD and the matrix engine (spec/18) -/

/-- Claims, releases and records (R308, R309) of a group whose queue is empty: a claim takes the lowest free slots or accumulators, zeroed, all or none, with
its status in x[D], 2 where both 1 and 2 hold; CLAIM.share joins the accumulator of its key, or takes one; a release gives them up; OPRES writes a record, OPFREE takes it away; a bad descriptor, or a name that is not held, is a
matrix fault.

Accumulators seen from lanes (R320) of a group whose queue is empty: MZERO clears those it names and no other; ACCWR writes one element; ACCRD's return
carries one, two ticks on. The model's own choices that it rests on: log 119. -/
def Obligations.MatrixResources : Prop :=
  (∀ (s : State) (k first count : Nat) (f : Fields) (gr : Group),
    let g := k / 2048
    let t := s.thr k
    let n := (t.x f.a.toNat).toNat
    let d := f.d.toNat
    nfind s.groups g = some gr → gr.queue = [] → (∀ p ∈ gr.passes, p.done ≠ none) →
    (n / 256 = 0 → (Alone s k 0xD0 f → exec (.claimSlot f) s = .next (takeFlt s k { cause := 9, sub := 4 }) ∧
      exec (.claimAcc f) s = .next (takeFlt s k { cause := 9, sub := 4 })) ∧
      (f.m = 0 → Alone s k 0xD1 f → exec (.release f) s = .next (takeFlt s k { cause := 9, sub := 4 }))) ∧
    (n = first + 256 * count → first < 256 → 1 ≤ count → first + count ≤ 128 →
      ((∃ i, first ≤ i ∧ i < first + count ∧ nfind gr.pslots i ≠ none) → Does 0xD0 f k s (exec (.claimSlot f) s) (put1 s k d 2)) ∧
      ((∀ i, first ≤ i → i < first + count → nfind gr.pslots i = none) →
        ((freeOf (heldSlots s gr.cluster) 128).length < count → Does 0xD0 f k s (exec (.claimSlot f) s) (put1 s k d 1)) ∧
        (count ≤ (freeOf (heldSlots s gr.cluster) 128).length → Alone s k 0xD0 f → ∃ u, exec (.claimSlot f) s = .next (wentOn 0xD0 f s k u) ∧
          (d ≠ 0 → (u.thr k).x d = 0) ∧ ∀ i, first ≤ i → i < first + count → ∃ p, nfind (u.grp g).pslots i = some p ∧ p < 128 ∧
            p ∉ heldSlots s gr.cluster ∧ (freeOf (heldSlots s gr.cluster) 128)[i - first]? = some p ∧ ∀ j, j < 8192 → Memory.read u.mem (pantryKey gr.cluster p j) = 0)) ∧
      (f.m = 0 → (∀ i, first ≤ i → i < first + count → nfind gr.pslots i ≠ none) → Alone s k 0xD1 f →
        ∃ u, exec (.release f) s = .next (wentOn 0xD1 f s k u) ∧ u.threads = s.threads ∧ SameMemory s u ∧
          ∀ i, nfind (u.grp g).pslots i = if first ≤ i ∧ i < first + count then none else nfind gr.pslots i) ∧
      (f.m = 0 → (∃ i, first ≤ i ∧ i < first + count ∧ nfind gr.pslots i = none) → Alone s k 0xD1 f →
        exec (.release f) s = .next (takeFlt s k { cause := 9, sub := 1 }))) ∧
    (n = first + 256 * count → first < 128 → 1 ≤ count → count < 256 → 128 < first + count → f.m = 0 → nfind gr.pslots first = none → Alone s k 0xD1 f →
      exec (.release f) s = .next (takeFlt s k { cause := 9, sub := 1 })) ∧
    (n = first + 256 * count → first < 32 → 1 ≤ count → first + count ≤ 32 →
      ((∃ i, first ≤ i ∧ i < first + count ∧ nfind gr.accs i ≠ none) → Does 0xD0 f k s (exec (.claimAcc f) s) (put1 s k d 2)) ∧
      ((∀ i, first ≤ i → i < first + count → nfind gr.accs i = none) →
        ((freeOf (heldAccs s gr.cluster) 32).length < count → Does 0xD0 f k s (exec (.claimAcc f) s) (put1 s k d 1)) ∧
        (count ≤ (freeOf (heldAccs s gr.cluster) 32).length → Alone s k 0xD0 f → ∃ u, exec (.claimAcc f) s = .next (wentOn 0xD0 f s k u) ∧
          (d ≠ 0 → (u.thr k).x d = 0) ∧ SameMemory s u ∧ ∀ i, first ≤ i → i < first + count → ∃ p, nfind (u.grp g).accs i = some { phys := p } ∧
            p < 32 ∧ p ∉ heldAccs s gr.cluster ∧ (freeOf (heldAccs s gr.cluster) 32)[i - first]? = some p ∧
            ∀ j, j < 4096 → nget u.accs (accBase gr.cluster p + j) 0 = 0)) ∧
      (f.m = 1 → (∀ i, first ≤ i → i < first + count → nfind gr.accs i ≠ none) → Alone s k 0xD1 f →
        ∃ u, exec (.release f) s = .next (wentOn 0xD1 f s k u) ∧ u.threads = s.threads ∧ SameMemory s u ∧
          ∀ i, nfind (u.grp g).accs i = if first ≤ i ∧ i < first + count then none else nfind gr.accs i) ∧
      (f.m = 1 → (∃ i, first ≤ i ∧ i < first + count ∧ nfind gr.accs i = none) → Alone s k 0xD1 f →
        exec (.release f) s = .next (takeFlt s k { cause := 9, sub := 1 }))) ∧
    (n < 32 →
      (nfind gr.accs n ≠ none → Does 0xD0 f k s (exec (.claimShare f) s) (put1 s k d 2)) ∧
      (∀ p, nfind gr.accs n = none → sharedAcc s gr.launch gr.cluster (t.x f.b.toNat) = some p → Does 0xD0 f k s (exec (.claimShare f) s)
        (put1 (s.modGrp g fun y => { y with accs := nset y.accs n { phys := p, share := some (t.x f.b.toNat) } }) k d 0)) ∧
      (nfind gr.accs n = none → sharedAcc s gr.launch gr.cluster (t.x f.b.toNat) = none → freeOf (heldAccs s gr.cluster) 32 = [] →
        Does 0xD0 f k s (exec (.claimShare f) s) (put1 s k d 1)) ∧
      (∀ p rest, nfind gr.accs n = none → sharedAcc s gr.launch gr.cluster (t.x f.b.toNat) = none → freeOf (heldAccs s gr.cluster) 32 = p :: rest →
        Alone s k 0xD0 f → ∃ u, exec (.claimShare f) s = .next (wentOn 0xD0 f s k u) ∧ (d ≠ 0 → (u.thr k).x d = 0) ∧ SameMemory s u ∧
          nfind (u.grp g).accs n = some { phys := p, share := some (t.x f.b.toNat) } ∧ ∀ j, j < 4096 → nget u.accs (accBase gr.cluster p + j) 0 = 0)) ∧
    (∀ r, recOfWord (t.d f.b.toNat) = (r, false) → recUnclaimed gr r = false → n < 16 →
      (nfind gr.recs n ≠ none → Does 0xD2 f k s (exec (.opres f) s) (put1 s k d 1)) ∧
      (nfind gr.recs n = none → Does 0xD2 f k s (exec (.opres f) s)
        (put1 (s.modGrp g fun y => { y with recs := nset y.recs n r }) k d 0))) ∧
    (n < 16 → nfind gr.recs n ≠ none → Alone s k 0xD3 f → ∃ u, exec (.opfree f) s = .next (wentOn 0xD3 f s k u) ∧ u.threads = s.threads ∧
      ∀ i, nfind (u.grp g).recs i = if i = n then none else nfind gr.recs i) ∧
    (16 ≤ n → nfind gr.recs (n % 16) ≠ none → Alone s k 0xD3 f → exec (.opfree f) s = .next (takeFlt s k { cause := 9, sub := 4 }))) ∧
  (∀ (s : State) (k a e : Nat) (f : Fields) (gr : Group) (c : AccClaim),
    let g := k / 2048
    let t := s.thr k
    let key := accBase gr.cluster c.phys + e
    nfind s.groups g = some gr → gr.queue = [] → (∀ p ∈ gr.passes, p.done ≠ none) → nfind gr.accs a = some c → c.phys < 32 → e < 4096 → a < 32 →
    ((t.x f.a.toNat) = BitVec.ofNat 32 (2 ^ a) → Alone s k 0xD7 f → ∃ u, exec (.mzero f) s = .next (wentOn 0xD7 f s k u) ∧ u.threads = s.threads ∧
      SameMemory s u ∧ ∀ j, nget u.accs j 0 = if accBase gr.cluster c.phys ≤ j ∧ j < accBase gr.cluster c.phys + 4096 then 0 else nget s.accs j 0) ∧
    ((t.x f.a.toNat).toNat = a → (t.x f.b.toNat).toNat = e →
      (Alone s k 0xDB f → ∃ u, exec (.accwr f) s = .next (wentOn 0xDB f s k u) ∧ u.threads = s.threads ∧ SameMemory s u ∧
        ∀ j, nget u.accs j 0 = if j = key then t.x f.c.toNat else nget s.accs j 0) ∧
      (Alone s k 0xDA f → ∃ u r, exec (.accrd f) s = .next (wentOn 0xDA f s k u) ∧ nfind u.rets s.ids = some r ∧ r.th = k ∧ r.dst = f.d.toNat ∧
        r.phase = .read (s.now + 2) ∧ r.data = bytesOfNat (nget s.accs key 0).toNat 4 ∧ r.poisoned = s.accPoison.contains key ∧ u.accs = s.accs ∧
        (u.thr k).regs = t.regs ∧ SameMemory s u)) ∧
    ((t.x f.a.toNat).toNat = a → 4096 ≤ (t.x f.b.toNat).toNat → Alone s k 0xDB f →
      exec (.accwr f) s = .next (takeFlt s k { cause := 9, sub := 4 })))

/-- MCANCEL (R323), whatever the group's passes are at: each pass that it names and that is not complete is granted no further step, and ends, with outcome 2, once those
granted are applied; a complete one is unchanged, and nothing waits.

Passes and transfers at their word (R306, R311, R312, R316, R318, R324, R326), of a group whose queue is empty: MMA and MLOOP post a pass whose
id, the count of the group's passes, is in x[D]; CBLD, SLOTLD and SLOTRD start; MSTAT answers two ticks on; MPRIO
sets the priority; MLINK updates its object or holds the passes to come. The model's own choices that it rests on: log 36, 40. -/
def Obligations.MatrixPasses : Prop :=
  (∀ (s : State) (k : Nat) (f : Fields) (halted : Pass → Pass), halted = (fun p => if p.done = none then { p with limit := p.granted, stop := some (2, 0) } else p) →
    Does 0xDE f k s (exec (.mcancelPass f) s) (s.modGrp (k / 2048) fun y => { y with passes := y.passes.map fun p =>
      if p.pid = ((s.thr k).x f.a.toNat).toNat then (halted p) else p }) ∧
    Does 0xDE f k s (exec (.mcancelAll f) s) (s.modGrp (k / 2048) fun y => { y with passes := y.passes.map halted }) ∧
    ∀ gr p, p.done = none → eligible s gr (halted p) = false ∧ ((halted p).ended = true ↔ p.due = [])) ∧
  ∀ (s : State) (k : Nat) (f : Fields) (gr : Group),
    let g := k / 2048
    let t := s.thr k
    let c := t.cap (4 * f.a.toNat)
    let a := (c.cursor + (t.x f.b.toNat).toNat) % 2 ^ 52
    let pid := if (gr.passCount + 1) % 2 ^ 32 = 0 then 1 else (gr.passCount + 1) % 2 ^ 32
    let posted (u : State) (x : PassArgs) : Prop := ∃ p ∈ (u.grp g).passes, p.pid = pid ∧ p.steps = x.steps ∧ p.acc = x.acc % 32 ∧
      p.zero = x.acc.testBit 8 ∧ p.refA = { rcd := x.refA % 16, idx := x.refA / 256 % 128 } ∧ p.refB = { rcd := x.refB % 16, idx := x.refB / 256 % 128 } ∧
      p.granted = 0 ∧ p.applied = 0 ∧ p.done = none ∧ p.threads = [k]
    nfind s.groups g = some gr → gr.queue = [] → (∀ p ∈ gr.passes, p.done ≠ none) →
    (∀ x, x = ({ refA := (t.x f.a.toNat).toNat, refB := (t.x f.b.toNat).toNat, acc := (t.x f.c.toNat).toNat } : PassArgs) → Alone s k 0xD8 f →
      (∀ y, passFault s gr x = some y → exec (.mma f) s = .next (takeFlt s k y)) ∧
      (passFault s gr x = none → ∃ u, exec (.mma f) s = .next (wentOn 0xD8 f s k u) ∧ posted u x ∧ (u.thr k).passes = t.passes + 1 ∧
        (f.d ≠ 0 → (u.thr k).x f.d.toNat = BitVec.ofNat 32 pid) ∧ SameMemory s u ∧ u.accs = s.accs)) ∧
    (∀ x, x = loopArgs f k s → Alone s k 0xD9 f →
      (∀ y, loopAccess f k x s = some y → exec (.mloop f) s = .next (takeFlt s k y)) ∧
      (loopAccess f k x s = none → (∀ y, passFault s gr x = some y → exec (.mloop f) s = .next (takeFlt s k y)) ∧
        (passFault s gr x = none → ∃ u, exec (.mloop f) s = .next (wentOn 0xD9 f s k u) ∧ posted u x ∧ (u.thr k).passes = t.passes + 1 ∧
          (f.d ≠ 0 → (u.thr k).x f.d.toNat = BitVec.ofNat 32 pid) ∧ SameMemory s u ∧ u.accs = s.accs))) ∧
    (∀ (i : Fields → Instr) (op : Nat) (kind : XferKind) (units loads : Nat) (x : Option Flt),
      (i, op, kind, units, loads, x) ∈
        [(Instr.cbld, 0xD4, XferKind.book (t.x f.d.toNat).toNat, 2, 1,
           (accessFault s k c permLD a 32 32).or (matCause [(1, (nfind gr.recs ((t.x f.d.toNat).toNat % 16)).isNone),
             (4, (t.x f.d.toNat).toNat ≥ 16 || (nfind gr.recs ((t.x f.d.toNat).toNat % 16)).any fun d => d.fmt != 4)])),
         (Instr.slotld, 0xD5, XferKind.slotIn (t.x f.d.toNat).toNat, 512, 1,
           (accessFault s k c permLD a 8192 64 [0, 1, 3, 4]).or (slotCause s k f)),
         (Instr.slotrd, 0xD6, XferKind.slotOut (t.x f.d.toNat).toNat, 512, 0,
           (accessFault s k c permST a 8192 64 [0, 1, 4]).or (slotCause s k f))] → Alone s k op f →
      (∀ y, x = some y → exec (i f) s = .next (takeFlt s k y)) ∧
      (x = none → ∃ u r w, exec (i f) s = .next (wentOn op f s k u) ∧ nfind u.rets s.ids = some r ∧ r.th = k ∧ r.kind = .xfer ∧ r.dst = f.d.toNat ∧
        r.treg = some f.time ∧ nfind u.xfers (s.ids + 1) = some w ∧ w.kind = kind ∧ (w.space, w.va) = xferVa s k c.space a ∧ w.units = units ∧
        w.booked = (loads == 1) ∧ w.next = loads * units ∧ w.started = true ∧ (u.thr k).loads = t.loads + loads ∧ (u.thr k).stores = t.stores + (1 - loads) ∧ SameMemory s u)) ∧
    (∀ w : Word, w = (match knownPass gr (t.x f.a.toNat) with | some p => passStatus p | none => 0xC4000000) → s.det k = false → Alone s k 0xDD f →
      (∃ u r, exec (.mstatPeek f) s = .next (wentOn 0xDD f s k u) ∧ nfind u.rets s.ids = some r ∧ r.dst = f.d.toNat ∧ r.data = bytesOfNat w.toNat 4 ∧
        r.phase = .read (s.now + 2) ∧ SameMemory s u) ∧
      (∃ u r, exec (.mstatWait f) s = .next (wentOn 0xDD f s k u) ∧ nfind u.rets s.ids = some r ∧ r.dst = f.d.toNat ∧ r.data = bytesOfNat w.toNat 4 ∧
        r.phase = .read (s.now + 2) ∧ SameMemory s u) ∧
      (∀ p, knownPass gr (t.x f.a.toNat) = some p → p.done ≠ none → ∃ u, exec (.mstatTime f) s = .next (wentOn 0xDD f s k u) ∧
        ((u.thr k).t f.d.toNat).p = true ∧ ((u.thr k).t f.d.toNat).tick = s.onDie (s.dieOf k) p.doneAt ∧ SameMemory s u)) ∧
    Does 0xDF f k s (exec (.mprio f) s) (s.modGrp g fun y => { y with mprio := f.imm18.toNat % 4 }) ∧
    (∀ key, accessFault s k c permST a 16 16 [1] = none → key = 2 ^ 52 + gr.cluster * 2 ^ 22 + a % 2 ^ 22 → Alone s k 0xDC f →
      ((∀ p, knownPass gr (t.x f.d.toNat) = some p → p.done ≠ none) → ∃ u, exec (.mlinkArr f) s = .next (wentOn 0xDC f s k u) ∧ SameMemoryBut key 16 s u ∧
        (rdNat s key 4 ≤ (rdNat s (key + 4) 4 + 1) % 2 ^ 32 → rdNat u (key + 4) 4 = 0 ∧ rdNat u (key + 8) 4 = (rdNat s (key + 8) 4 + 1) % 2 ^ 32) ∧
        ((rdNat s (key + 4) 4 + 1) % 2 ^ 32 < rdNat s key 4 → rdNat u (key + 4) 4 = (rdNat s (key + 4) 4 + 1) % 2 ^ 32) ∧
        ((u.thr k).t f.time).p = true ∧ ((u.thr k).t f.time).tick = s.onDie (s.dieOf k) s.now) ∧
      (barPast (barGen s key) (t.x f.d.toNat) = false → ∃ u ids, exec (.mlinkWait f) s = .next (wentOn 0xDC f s k u) ∧
        (u.grp g).links = gr.links ++ [(key, t.x f.d.toNat, ids)] ∧ SameMemory s u))

/-- The engine (R311, R312, R315, R316, R318, R319, R321), for a group with nothing else queued: an entry is granted a step at a boundary of its engine; a granted
step is applied at its tick: an integer step adds the products of its signed bytes (R315), one of BF16 or of 8-bit floats sums blocks of 16 products, each
rounded once, in the fixed pairwise tree (R314); the pass completes once every step is applied, with its
status and its count, and where an absent page stopped it, at its last application, or at the stop, its accumulator zero if it had none and ZERO (R333, R334); once
their reads have been made a codebook becomes valid, a slot's units and a step's streamed operand arrive, which waits for those of the steps before it. Nothing happens before its time. The model's own choices that it rests on: log 7, 36. -/
def Obligations.EngineCourse : Prop :=
  (∀ (s : State) (c : Nat),
    ((candidates s c = [] ∨ s.now < (s.cluster c).engine) → exec (.engineGrant c) s = .next s) ∧
    ∀ g p m gr, candidates s c = [(g, p, m)] → (s.cluster c).engine ≤ s.now → nfind s.groups g = some gr → gr.cluster = c →
      passOf s g p.pid = some p → ∃ t q, exec (.engineGrant c) s = .next t ∧ passOf t g p.pid = some q ∧ q.granted = p.granted + 1 ∧
        q.due = p.due ++ [s.now + stepTicks s c + 4] ∧ (t.cluster c).engine = s.now + stepTicks s c ∧ SameMemory s t ∧ t.accs = s.accs) ∧
  (∀ (s : State) (g pid : Nat) (p : Pass) (gr : Group) (acc : AccClaim), pid < 2 ^ 32 → nfind s.groups g = some gr → gr.queue = [.pass pid] →
    gr.passes = [p] → p.pid = pid → p.done = none → nfind gr.accs p.acc = some acc → acc.phys < 32 → gr.residency = .resident →
    let base := accBase gr.cluster acc.phys
    ((∀ x ∈ p.due, s.now < x) → exec (.stepApply (g * 2 ^ 32 + pid)) s = .next s) ∧
    (∀ x rest ra rb la lb pa pb, p.due = x :: rest → x ≤ s.now → p.zero = false → nfind gr.recs p.refA.rcd = some ra → nfind gr.recs p.refB.rcd = some rb →
      ra.fmt = 3 → rb.fmt = 3 → ra.sc = false → rb.sc = false → stepSlots gr p p.applied = ([la], [lb]) → nfind gr.pslots la = some pa →
      nfind gr.pslots lb = some pb → poisonedAt s (pantryKey gr.cluster pa 0) 8192 = false → poisonedAt s (pantryKey gr.cluster pb 0) 8192 = false →
      ∃ t q, exec (.stepApply (g * 2 ^ 32 + pid)) s = .next t ∧ passOf t g pid = some q ∧ q.applied = p.applied + 1 ∧ SameMemory s t ∧
        (∀ j, j < base ∨ base + 4096 ≤ j → nget t.accs j 0 = nget s.accs j 0) ∧
        ∀ row col, row < 64 → col < 64 → nget t.accs (base + 64 * row + col) 0 = nget s.accs (base + 64 * row + col) 0 + BitVec.ofInt 32
          ((List.range 128).map fun i => (Memory.read s.mem (pantryKey gr.cluster pa (128 * row + i))).toInt *
            (Memory.read s.mem (pantryKey gr.cluster pb (128 * col + i))).toInt).sum) ∧
    (∀ x rest ra rb la lb pa pb levels, p.due = x :: rest → x ≤ s.now → p.zero = false → nfind gr.recs p.refA.rcd = some ra →
      nfind gr.recs p.refB.rcd = some rb → (ra.fmt = 0 ∧ rb.fmt = 0 ∧ levels = 2 ∨ (ra.fmt = 1 ∨ ra.fmt = 2) ∧ (rb.fmt = 1 ∨ rb.fmt = 2) ∧ levels = 3) →
      ra.sc = false → rb.sc = false → stepSlots gr p p.applied = ([la], [lb]) → nfind gr.pslots la = some pa →
      nfind gr.pslots lb = some pb → poisonedAt s (pantryKey gr.cluster pa 0) 8192 = false → poisonedAt s (pantryKey gr.cluster pb 0) 8192 = false →
      let byte (q i : Nat) : Nat := (Memory.read s.mem (pantryKey gr.cluster q i)).toNat
      let value (r : OpRec) (q line i : Nat) : Sys2Proof.Machine.Real :=
        if r.fmt = 0 then bf16.read false (byte q (128 * line + 2 * i) + 256 * byte q (128 * line + 2 * i + 1))
        else if r.fmt = 1 then e4m3.read false (byte q (128 * line + i)) else e5m2.read false (byte q (128 * line + i))
      let rounded (v : Sys2Proof.Machine.Real) : Sys2Proof.Machine.Real := fp32.read false (fp32.round .rne false v)
      ∃ t q, exec (.stepApply (g * 2 ^ 32 + pid)) s = .next t ∧ passOf t g pid = some q ∧ q.applied = p.applied + 1 ∧ SameMemory s t ∧
        (∀ j, j < base ∨ base + 4096 ≤ j → nget t.accs j 0 = nget s.accs j 0) ∧
        ∀ (row col : Nat) (node : Nat → Nat → Sys2Proof.Machine.Real), row < 64 → col < 64 →
          (∀ b, node 0 b = rounded (sumR ((List.range 16).map fun i => mulR (value ra pa row (16 * b + i)) (value rb pb col (16 * b + i))))) →
          (∀ l b, node (l + 1) b = rounded (addR false (node l (2 * b)) (node l (2 * b + 1)))) →
          nget t.accs (base + 64 * row + col) 0 = BitVec.ofNat 32 (fp32.round .rne false
            (addR false (fp32.read false (nget s.accs (base + 64 * row + col) 0).toNat) (node levels 0)))) ∧
    (p.ended = false → exec (.passComplete (g * 2 ^ 32 + pid)) s = .next s) ∧
    (∀ k th, p.ended = true → p.arrivals = [] → p.threads = [k] → nfind s.threads k = some th → ∃ t q,
      exec (.passComplete (g * 2 ^ 32 + pid)) s = .next t ∧ passOf t g pid = some q ∧
        q.done = some (BitVec.ofNat 32 ((p.stop.getD (0, 0)).1 * 2 ^ 30 + (p.stop.getD (0, 0)).2 * 2 ^ 24 + p.applied)) ∧ 
        q.doneAt = (if (p.stop.getD (0, 0)).1 = 1 then (if 0 < p.applied then p.doneAt else p.stopAt) else s.now) ∧
        (t.thr k).passes = th.passes - 1 ∧ (t.thr k).regs = th.regs ∧ SameMemory s t ∧
        (¬ ((p.stop.getD (0, 0)).1 = 1 ∧ p.zero = true ∧ p.applied = 0) → t.accs = s.accs) ∧
        ((p.stop.getD (0, 0)).1 = 1 → p.zero = true → p.applied = 0 → ∀ j, nget t.accs j 0 =
          if base ≤ j ∧ j < base + 4096 then 0 else nget s.accs j 0))) ∧
  ∀ (s : State) (id g : Nat) (x : Xfer) (gr : Group), nfind s.xfers id = some x → x.group = g → nfind s.groups g = some gr →
    (x.started = false → exec (.slotTransferComplete id) s = .next s) ∧
    ((x.booked = false ∨ piecesDone s id = false) → ((∃ r, x.kind = .book r) → exec (.cbldComplete id) s = .next s) ∧
      ((∃ l, x.kind = .slotIn l) → exec (.slotTransferComplete id) s = .next s) ∧
      ((∃ pid step, x.kind = .stream pid step) → exec (.streamLoad id) s = .next s)) ∧
    (x.started = true → x.booked = true → piecesDone s id = true → gr.queue = [.xfer id] → (∀ p ∈ gr.passes, p.done ≠ none) →
      (∀ r d, x.kind = .book r → nfind gr.recs r = some d → ∃ t, exec (.cbldComplete id) s = .next t ∧ nfind t.xfers id = none ∧ SameMemory s t ∧
        nfind (t.grp g).recs r = some (if wholeStatus x.gotAll = 0 then { d with book := some ((List.range 16).map fun c =>
          BitVec.ofNat 16 (natOfBytes (((x.gotAll.flatMap (·.data)).drop (2 * c)).take 2))) } else d)) ∧
      (∀ l p, x.kind = .slotIn l → gr.residency = .resident → nfind gr.pslots l = some p → x.stop = none →
        (∀ y ∈ x.gotAll, y.absent = false ∧ y.poisoned = false ∧ y.data.length = 16) →
        ∃ t, exec (.slotTransferComplete id) s = .next t ∧ nfind t.xfers id = none ∧
          SameMemoryBut (pantryKey gr.cluster p 0) (16 * x.units) s t ∧
          ∀ u, u < x.units → rdBytes t (pantryKey gr.cluster p (16 * u)) 16 = (x.gotUnit u).data)) ∧
    (∀ l, x.started = true → x.kind = .slotOut l → x.units ≤ x.next → xferDone s x = true → gr.queue = [.xfer id] →
      (∀ p ∈ gr.passes, p.done ≠ none) → ∃ t, exec (.slotTransferComplete id) s = .next t ∧ nfind t.xfers id = none ∧ SameMemory s t ∧
        ∀ r v th, x.rets = [r] → nfind s.rets r = some v → v.discard = false → v.n = 1 → v.dst ≠ 0 → nfind s.threads v.th = some th →
          x.stop = none → x.cut = [] → (∀ j, j < x.units → x.moved.contains j = true) → (t.thr v.th).x v.dst = BitVec.ofNat 32 (16 * x.units)) ∧
    (∀ pid step p, x.kind = .stream pid step → x.booked = true → piecesDone s id = true → passOf s g pid = some p → x.stop = none →
      (∀ y ∈ x.gotAll, y.absent = false ∧ y.poisoned = false) →
      ∃ t q, exec (.streamLoad id) s = .next t ∧ passOf t g pid = some q ∧ (step = p.loaded → p.early = [] → q.loaded = p.loaded + 1) ∧
        (p.loaded < step → p.loaded ∉ p.early → q.loaded = p.loaded ∧ step ∈ q.early))

/-! ### Class 0xE (spec/20) -/

/-- The queries and settings of class 0xE, with the canonical results of deterministic mode (R349 to R353, R356): each writes one register, or changes its own group
alone; ROWWAKE wakes nothing where no thread of its rows is parked on a tick. The model's own choices that it rests on: log 4, 61, 62. -/
def Obligations.WorkQueries : Prop :=
  ∀ (s : State) (k n : Nat) (f : Fields),
    let t := s.thr k
    let g := s.grpOf k
    let l := s.lchOf k
    let ten := s.tenant l.tenant
    let c := s.cluster g.cluster
    let canon := if l.kernel.canon = 0 then 768 else l.kernel.canon
    let put (v : Nat) : State := put1 s k f.d.toNat (BitVec.ofNat 32 v)
    let fin (v lim : Nat) : Nat := min v 65535 + min lim 65535 * 65536
    let used := budgetUsed s l.tenant
    let a := t.x f.a.toNat
    ((l.kernel.splits.getD (f.imm18.toNat % 8) 1 ≠ 0 ∨ s.det k = true) →
      Does 0xE3 f k s (exec (.splitq f) s) (put (l.kernel.splits.getD (f.imm18.toNat % 8) 1))) ∧
    (l.kernel.splits.getD (f.imm18.toNat % 8) 1 = 0 → s.det k = false → Does 0xE3 f k s (exec (.splitq f) s)
      (put ((List.range 192).filter fun i => inPartition s l.tenant i && (List.range 4).any fun j => s.liveCore (4 * i + j)).length)) ∧
    (s.det k = true → Does 0xE4 f k s (exec (.cores f) s) (put canon)) ∧
    (s.det k = false → Does 0xE4 f k s (exec (.cores f) s)
      (put ((partitionCores s l.tenant).filter fun i => !(s.core i).cullet).length)) ∧
    Does 0xE5 f k s (exec (.thrarm f) s) (s.modGrp (k / 2048) fun y => { y with armStart := a.getLsbD 0, armEnd := a.getLsbD 1 }) ∧
    (n = (if s.det k then 0 else c.throttled.toNat + g.firedStart.toNat * 2 + g.firedEnd.toNat * 4 + min g.edges 255 * 256) →
      Does 0xE6 f k s (exec (.thrack f) s) ((put n).modGrp (k / 2048) fun y =>
        { y with armStart := y.armStart || y.firedStart, armEnd := y.armEnd || y.firedEnd, firedStart := false, firedEnd := false, edges := 0 })) ∧
    (s.det k = true → Does 0xE7 f k s (exec (.budget f) s) (put 0xFFFFFFFF)) ∧
    (s.det k = false →
      (f.m = 0 → Does 0xE7 f k s (exec (.budget f) s) (put (fin used.1 ten.cores))) ∧
      (f.m = 1 → Does 0xE7 f k s (exec (.budget f) s) (put (fin used.2.1 ten.bytes))) ∧
      (f.m = 2 → Does 0xE7 f k s (exec (.budget f) s) (put (fin used.2.2 ten.power))) ∧
      (f.m = 3 → Does 0xE7 f k s (exec (.budget f) s) (put ((if ten.cores ≤ used.1 then 1 else 0) + (if ten.bytes ≤ used.2.1 then 2 else 0) +
        (if ten.power ≤ used.2.2 then 4 else 0) + min (tenantTodo s l.tenant) 65535 * 65536)))) ∧
    (n = (if a = 0xFFFFFFFF then s.coreOf k else a.toNat) →
      (s.det k = true → Does 0xE8 f k s (exec (.featq f) s) (put (if a.toNat < canon then 0x11F else 0))) ∧
      (s.det k = false → 768 ≤ n → Does 0xE8 f k s (exec (.featq f) s) (put 0)) ∧
      (s.det k = false → n < 768 → Does 0xE8 f k s (exec (.featq f) s)
        (put (s.featOf n + (if s.liveCore n then 256 else 0) + (if (s.core n).cullet then 512 else 0))))) ∧
    (s.det k = false →
      (f.m = 0 → Does 0xE9 f k s (exec (.clkq f) s) (put c.ratio)) ∧ (f.m = 1 → Does 0xE9 f k s (exec (.clkq f) s) (put c.mhz)) ∧
      (f.m = 2 → Does 0xE9 f k s (exec (.clkq f) s) (put (c.ratioReq.getD 0xFFFFFFFF)))) ∧
    (s.det k = true →
      (f.m = 0 → Does 0xE9 f k s (exec (.clkq f) s) (put 1)) ∧ (f.m = 1 → Does 0xE9 f k s (exec (.clkq f) s) (put 1250)) ∧
      (f.m = 2 → Does 0xE9 f k s (exec (.clkq f) s) (put 0xFFFFFFFF))) ∧
    Does 0xEA f k s (exec (.setprio f) s) (s.modGrp (k / 2048) fun y => { y with prio := min (f.imm18.toNat % 4) ten.pcap }) ∧
    Does 0xEC f k s (exec (.detq f) s) (put ((if s.det k then 1 else 0) + (if l.audit.getLsbD 5 then 2 else 0))) ∧
    ((∀ j ∈ threadsOf s (k / 2048), (a = 0xFFFFFFFF ∨ j % 2048 / 32 = a.toNat) → ∀ w, (s.thr j).wait ≠ .tick w ∧ (s.thr j).wait ≠ .idle w ∧
      (s.thr j).wait ≠ .park w ∧ (s.thr j).wait ≠ .woken w) → Does 0xED f k s (exec (.rowwake f) s) s) ∧
    (∀ j w, threadsOf s (k / 2048) = [j, k] → j ≠ k → ((s.thr j).wait = .tick w ∨ (s.thr j).wait = .idle w ∨ (s.thr j).wait = .park w ∨
      (s.thr j).wait = .woken w) → (s.thr k).wait = .none →
      (a = 0xFFFFFFFF ∨ j % 2048 / 32 = a.toNat) → Does 0xED f k s (exec (.rowwake f) s)
        (advanceBy (s.modThr j fun u => { u with wait := .none }) j 1)) ∧
    (g.prio < 4 → l.prio < 4 → ten.pcap < 4 → g.mprio < 4 → Does 0xEE f k s (exec (.prioq f) s)
      (put (g.prio + l.prio * 4 + (if s.det k then 3 else ten.pcap) * 16 + g.mprio * 256))) ∧
    (s.det k = true → Does 0xEF f k s (exec (.cycles f) s) (put2 s k f.d.toNat 0)) ∧
    (s.det k = false → Does 0xEF f k s (exec (.cycles f) s)
      (put2 s k f.d.toNat (BitVec.ofNat 64 (c.cycles + (s.now - c.cycleAt) * c.mhz / 1250))))

/-- Work from threads and from the host (R339, R344, R345, R350, R422): LAUNCH reads the record that it names and lands a handle, the record then in the
larder with its groups undispatched, or a status word with nothing placed; LAUNCHW parks while the larder is full; a capability, a poisoned record and a
record still to be written stop it; a LAUNCHW that waits has its record, read and checked once, accepted when there is room. SUBMIT_GO does the same for the host. CANCEL answers 2, 1 or 0, and cancels. HOMEQ starts. The model's own choices that it rests on: log 55, 58, 60, 95, 104. -/
def Obligations.WorkWords : Prop :=
  (∀ (s : State) (k op slot key : Nat) (f : Fields) (i : Fields → Instr) (wait : Bool),
    (i, op, wait) ∈ [(Instr.launch, 0xE0, false), (Instr.launchw, 0xE1, true)] → Alone s k op f →
    let c := (s.thr k).cap (4 * f.a.toNat)
    let a := (c.cursor + ((s.thr k).x f.b.toNat).toNat) % 2 ^ 52
    let tenant := (s.lchOf k).tenant
    let r := readRecord s key
    let answered (u : State) (w : Word) : Prop := ∃ id v, nfind u.rets id = some v ∧ v.th = k ∧ v.dst = f.d.toNat ∧ v.data = bytesOfNat w.toNat 4 ∧
      v.phase = .read (s.now + 2) ∧ ((u.thr k).t f.time).p = true ∧ ((u.thr k).t f.time).tick = s.nowOf k ∧ (u.thr k).regs = (s.thr k).regs ∧
      SameMemory s u
    (∀ x, accessFault s k c (permLD ||| permCL) a 128 16 [1] = some x → exec (i f) s = .next (takeFlt s k x)) ∧
    (accessFault s k c (permLD ||| permCL) a 128 16 [1] = none → key = 2 ^ 52 + (s.grpOf k).cluster * 2 ^ 22 + a % 2 ^ 22 →
      (recordHeld s k key = true → exec (i f) s = .next s) ∧
      (recordHeld s k key = false → poisonedAt s key 128 = true → exec (i f) s = .next (takeFlt s k { cause := 14, addr := a })) ∧
      (recordHeld s k key = false → poisonedAt s key 128 = false →
        (∀ st det, checkRecord s tenant false r = (st, det) → st ≠ 0 → ∃ u, exec (i f) s = .next (wentOn op f s k u) ∧
          answered u (BitVec.ofNat 32 (2 ^ 31 + det * 256 + st)) ∧ u.launches = s.launches) ∧
        (∀ st det, checkRecord s tenant false r = (0, 0) → recordFull s false r.gmode = (st, det) → st ≠ 0 →
          (wait = true → ∃ u v, exec (i f) s = .next u ∧ (u.thr k).wait = .larder r s.ids ∧ nfind u.rets s.ids = some v ∧ v.th = k ∧
            v.dst = f.d.toNat ∧ v.treg = some f.time ∧ (u.thr k).pc = (s.thr k).pc ∧ u.launches = s.launches ∧ SameMemory s u) ∧
          (wait = false → ∃ u, exec (i f) s = .next (wentOn op f s k u) ∧ answered u (BitVec.ofNat 32 (2 ^ 31 + det * 256 + st)) ∧
            u.launches = s.launches)) ∧
        (checkRecord s tenant false r = (0, 0) → recordFull s false r.gmode = (0, 0) → freeSlot s = some slot → ∃ u l,
          exec (i f) s = .next (wentOn op f s k u) ∧ nfind u.launches slot = some l ∧ answered u (BitVec.ofNat 32 (l.gen * 4096 + slot)) ∧
          l.gen ≠ 0 ∧ l.tenant = tenant ∧ l.gx = r.gx ∧ l.gy = r.gy ∧ l.gz = r.gz ∧ l.todo = List.range r.groups ∧ l.open_ = r.groups ∧
          l.startTick = none ∧ l.complete = false ∧ l.cancelled = false ∧ l.root = false ∧ l.kernel = kernelOf (headerWords s tenant (r.slot 0)) ∧
          (∀ j, j ≠ slot → nfind u.launches j = nfind s.launches j))))) ∧
  (∀ (s : State) (k id : Nat) (r : LaunchRec), (s.thr k).wait = .larder r id →
    ((recordFull s false r.gmode).1 ≠ 0 → exec (.parkWake k) s = .next s) ∧
    ((recordFull s false r.gmode).1 = 0 →
      exec (.parkWake k) s = .next (wakeOn (larderAnswer (acceptRecord s k r).1 k id (acceptRecord s k r).2) k))) ∧
  (∀ (s : State) (k l : Nat) (f : Fields),
    let d := f.d.toNat
    (handleSlot s k ((s.thr k).x f.a.toNat) = none → Does 0xE2 f k s (exec (.cancel f) s) (put1 s k d 2)) ∧
    (handleSlot s k ((s.thr k).x f.a.toNat) = some l → (∀ i ∈ levelLaunches s l f.m.toNat, (s.lch i).complete = true) →
      Does 0xE2 f k s (exec (.cancel f) s) (put1 s k d 1)) ∧
    (handleSlot s k ((s.thr k).x f.a.toNat) = some l → f.m = 0 → (∃ x, nfind s.launches l = some x ∧ x.complete = false) → Alone s k 0xE2 f →
      ∃ u x, exec (.cancel f) s = .next (wentOn 0xE2 f s k u) ∧ nfind u.launches l = some x ∧ x.cancelled = true ∧ x.todo = [] ∧
        (d ≠ 0 → (u.thr k).x d = 0) ∧ SameMemory s u ∧ ∀ g y, nfind s.groups g = some y → y.launch = l → (u.grp g).cancelled = true)) ∧
  (∀ (s : State) (k : Nat) (f : Fields),
    let c := (s.thr k).cap (4 * f.a.toNat)
    let a := (c.cursor + ((s.thr k).x f.b.toNat).toNat) % 2 ^ 52
    let n := ((s.thr k).x f.d.toNat).toNat
    Alone s k 0xEB f → accessFault s k c permLD a (max n 1) 1 = none →
    ((n = 0 ∨ 2 ^ 31 < n) → exec (.homeq f) s = .next (takeFlt s k { cause := 4, sub := 4, addr := a })) ∧
    (0 < n → n ≤ 2 ^ 31 → translated c.space = true → ∃ u r tick, exec (.homeq f) s = .next (wentOn 0xEB f s k u) ∧ nfind u.rets s.ids = some r ∧
      r.kind = .homeq (a + n) [] ∧ r.dst = f.d.toNat ∧ r.treg = some f.time ∧ r.va = a ∧ r.phase = .walk tick 4 (s.tenant (s.lchOf k).tenant).root ∧
      (u.thr k).regs = (s.thr k).regs ∧ SameMemory s u) ∧
    (0 < n → n ≤ 2 ^ 31 → translated c.space = false → ∃ u r, exec (.homeq f) s = .next (wentOn 0xEB f s k u) ∧ nfind u.rets s.ids = some r ∧
      r.kind = .word ∧ r.dst = f.d.toNat ∧ r.treg = some f.time ∧ r.phase = .read (s.now + 2) ∧
      r.data = bytesOfNat (homeWord s k (windowHomes s (s.lchOf k).tenant c.space a n)).toNat 4 ∧ (u.thr k).regs = (s.thr k).regs ∧ SameMemory s u)) ∧
  ∀ (s : State) (window slot tenant : Nat) (go : Word), alive s = true → window ≤ 16 → go.getLsbD 0 = true →
    tenant = (if window = 16 then go.toNat / 16 % 16 else window) →
    let w := nget s.windows window {}
    let r := windowRecord w
    let answer (x : State) (v : Word) : State := { x with windows := nset x.windows window { w with result := v } }
    (w.result = 0xFFFFFFFF → exec (.submitGo window go) s = .next s) ∧
    (w.result ≠ 0xFFFFFFFF → w.root = 0 → exec (.submitGo window go) s = .next (answer s 0x80000008)) ∧
    (∀ st det, w.result ≠ 0xFFFFFFFF → w.root ≠ 0 → checkRecord s tenant true r = (st, det) → st ≠ 0 →
      exec (.submitGo window go) s = .next (answer s (BitVec.ofNat 32 (2 ^ 31 + det * 256 + st)))) ∧
    (w.result ≠ 0xFFFFFFFF → w.root ≠ 0 → checkRecord s tenant true r = (0, 0) → recordFull s true r.gmode = (0, 0) → freeSlot s = some slot →
      ∃ u l v, exec (.submitGo window go) s = .next u ∧ nfind u.launches slot = some l ∧ nfind u.windows window = some v ∧
        v.result = BitVec.ofNat 32 (l.gen * 4096 + slot) ∧ l.root = true ∧ l.tenant = tenant ∧ l.todo = List.range r.groups ∧
        l.system = (decide (window = 16) && go.getLsbD 1) ∧ SameMemory s u)

/-! ### The course of launches and groups (spec/04, spec/20, spec/21) -/

/-- A launch starts when its conditions hold (R433): the start tick is kept and every lease and L1 line goes. The first group that has a place is dispatched, on
its own die or, spilled, on another: its threads at word 0 in user mode, its cluster allocation zero. Where clusters fit but for the lane ratio, and none before it has a place, the distributor asks one of them for it (R357). A group ends when it is quiet, and a launch when its groups
have (R94, R340). Each does nothing while its condition does not hold. The model's own choices that it rests on: log 11, 63. -/
def Obligations.LaunchCourse : Prop :=
  ∀ (s : State) (l i g : Nat),
    let placed (p : Spot) (o : Host.Outcome State Fault Refusal) : Prop := ∃ t gr, o = .next t ∧ nfind t.groups s.ids = some gr ∧ gr.launch = l ∧
      gr.index = i ∧ gr.cluster = p.cluster ∧ gr.residency = .resident ∧ gr.sramBase = p.base ∧ gr.tiles = [] ∧ gr.queue = [] ∧
      (∀ j, j < 32 * (s.lch l).kernel.rows → ∃ th, nfind t.threads (s.ids * 2048 + j) = some th ∧ th.pc = 0 ∧ th.atHeader = true ∧ th.life = .live ∧
        th.wait = .none ∧ th.sys = (s.lch l).system ∧ th.pend = [] ∧ th.loads = 0 ∧ th.stores = 0 ∧ th.mode.getLsbD 8 = (s.lch l).kernel.det) ∧
      ∀ j, j < allocBytes (s.lch l).kernel.clusterBytes → Memory.read t.mem (sramKey p.cluster p.base + j) = 0
    (startDue s l = false → exec (.launchStart l) s = .next s) ∧
    (startDue s l = true → ∃ t x, exec (.launchStart l) s = .next t ∧ nfind t.launches l = some x ∧ x.startTick = some s.now ∧ t.leases = [] ∧
      (∀ c, (t.core c).l1 = []) ∧ t.threads = s.threads ∧ SameMemory s t) ∧
    ((∃ x, nfind s.launches l = some x) → (∀ j, nfind s.threads (s.ids * 2048 + j) = none) → nextRatio s = none →
      (∀ p, nextPlace s = some (.new l i, p) → dieOfCluster p.cluster = dieFor s l i →
        placed p (exec (.groupDispatch l i) s) ∧ exec (.groupSpill l i) s = .next s) ∧
      (∀ p, nextPlace s = some (.new l i, p) → dieOfCluster p.cluster ≠ dieFor s l i →
        placed p (exec (.groupSpill l i) s) ∧ exec (.groupDispatch l i) s = .next s)) ∧
    (nextPlace s = none → nextRatio s = none → exec (.groupDispatch l i) s = .next s ∧ exec (.groupSpill l i) s = .next s) ∧
    (∀ c, nextRatio s = some (.new l i, c) → exec (.groupSpill l i) s = .next s ∧
      exec (.groupDispatch l i) s = .next (s.modCluster c fun x => { x with ratioReq := some ((s.lch l).ratio - 1) })) ∧
    (∀ w c, nextRatio s = some (w, c) → w ≠ .new l i → exec (.groupDispatch l i) s = .next s ∧ exec (.groupSpill l i) s = .next s) ∧
    (endDue s g = false → exec (.groupEnd g) s = .next s) ∧
    (∀ gr x, endDue s g = true → nfind s.groups g = some gr → gr.selected = false → nfind s.launches gr.launch = some x → x.kernel.det = false →
      ∃ t, exec (.groupEnd g) s = .next t ∧ nfind t.groups g = none ∧ (t.lch gr.launch).open_ = x.open_ - 1 ∧
        (∀ j, j / 2048 = g → nfind t.threads j = none) ∧ (∀ j, j / 2048 ≠ g → nfind t.threads j = nfind s.threads j) ∧ SameMemory s t) ∧
    (completeDue s l = false → exec (.launchComplete l) s = .next s) ∧
    (∀ x, completeDue s l = true → nfind s.launches l = some x → ∃ t y, exec (.launchComplete l) s = .next t ∧ nfind t.launches l = some y ∧
      y.complete = true ∧ y.gen = x.gen ∧ t.threads = s.threads ∧ (x.root = false → SameMemory s t) ∧
      SameMemoryBut (2 * 2 ^ 48) (2 ^ 48 + 32) s t)

/-- Pre-emption and kills (R104 to R106, R383): a request marks a group, but for one with a higher priority than another on its cluster (R351), and rewinds its parked threads; a pause that cannot end is lifted, and dropped after
PRECAP retries; a save keeps of each thread the registers that its header names, the rest zero; a saved group resumes where it has a place, and one for which clusters fit but for the lane ratio has one asked for it (R357); a kill
takes a group's threads at once. The model's own choices that it rests on: log 57, 64. -/
def Obligations.GroupCourse : Prop :=
  ∀ (s : State) (g : Nat) (gr : Group), nfind s.groups g = some gr →
    ((gr.residency ≠ .resident ∨ gr.cancelled = true) → exec (.preemptRequest g) s = .next s) ∧
    (preemptTurn s g = false → exec (.preemptRequest g) s = .next s) ∧
    (preemptTurn s g = true → gr.residency = .resident → gr.cancelled = false →
      (∀ k ∈ threadsOf s g, (s.thr k).wait = .none ∨ (s.thr k).life ≠ .live ∨ hdrIdem (s.thr k).hdrWord = false) →
      exec (.preemptRequest g) s = .next (s.modGrp g fun x => { x with preempt := true, retryAt := none })) ∧
    (∀ k w th, preemptTurn s g = true → gr.residency = .resident → gr.cancelled = false → s.threads = [(k, th)] → k / 2048 = g → th.life = .live → th.wait = .tick w →
      hdrIdem th.hdrWord = true → ∃ t, exec (.preemptRequest g) s = .next t ∧ (t.thr k).wait = .none ∧ (t.thr k).pc = th.hdr ∧
        (t.thr k).atHeader = true ∧ (t.thr k).regs = th.regs ∧ (t.grp g).preempt = true ∧ SameMemory s t) ∧
    (liftDue s g = true →
      (gr.retries < s.csrs.precap.toNat % 256 → exec (.preemptRetry g) s = .next (s.modGrp g fun x =>
        { x with preempt := false, retries := x.retries + 1, retryAt := some (s.now + 4096) })) ∧
      (s.csrs.precap.toNat % 256 ≤ gr.retries → ∃ t, exec (.preemptRetry g) s = .next t ∧ (t.grp g).preempt = false ∧ (t.grp g).retries = 0 ∧
        t.threads = s.threads ∧ SameMemoryBut (2 * 2 ^ 48) (2 ^ 48 + 32) s t)) ∧
    (liftDue s g = false → (∀ x, gr.retryAt = some x → s.now < x) → exec (.preemptRetry g) s = .next s) ∧
    (saveDue s g = false → exec (.contextSave g) s = .next s) ∧
    (saveDue s g = true → ∃ t, exec (.contextSave g) s = .next t ∧ (t.grp g).residency = .saved ∧ (t.grp g).preempt = false ∧
      ∀ k th live tl, k / 2048 = g → nfind s.threads k = some th → th.life = .live → savedCounts s k = some (live, tl) →
        (∀ r, r ≤ live → (t.thr k).x r = th.x r) ∧ (∀ r, live < r → (t.thr k).x r = 0) ∧ (∀ r, r < tl → (t.thr k).t r = th.t r) ∧
        (∀ r, tl ≤ r → (t.thr k).t r = {}) ∧ (t.thr k).pc = th.pc ∧ (t.thr k).mode = th.mode ∧ (t.thr k).status = th.status ∧
        (t.thr k).late = th.late ∧ (t.thr k).pend = []) ∧
    (∀ p, nextRatio s = none → nextPlace s = some (.saved g, p) → ∃ t, exec (.groupResume g p.cluster) s = .next t ∧ (t.grp g).residency = .resident ∧
      (t.grp g).cluster = p.cluster) ∧
    (∀ l i p c, nextRatio s = none → nextPlace s = some (.new l i, p) → exec (.groupResume g c) s = .next s) ∧
    (∀ w c b, nextRatio s = some (w, c) → exec (.groupResume g b) s = .next (if w = .saved g then
      s.modCluster c fun x => { x with ratioReq := some ((s.lch gr.launch).ratio - 1) } else s)) ∧
    (∀ cause who,
      (gr.residency = .resident → ∃ t, exec (.groupKill g cause who) s = .next t ∧ (t.grp g).residency = .killed cause who ∧
        (∀ j, j / 2048 = g → nfind t.threads j = none) ∧ (∀ j, j / 2048 ≠ g → nfind t.threads j = nfind s.threads j) ∧ SameMemory s t) ∧
      (∀ c w, gr.residency = .killed c w → killDone s g = false → exec (.groupKill g cause who) s = .next s) ∧
      (∀ c w, gr.residency = .killed c w → killDone s g = true → ∃ t, exec (.groupKill g cause who) s = .next t ∧
        nfind t.groups g = none ∧ SameMemoryBut (2 * 2 ^ 48) (2 ^ 48 + 32) s t))

/-! ### Class 0xF (spec/21) -/

/-- SRET (R376): where the thread's slot is not mapped, or its image is bad, the group is killed; a valid image is restored; so a thread that a trap has taken
(a thread that DBGSTEP lets make one step stops again, R372) comes back, after SRET at once, with what fell due in the handler (R378), to the word, the registers, the time registers, the mode, the status and the late counter that it had, in the mode of its
launch. The model's own choices that it rests on: log 16, 17, 90. -/
def Obligations.TrapReturn : Prop :=
  ∀ (s : State) (k : Nat) (f : Fields), Alone s k 0xF0 f →
    let t := s.thr k
    (keyNow s (s.lchOf k).tenant (trapSlot s t) = none →
      exec (.sret f) s = .next (debugStop (killGroup (noteWalk s (s.lchOf k).tenant (trapSlot s t) t.owner) (k / 2048) 16 t.owner) k)) ∧
    (∀ key img, keyNow s (s.lchOf k).tenant (trapSlot s t) = some key → s.upds = [] → img = rdBytes s key 2320 →
      (imageValid t (s.kernOf k).regs img = false → exec (.sret f) s = .next (debugStop (killGroup s (k / 2048) 16 t.owner) k)) ∧
      (imageValid t (s.kernOf k).regs img = true → (imgWord img 0).toNat < (s.kernOf k).extent → poisonedAt s key 2320 = false →
        ∃ u, exec (.sret f) s = .next u ∧ SameMemory s u ∧ (u.thr k).pc = (imgWord img 0).toNat ∧ (u.thr k).sys = (s.lchOf k).system ∧
          (u.thr k).status = imgWord img 3 &&& 7 ∧ (u.thr k).late = (imgWord img 5).toNat ∧
          (∀ r, 0 < r → r < (s.kernOf k).regs → (u.thr k).x r = imgWord img (68 + r)) ∧
          (∀ i, i < 16 → ((u.thr k).t i).bits = imgWord img (37 + 2 * i) ++ imgWord img (36 + 2 * i)) ∧
          (u.thr k).pendLate = ((imgWord img 14).getLsbD 0 || t.pendLate) ∧ (t.debugStep = true → (u.thr k).life ≠ .live))) ∧
    ∀ (z : State) (old : Thread) (key pc cause sub : Nat) (second : Bool) (val addr : Nat), s = deliver z k pc cause sub second val addr →
      nfind z.threads k = some old → old.sys = false → z.csrs.sextn ≠ 0 → keyNow z (z.lchOf k).tenant (trapSlot z old) = some key →
      keyNow s (z.lchOf k).tenant (trapSlot z old) = some key → z.upds = [] → cause < 64 → sub < 64 → pc < (z.kernOf k).extent → pc < 2 ^ 32 →
      0 < (z.kernOf k).regs → (z.kernOf k).regs ≤ 512 → old.owner < 2 ^ 32 → old.refusal = none → old.late < 2 ^ 16 → old.status &&& ~~~7 = 0 →
      old.mode &&& ~~~0x10F = 0 → (∀ i, (old.t i).tick < 2 ^ 60) →
      ∃ u, exec (.sret f) s = .next u ∧ (u.thr k).pc = pc ∧ (u.thr k).sys = (z.lchOf k).system ∧ (u.thr k).mode = old.mode ∧
        (u.thr k).status = old.status ∧ (u.thr k).late = old.late ∧ (∀ r, r < (z.kernOf k).regs → (u.thr k).x r = old.x r) ∧
        (∀ i, i < 16 → (u.thr k).t i = old.t i) ∧ (u.thr k).pendLate = old.pendLate ∧ (u.thr k).loads = old.loads

/-- The control and status registers (R363, Table 21.2): CSRR reads each, CSRW writes what its access code and its fields let it, HDOOR and CLKREQ act, a read-only register stays; TLBINV
empties the TLBs, the lanes' last-page registers and the base dies' caches of table entries, or takes out what maps an address (R364, R393). A word that names no register, or an address beyond 52 bits, is an illegal
instruction. The model's own choices that it rests on: log 4, 66, 67, 68. -/
def Obligations.ControlRegisters : Prop :=
  ∀ (s : State) (k n : Nat) (f : Fields),
    let c := s.csrs
    let v := (s.thr k).x f.a.toNat
    let core := s.coreOf k
    let x := s.core core
    let ten := s.tenant (c.tnsel.toNat % 16)
    n = f.imm18.toNat →
    (∀ w : Word, (n, w) ∈ [(0x000, c.devid), (0x001, c.diemask), (0x002, BitVec.ofNat 32 core), (0x010, c.sextl), (0x011, c.sexth), (0x012, c.sextn),
        (0x013, c.stvec), (0x014, c.tbasel), (0x015, c.tbaseh), (0x020, if x.dbgen then 1 else 0), (0x021, x.fmask.setWidth 32),
        (0x022, if x.halted then 1 else 0), (0x030, c.precap), (0x031, 0), (0x040, c.audctl), (0x050, c.tnsel), (0x051, ten.part.getD 0 0),
        (0x052, ten.part.getD 1 0), (0x053, ten.part.getD 2 0), (0x054, ten.part.getD 3 0), (0x055, ten.part.getD 4 0),
        (0x056, ten.part.getD 5 0), (0x057, BitVec.ofNat 32 ten.cores), (0x058, BitVec.ofNat 32 ten.bytes), (0x059, BitVec.ofNat 32 ten.power),
        (0x05A, BitVec.ofNat 32 ten.pcap), (0x060, c.mclost), (0x070, 0)] → Does 0xF1 f k s (exec (.csrr f) s) (put1 s k f.d.toNat w)) ∧
    (∀ y : Csrs, (n, y) ∈ [(0x010, { c with sextl := v &&& 0xFFFFFFC0 }), (0x011, { c with sexth := v &&& 0xFFFFF }), (0x012, { c with sextn := v }),
        (0x013, { c with stvec := v }), (0x014, { c with tbasel := v &&& 0xFFFFF000 }), (0x015, { c with tbaseh := v &&& 0xFFFFF }),
        (0x030, { c with precap := v &&& 0xFF }), (0x050, { c with tnsel := v &&& 0xF }), (0x060, { c with mclost := c.mclost &&& ~~~v })] →
      Does 0xF2 f k s (exec (.csrw f) s) { s with csrs := y }) ∧
    (n = 0x020 → Does 0xF2 f k s (exec (.csrw f) s) (s.modCore core fun y => { y with dbgen := v.getLsbD 0 })) ∧
    (n = 0x021 → (∀ g ∈ s.groups, (s.lch g.2.launch).kernel.feat = 0) → (x.fmask.getLsbD 8 = false ∨ v.getLsbD 8 = true) →
      Does 0xF2 f k s (exec (.csrw f) s) (s.modCore core fun y => { y with fmask := y.fmask &&& v.setWidth 9 })) ∧
    (n = 0x040 → (v.getLsbD 6 = false ∨ c.audctl.getLsbD 6 = true) →
      Does 0xF2 f k s (exec (.csrw f) s) { s with csrs := { c with audctl := v &&& 0x7F } }) ∧
    (n = 0x031 → (∀ p ∈ s.threads, ∀ w, p.2.wait ≠ .idle w) → Does 0xF2 f k s (exec (.csrw f) s) s) ∧
    (n = 0x031 → (s.threads.map (·.1)).Nodup → Alone s k 0xF2 f → ∃ u, exec (.csrw f) s = .next (wentOn 0xF2 f s k u) ∧ SameMemory s u ∧ u.upds = s.upds ∧
      ∀ j th, nfind s.threads j = some th → ((∃ w, th.wait = .idle w) → (u.thr j).wait = .none ∧ (u.thr j).regs = th.regs ∧ (u.thr j).treg = th.treg) ∧
        ((∀ w, th.wait ≠ .idle w) → nfind u.threads j = some th)) ∧
    (n ∈ [0x000, 0x001, 0x002, 0x022] → Does 0xF2 f k s (exec (.csrw f) s) s) ∧
    (n ∉ [0x000, 0x001, 0x002, 0x010, 0x011, 0x012, 0x013, 0x014, 0x015, 0x020, 0x021, 0x022, 0x030, 0x031, 0x040, 0x050, 0x051, 0x052, 0x053, 0x054, 0x055,
        0x056, 0x057, 0x058, 0x059, 0x05A, 0x060, 0x070] → replaying s k = false → s.beat.threads = [k] → mayRun s k = true → asyncDue (s.thr k) = none →
      (refusalDue s k 0xF1 f = false → exec (.csrr f) s = .next (takeFlt s k { cause := 1, sub := 1 })) ∧
      (refusalDue s k 0xF2 f = false → exec (.csrw f) s = .next (takeFlt s k { cause := 1, sub := 1 }))) ∧
    (n = 0x070 → v.toNat % 256 < 192 → v.toNat / 1024 % 2 = 0 → v.toNat / 256 % 4 ≠ 3 → 25 ≤ v.toNat / 4096 % 64 → v.toNat / 4096 % 64 ≤ 50 →
      Does 0xF2 f k s (exec (.csrw f) s) (s.modCluster (v.toNat % 256) fun y =>
        { y with ratioReq := some (v.toNat / 256 % 4), mhzReq := some (25 * (v.toNat / 4096 % 64)) })) ∧
    (∀ (j : Nat) (tn : State → State), (j, tn) ∈ [(0x057, fun x => x.modTenant (c.tnsel.toNat % 16) fun t => { t with cores := v.toNat % 2 ^ 10 }),
        (0x059, fun x => x.modTenant (c.tnsel.toNat % 16) fun t => { t with power := v.toNat % 2 ^ 16 }),
        (0x05A, fun x => x.modTenant (c.tnsel.toNat % 16) fun t => { t with pcap := v.toNat % 4 }),
        (0x058, fun x => setGrants (x.modTenant (c.tnsel.toNat % 16) fun t => { t with bytes := v.toNat % 2 ^ 24 }) (c.tnsel.toNat % 16))] →
      n = j → Does 0xF2 f k s (exec (.csrw f) s) (tn s)) ∧
    (∀ i, i < 6 → n = 0x051 + i → Does 0xF2 f k s (exec (.csrw f) s)
      (setGrants (s.modTenant (c.tnsel.toNat % 16) fun t => { t with part := t.part.set i v }) (c.tnsel.toNat % 16))) ∧
    Does 0xF3 f k s (exec (.tlbinvAll f) s) (dropWalked { s with
      cores := s.cores.map fun p => (p.1, { p.2 with tlb := [], lanePage := [] })
      dies := s.dies.map fun p => (p.1, { p.2 with tableCache := [] }) } none) ∧
    (∀ a, a = ((s.thr k).d f.a.toNat).toNat →
      (2 ^ 52 ≤ a → Alone s k 0xF3 f → exec (.tlbinvPage f) s = .next (takeFlt s k { cause := 1, sub := 1 })) ∧
      (a < 2 ^ 52 → Does 0xF3 f k s (exec (.tlbinvPage f) s) (dropWalked { s with
        cores := s.cores.map fun p => (p.1, { p.2 with
          tlb := p.2.tlb.filter fun e => e.base ≠ a / pageBytes e.size * pageBytes e.size
          lanePage := p.2.lanePage.filter fun e => e.2.base ≠ a / pageBytes e.2.size * pageBytes e.2.size })
        dies := s.dies.map fun p => (p.1, { p.2 with tableCache := p.2.tableCache.filter fun e => e.va ≠ a / 2 ^ (12 + 9 * (e.level - 1)) }) } (some a))))

/-- Context images (R365): CTXSV stores 145 units of 16 bytes, the last bound to its time register, the store counter up by one, or, where the host has refused a copy-on-write that it waited for, writes nothing and is refused with
code 5; CTXLD restores a valid image that
it reads, and kills the group on any other. PTESET starts the update of one entry, which no counter holds (R370). The model's own choices that it rests on: log 69, 70, 106. -/
def Obligations.ContextImages : Prop :=
  ∀ (s : State) (k key : Nat) (f : Fields),
    let t := s.thr k
    let c := t.cap (4 * f.a.toNat)
    let a := (c.cursor + (t.x f.b.toNat).toNat) % 2 ^ 52
    let regs := (s.kernOf k).regs
    (∀ x, accessFault s k c permST a 2320 64 = some x → Alone s k 0xF4 f → exec (.ctxsv f) s = .next (takeFlt s k x)) ∧
    (accessFault s k c permST a 2320 64 = none → c.space = 1 → key = 2 ^ 52 + (s.grpOf k).cluster * 2 ^ 22 + a % 2 ^ 22 → s.upds = [] →
      t.cowRefused = false → Alone s k 0xF4 f → ∃ u, exec (.ctxsv f) s = .next (wentOn 0xF4 f s k u) ∧ SameMemory s u ∧ (u.thr k).stores = t.stores + 1 ∧ (u.thr k).regs = t.regs ∧
        ∀ i, i < 145 → ∃ v, nfind u.upds (s.ids + i) = some v ∧ v.th = some k ∧ v.key = key + 16 * i ∧ v.bytes = 16 ∧
          v.kind = .store (((bytesOfWords (imageWords t (statusOf s k t.status) regs t.pc 0 0 0)).drop (16 * i)).take 16) false ∧
          (v.treg = if i = 144 then some f.time else none)) ∧
    (accessFault s k c permST a 2320 64 = none → t.cowRefused = true → (∃ x, nfind s.threads k = some x) → Alone s k 0xF4 f →
      ∃ u, exec (.ctxsv f) s = .next (wentOn 0xF4 f s k u) ∧ SameMemoryBut (2 * 2 ^ 48) (2 ^ 48 + 32) s u ∧ u.upds = s.upds ∧ (u.thr k).stores = t.stores ∧
        (u.thr k).regs = t.regs ∧ (u.thr k).cowRefused = false ∧ (f.time < 16 → (u.thr k).t f.time = { p := true, tick := s.nowOf k }) ∧
        ∃ x, (u.thr k).refusal = some x ∧ (t.refusal = none → x.cause = 5 ∧ x.pc = t.pc)) ∧
    (∀ x, accessFault s k c permLD a 2320 64 = some x → Alone s k 0xF5 f → exec (.ctxld f) s = .next (takeFlt s k x)) ∧
    (∀ sp va, (sp, va) = xferVa s k c.space a → accessFault s k c permLD a 2320 64 = none → Alone s k 0xF5 f →
      ((readUnit s (k / 2048) (s.dieOf k) sp va 2320 { k := k, before := s.ids, own := true } = .absent ∨
        ∃ x, readUnit s (k / 2048) (s.dieOf k) sp va 2320 { k := k, before := s.ids, own := true } = .poisoned x) →
        exec (.ctxld f) s = .next (killGroup s (k / 2048) 16 t.owner)) ∧
      ((∃ n, readUnit s (k / 2048) (s.dieOf k) sp va 2320 { k := k, before := s.ids, own := true } = .later n) → exec (.ctxld f) s = .next s)) ∧
    (∀ sp va img, (sp, va) = xferVa s k c.space a → accessFault s k c permLD a 2320 64 = none →
      readUnit s (k / 2048) (s.dieOf k) sp va 2320 { k := k, before := s.ids, own := true } = .bytes img → Alone s k 0xF5 f →
      (imageValid t regs img = false → exec (.ctxld f) s = .next (killGroup s (k / 2048) 16 t.owner)) ∧
      (imageValid t regs img = true → ∃ u, exec (.ctxld f) s = .next (wentOn 0xF5 f s k u) ∧ SameMemory s u ∧ (u.thr k).pc = t.pc ∧
        (u.thr k).sys = t.sys ∧ (u.thr k).status = imgWord img 3 &&& 7 ∧ (u.thr k).late = (imgWord img 5).toNat ∧
        (∀ r, 0 < r → r < regs → (u.thr k).x r = imgWord img (68 + r)) ∧ ∀ i, nfind (u.thr k).bound i = none)) ∧
    (∀ x, accessFault s k c permST a 8 8 [0] = some x → Alone s k 0xFC f → exec (.pteset f) s = .next (takeFlt s k x)) ∧
    (accessFault s k c permST a 8 8 [0] = none → Alone s k 0xFC f →
      (∀ x, resolve s k 0 a = .fault x → exec (.pteset f) s = .next (takeFlt s k x)) ∧
      (∀ u, resolve s k 0 a = .hold u → exec (.pteset f) s = .next u) ∧
      (∀ z, resolve s k 0 a = .key z key → porchFull z (z.dieOf k) key = false → ∃ u v, exec (.pteset f) s = .next (wentOn 0xFC f s k u) ∧
        nfind u.upds s.ids = some v ∧ v.kind = .pte (t.d f.d.toNat) ∧ v.key = key ∧ v.bytes = 8 ∧ v.counted = false ∧ SameMemory s u ∧
        (u.thr k).regs = t.regs ∧ (u.thr k).stores = t.stores ∧ nfind (u.thr k).bound f.time = some s.ids))

/-- The device's management (R366 to R369, R372): QUAR answers with a core's word and changes the list; AUDCFG reads and writes the audit control; CORHALT and CORWAKE
halt and wake a core; PWRGATE gates an idle cluster, or asks for a gated one; MCREAD reads the oldest record of a die, and with .pop takes it away; DBGSTEP
lets a stopped thread go. The model's own choices that it rests on: log 71, 72. -/
def Obligations.Management : Prop :=
  ∀ (s : State) (k core : Nat) (f : Fields),
    let t := s.thr k
    let d := f.d.toNat
    let v := t.x f.a.toNat
    let x := s.core v.toNat
    let word : Word := BitVec.ofNat 32 (x.score % 65536 + (if x.cullet then 65536 else 0) + (if x.report then 131072 else 0))
    let put (u : State) (n : Nat) : State := put1 u k d (BitVec.ofNat 32 n)
    (768 ≤ v.toNat → Does 0xF6 f k s (exec (.quarAdd f) s) (put s 0xFFFFFFFF) ∧ Does 0xF6 f k s (exec (.quarRem f) s) (put s 0xFFFFFFFF) ∧
      Does 0xF6 f k s (exec (.quarGet f) s) (put s 0xFFFFFFFF)) ∧
    (v.toNat < 768 → Does 0xF6 f k s (exec (.quarGet f) s) (put1 s k d word) ∧
      Does 0xF6 f k s (exec (.quarRem f) s) (put1 (s.modCore v.toNat fun y => { y with cullet := false }) k d word) ∧
      (groupsOn s v.toNat = [] → Does 0xF6 f k s (exec (.quarAdd f) s) (put1 (s.modCore v.toNat fun y => { y with cullet := true }) k d word))) ∧
    Does 0xF7 f k s (exec (.audcfgGet f) s) (put1 s k d s.csrs.audctl) ∧
    ((v.getLsbD 6 = false ∨ s.csrs.audctl.getLsbD 6 = true) → Does 0xF7 f k s (exec (.audcfgSet f) s)
      (put1 { s with csrs := { s.csrs with audctl := v &&& 0x7F } } k d s.csrs.audctl)) ∧
    (core = (if v = 0xFFFFFFFF then s.coreOf k else v.toNat) →
      (s.liveCore core = false → Does 0xF8 f k s (exec (.corhalt f) s) s ∧ Does 0xF9 f k s (exec (.corwake f) s) s) ∧
      (s.liveCore core = true → Does 0xF9 f k s (exec (.corwake f) s) (s.modCore core fun y => { y with halted := false }) ∧
        (groupsOn s core = [] → Does 0xF8 f k s (exec (.corhalt f) s) (s.modCore core fun y => { y with halted := true })))) ∧
    (∀ c, c = v.toNat →
      (liveCluster s c = false → Does 0xFA f k s (exec (.pwrgateGate f) s) (put s 2) ∧ Does 0xFA f k s (exec (.pwrgateWake f) s) (put s 2)) ∧
      (liveCluster s c = true → (s.cluster c).gated = false →
        (allParked s c = true → dispatchNow s c = false → Does 0xFA f k s (exec (.pwrgateGate f) s)
          (put (s.modCluster c fun y => { y with gated := true, gatedAt := some s.now, wakeReq := none, wakeGrid := false }) 0)) ∧
        ((allParked s c = false ∨ dispatchNow s c = true) → Does 0xFA f k s (exec (.pwrgateGate f) s) (put s 1)) ∧
        Does 0xFA f k s (exec (.pwrgateWake f) s) (put s 2)) ∧
      (liveCluster s c = true → (s.cluster c).gated = true → (s.cluster c).wakeReq = none →
        Does 0xFA f k s (exec (.pwrgateGate f) s) (put s 2) ∧
        ((s.cluster c).gatedAt ≠ some s.now →
          Does 0xFA f k s (exec (.pwrgateWake f) s) (put (s.modCluster c fun y => { y with wakeReq := some s.now }) 0)) ∧
        ((s.cluster c).gatedAt = some s.now → Does 0xFA f k s (exec (.pwrgateWake f) s)
          (put (s.modCluster c fun y => { y with gated := false, wakeReq := none, wakeGrid := false }) 0))) ∧
      (∀ w, liveCluster s c = true → (s.cluster c).gated = true → (s.cluster c).wakeReq = some w →
        Does 0xFA f k s (exec (.pwrgateGate f) s) (put s 1) ∧ Does 0xFA f k s (exec (.pwrgateWake f) s) (put s 2))) ∧
    (16 ≤ v.toNat → Alone s k 0xFB f → exec (.mcreadLo f) s = .next (takeFlt s k { cause := 1, sub := 1 })) ∧
    (∀ r rest, v.toNat < 16 → (s.die v.toNat).mcq = r :: rest → Alone s k 0xFB f →
      (∃ u, exec (.mcreadLo f) s = .next (wentOn 0xFB f s k u) ∧ u.dies = s.dies ∧ SameMemory s u ∧
        ∀ j, j < 4 → d + j ≠ 0 → (u.thr k).x (d + j) = r.words.getD j 0) ∧
      (∃ u, exec (.mcreadHi f) s = .next (wentOn 0xFB f s k u) ∧ u.dies = s.dies ∧ ∀ j, j < 4 → d + j ≠ 0 → (u.thr k).x (d + j) = r.words.getD (4 + j) 0) ∧
      (∃ u, exec (.mcreadPop f) s = .next (wentOn 0xFB f s k u) ∧ (u.die v.toNat).mcq = rest ∧
        ∀ j, j < 4 → d + j ≠ 0 → (u.thr k).x (d + j) = r.words.getD (4 + j) 0)) ∧
    (∀ i op run, (i, op, run) ∈ [(Instr.dbgstepStep, 0xFE, true), (Instr.dbgstepRun, 0xFE, false)] →
      (ownedBy s (v.toNat % 2 ^ 20) = none → Does op f k s (exec (i f) s) (put s 1)) ∧
      ∀ j, ownedBy s (v.toNat % 2 ^ 20) = some j →
        ((s.thr j).life ≠ .stopped → Does op f k s (exec (i f) s) (put s 1)) ∧
        ((s.thr j).life = .stopped → (s.core (s.coreOf j)).dbgen = false → Does op f k s (exec (i f) s) (put s 2)) ∧
        ((s.thr j).life = .stopped → (s.core (s.coreOf j)).dbgen = true →
          Does op f k s (exec (i f) s) (put (s.modThr j fun u => { u with life := .live, debugStep := run }) 0)))

/-! ### Power, clocks, time, errors (spec/01, spec/20, spec/21, spec/24) -/

/-- The damper and the clusters (R22, R23, R354, R355, R358, R359, R431): an interval boundary brings the new grants and ends a throttling in whose last interval no
booking moved; a hot junction lowers the grants of its die from the next boundary; a gated cluster asks, and is admitted in its turn while fewer than
8 have been in 64 ticks and no rank of a BAR.GRID release goes before it; an idle one is gated; a requested ratio and clock take effect when no group is left. The model's own choices that it rests on: log 4. -/
def Obligations.PowerCourse : Prop :=
  ∀ (s : State) (c die grant : Nat),
    let x := s.cluster c
    (damperDue s = false → exec .damperInterval s = .next s) ∧
    (damperDue s = true → ∃ t, exec .damperInterval s = .next t ∧ SameMemory s t ∧ ∀ i y, nfind s.clusters i = some y →
      let d := s.nowOn (i / 12) / 1024
      (t.cluster i).grant = (match y.nextGrant with | some (n, g) => if n ≤ d then some g else y.grant | none => y.grant) ∧
      (t.cluster i).nextGrant = (match y.nextGrant with | some (n, g) => if n ≤ d then none else some (n, g) | none => none) ∧
      (t.cluster i).throttled = (y.throttled && (match y.movedIn with | some m => decide (d < m + 2) | none => false)) ∧
      ∀ p ∈ (t.cluster i).used, d ≤ p.1) ∧
    (∃ t, exec (.junctionOvertemp die grant) s = .next t ∧ t.threads = s.threads ∧ SameMemory s t ∧
      (c / 12 ≠ die % 16 → t.cluster c = x) ∧
      (c / 12 = die % 16 → (t.cluster c).grant = x.grant ∧ ∃ n, (t.cluster c).nextGrant = some (s.nowOn (c / 12) / 1024 + 1, n) ∧ n ≤ grant ∧
        ((x.nextGrant = none ∧ x.grant = none) → n = grant) ∧ (∀ g, x.grant = some g → n ≤ g) ∧ ∀ m g, x.nextGrant = some (m, g) → n ≤ g)) ∧
    ((x.gated = false ∨ (x.wakeReq = none ∧ wakeNeeded s c = false)) → exec (.slewAdmit c) s = .next s) ∧
    (x.gated = true → x.wakeReq = none → wakeNeeded s c = true → x.gatedAt ≠ some s.now →
      exec (.slewAdmit c) s = .next (s.modCluster c fun y => { y with wakeReq := some s.now })) ∧
    (∀ w, x.gated = true → x.wakeReq = some w → (slewQueue s).head? = some c → x.wakeGrid = false → gridAhead s w = true →
      exec (.slewAdmit c) s = .next s) ∧
    (∀ w, x.gated = true → x.wakeReq = some w → (slewQueue s).head? = some c → (x.wakeGrid = true ∨ gridAhead s w = false) → (s.admissions.filter fun a => s.now < a + 64).length < 8 → ∃ t,
      exec (.slewAdmit c) s = .next t ∧ (t.cluster c).gated = false ∧ (t.cluster c).wakeReq = none ∧ s.now ∈ t.admissions ∧ t.threads = s.threads) ∧
    (∀ w, x.gated = true → x.wakeReq = some w → 8 ≤ (s.admissions.filter fun a => s.now < a + 64).length → exec (.slewAdmit c) s = .next s) ∧
    (liveCluster s c = true → x.gated = false → allParked s c = true → wakeNeeded s c = false →
      exec (.clusterGate c) s = .next (s.modCluster c fun y =>
        { y with gated := true, gatedAt := some s.now, wakeReq := none, wakeGrid := false })) ∧
    ((x.gated = true ∨ allParked s c = false) → exec (.clusterGate c) s = .next s) ∧
    ((x.ratioReq = none ∨ emptyCluster s c = false) → exec (.ratioChange c) s = .next s) ∧
    ((x.mhzReq = none ∨ emptyCluster s c = false) → exec (.clockChange c) s = .next s) ∧
    (∀ r, x.ratioReq = some r → emptyCluster s c = true → ∃ t, exec (.ratioChange c) s = .next t ∧ (t.cluster c).ratio = r ∧ (t.cluster c).ratioReq = none ∧
      (t.cluster c).mhz = x.mhz ∧ cycleCount t c = cycleCount s c ∧ t.threads = s.threads) ∧
    (∀ m, x.mhzReq = some m → emptyCluster s c = true → ∃ t, exec (.clockChange c) s = .next t ∧ (t.cluster c).mhz = m ∧ (t.cluster c).mhzReq = none ∧
      (t.cluster c).ratio = x.ratio ∧ cycleCount t c = cycleCount s c ∧ t.threads = s.threads)

/-- Time, errors and the loss of power (R24, R380, R381, R415, R427, R428, R431): at a comparison a copy of device time that is off by more than a tick is
reloaded, and no other; a corrected error is a record alone; an uncorrectable one of HBM poisons the bytes it strikes, one of an accumulator its
element; a thermal stop breaks the promises through its channel; a shutdown and a loss of power lose every thread, launch and byte inside the
package; a bring-up that no stage fails opens the device with the staged image, where there is one, and an image older than the fuse's lowest version fails it. The model's own choices that it rests on: log 77, 78, 81. -/
def Obligations.ErrorsAndPower : Prop :=
  ∀ (s : State) (e : SoftErr) (die pc : Nat) (b : BringUp),
    (compareDue s = false → exec .timeCompare s = .next s) ∧
    (compareDue s = true → ∃ t, exec .timeCompare s = .next t ∧ SameMemoryBut (2 * 2 ^ 48) (2 ^ 48 + 32) s t ∧ t.threads = s.threads ∧
      ∀ d y, nfind s.dies d = some y →
        (timeOff y = true → (t.die d).ahead = 0 ∧ (t.die d).behind = 0 ∧ (y.behind < y.ahead → (t.die d).heldTo = s.nowOn d)) ∧
        (timeOff y = false → (t.die d).ahead = y.ahead ∧ (t.die d).behind = y.behind)) ∧
    (e.corrected = true → (s.die (e.die % 16)).mcq.length < 256 → ∃ t r, exec (.softError e) s = .next t ∧ r ∈ (t.die (e.die % 16)).mcq ∧ r.cause = 1 ∧
      r.sev = 0 ∧ r.unit = e.unit ∧ r.die = e.die % 16 ∧ t.threads = s.threads ∧
      SameMemoryBut (2 * 2 ^ 48) (2 ^ 48 + 32) s t) ∧
    (e.corrected = false → e.unit = 1 → e.addr + 32 ≤ 2 ^ 40 → ∃ t, exec (.softError e) s = .next t ∧ (stackLoads s (e.addr / 64) = [] → t.threads = s.threads) ∧
      (∀ j, j < 32 → e.addr / 32 * 32 + j ∈ t.memPoison) ∧ SameMemoryBut (2 * 2 ^ 48) (2 ^ 48 + 32) s t) ∧
    (e.corrected = false → e.unit = 10 → ∃ t, exec (.softError e) s = .next t ∧ t.accs = s.accs ∧
      accBase e.index (e.addr / 4096 % 32) + e.addr % 4096 ∈ t.accPoison) ∧
    (channelLoads s (die % 16) (pc % 64) = [] → ∃ t, exec (.hbmThermalStop die pc) s = .next t ∧ t.threads = s.threads ∧ t.rets = s.rets ∧
      nget t.pathScore (64 * (die % 16) + pc % 64) 0 = min (nget s.pathScore (64 * (die % 16) + pc % 64) 0 + 1) 65535) ∧
    (∀ id r th, channelLoads s (die % 16) (pc % 64) = [(id, r)] → s.rets = [(id, r)] → r.partOf = none → nfind s.threads r.th = some th → ∃ t w,
      exec (.hbmThermalStop die pc) s = .next t ∧ nfind t.rets id = some w ∧ w.late = true ∧ (t.thr r.th).late = min (th.late + 1) 65535 ∧
      ∀ read land, r.phase = .booked read land → r.kind ≠ .atomic →
        ∃ x y, w.phase = .booked x y ∧ land < y ∧ read ≤ x) ∧
    (∀ o, (o = exec .thermalShutdown s ∨ o = exec .powerOff s) → ∃ t, o = .next t ∧ t.threads = [] ∧ t.groups = [] ∧ t.launches = [] ∧ t.upds = [] ∧
      t.rets = [] ∧ t.accs = [] ∧ t.inputs = s.inputs ∧ alive t = false ∧ (∀ a, a < 2 ^ 48 ∨ 2 ^ 52 ≤ a → Memory.read t.mem a = 0) ∧
      ∀ a, 2 ^ 48 ≤ a → a < 2 ^ 52 → Memory.read t.mem a = Memory.read s.mem a) ∧
    (s.service.powered = true → exec (.powerOn b) s = .next s) ∧
    (s.service.powered = false → b.stage1 = false → b.stage2 = false → b.stage3 = false → b.stage5 = false → b.hostPort = false → b.deadDies = [] →
      s.service.minVersion ≤ s.service.staged.getD s.service.version → ∃ t, exec (.powerOn b) s = .next t ∧ alive t = true ∧
        t.service.version = s.service.staged.getD s.service.version ∧ t.service.staged = none ∧ t.now = 0 ∧ t.threads = [] ∧ t.csrs = State.reset.csrs ∧
        ∀ c m, b.cores = [(c, m)] → c < 768 → (t.core c).fmask = m &&& 0x11F) ∧
    (s.service.powered = false → (s.service.staged.getD s.service.version < s.service.minVersion ∨ b.stage1 = true ∨ b.stage2 = true ∨ b.stage3 = true ∨ b.stage5 = true ∨ b.hostPort = true) →
      ∃ t, exec (.powerOn b) s = .next t ∧ alive t = false ∧ t.threads = [] ∧
        ((b.stage1 = true ∨ b.stage2 = true ∨ s.service.staged.getD s.service.version < s.service.minVersion) →
          t.service.version = s.service.version ∧ t.service.staged = s.service.staged))

/-! ### The gaffer (spec/23) -/

/-- An audit (R405, R406, R411, R416, Table 23.3): its replay is dispatched where one fits, at priority 0 and with the threads as they started, is dropped after
2^24 ticks, and diverges where it makes no progress for 2^20. In a replay a load takes its value from the log and reads no memory, a store gives its digest
records and writes none, a FENCE waits for nothing, and an entry of another word, or none, diverges. One that agrees at every position passes, and releases its
segment; one that differs adds 32 to the scores of the cores of the position and waits for a tiebreak, which, when it sides with the original, adds 224 to the
replay's core and takes 32 from the original's, unless that core is on the cullet list (R415). The model's own choices that it rests on: log 45, 84, 103. -/
def Obligations.AuditCourse : Prop :=
  (∀ (s : State) (k id : Nat) (f : Fields) (a : Audit), (s.grpOf k).replays = some id → nfind s.audits id = some a → s.beat.threads = [k] →
    let runs (op : Nat) : Prop := mayRun s k = true ∧ trapDue s k op f = none ∧ operandsReady s k op f = true ∧ guardPasses (s.thr k) f = true
    let c := capA s k f
    let ends (o : Host.Outcome State Fault Refusal) : Prop := ∃ t, o = .next t ∧ (t.thr k).life = .exited ∧ rowOf k % 4 ∈ (t.grpOf k).diverged ∧
      SameMemory s t ∧ t.upds = s.upds
    (runs 0x92 → accessFault s k c permLD (addrOf s k f) 4 4 = none →
      (∀ e rest w, replayLog s k = e :: rest → e.pc = (s.thr k).pc → e.wait = none → e.taken = none → e.tag = false → e.words = [w] → f.d ≠ 0 →
        (s.grpOf k).cancelled = false → ∃ t, exec (.ld32 f) s = .next t ∧ (t.thr k).x f.d.toNat = w ∧ (∀ r, r ≠ f.d.toNat → (t.thr k).x r = (s.thr k).x r) ∧ replayLog t k = rest ∧
          SameMemory s t ∧ t.rets = s.rets) ∧
      ((replayLog s k = [] ∨ ∃ e rest, replayLog s k = e :: rest ∧ e.pc ≠ (s.thr k).pc) → ends (exec (.ld32 f) s))) ∧
    (runs 0xA2 → accessFault s k c permST (addrOf s k f) 4 4 = none → ∃ t rs, exec (.st32 f) s = .next t ∧ SameMemory s t ∧ t.upds = s.upds ∧
      (t.thr k).regs = (s.thr k).regs ∧ (t.grpOf k).digests = (s.grpOf k).digests ++ rs ∧ rs.map (·.data) =
        (unitRecs 1 c.space (addrOf s k f) (bytesOfNat ((s.thr k).x f.d.toNat).toNat 4) 0).map (·.data) ∧ ∀ r ∈ rs, r.tid = tidOf k ∧ r.kind = 1) ∧
    (∀ x, runs 0xA2 → accessFault s k c permST (addrOf s k f) 4 4 = some x → ends (exec (.st32 f) s)) ∧
    (runs 0xB0 → exec (.fence f) s = .next (advance s k))) ∧
  ∀ (s : State) (id : Nat) (a : Audit), nfind s.audits id = some a →
    let up (x y : Word) : Prop := y = (if x = 0xFFFFFFFF then x else x + 1)
    (∀ t0, a.phase = .waiting t0 → a.resident = none →
      (replayCluster s a = none → exec (.replayDispatch id) s = .next s) ∧
      (∀ c, replayCluster s a = some c → (∀ p ∈ s.threads, p.1 < s.ids * 2048) → ∃ t x gr, exec (.replayDispatch id) s = .next t ∧ nfind t.audits id = some x ∧
        x.phase = .running s.ids c ∧ nfind t.groups s.ids = some gr ∧ gr.cluster = c ∧ gr.prio = 0 ∧ gr.replays = some id ∧ gr.log = a.log ∧ SameMemory s t ∧
        ∀ tid th, tid < 2048 → nfind a.start tid = some th → ∃ u, nfind t.threads (s.ids * 2048 + tid) = some u ∧ u.regs = th.regs ∧ u.tags = th.tags ∧
          u.owner = th.owner ∧ u.mode = th.mode ∧ u.pc = th.pc) ∧
      (s.now < t0 + 2 ^ 24 → exec (.replayTimeout id) s = .next s) ∧
      (t0 + 2 ^ 24 ≤ s.now → ∃ t, exec (.replayTimeout id) s = .next t ∧ nfind t.audits id = none ∧ up s.gaffer.drop t.gaffer.drop ∧ t.cores = s.cores ∧
        ∀ g gr, a.segment = some g → nfind s.groups g = some gr → (t.grp g).cleared = some true)) ∧
    (∀ g c pos, a.phase = .running g c →
      let late := (replayLeft s g).filter fun k => rowOf k % 4 = pos
      ((late = [] ∨ ∃ k ∈ late, s.now < (s.thr k).stood + 2 ^ 20) → exec (.replayStall id pos) s = .next s) ∧
      (∀ k, late = [k] → (s.thr k).stood + 2 ^ 20 ≤ s.now → nfind s.groups g ≠ none → gidOf k = g → ∃ t, exec (.replayStall id pos) s = .next t ∧
        (t.thr k).life = .exited ∧ pos ∈ (t.grp g).diverged) ∧
      (replayDone s g = false → exec (.auditCompare id []) s = .next s) ∧
      (replayDone s g = true → (∀ j ∈ a.positions, sameDigest a (runAt s a g c [] j) = true) → ∃ t, exec (.auditCompare id []) s = .next t ∧
        up s.gaffer.pass t.gaffer.pass ∧ t.gaffer.mis = s.gaffer.mis ∧
        (a.segment = none → nfind t.audits id = none ∧ nfind t.groups g = none) ∧
        (∀ h gr, a.segment = some h → nfind s.groups h = some gr → (t.grp h).cleared = some true ∧
          ∃ y, nfind t.audits id = some y ∧ y.phase = .resting g c)) ∧
      (∀ o, replayDone s g = true → a.kernel.rows = 1 → a.cores = [o] → o % 4 = 0 →
        let x := runAt s a g c [] 0
        sameDigest a x = false → x.core ≠ o → ∃ t y,
        exec (.auditCompare id []) s = .next t ∧ nfind t.audits id = some y ∧ y.phase = .settling s.now [x] ∧ nfind t.groups g = none ∧
        (t.core o).score = min ((s.core o).score + 32) 65535 ∧ (t.core x.core).score = min ((s.core x.core).score + 32) 65535 ∧
        up s.gaffer.mis t.gaffer.mis)) ∧
    (∀ t0 m, a.phase = .settling t0 [m] → a.segment = none →
      (∀ c, tiebreakCluster s a m = some c → ∃ t y, exec (.tiebreak id none) s = .next t ∧ nfind t.audits id = some y ∧ y.phase = .tied s.ids c [m]) ∧
      (tiebreakCluster s a m = none → s.now < t0 + 2 ^ 24 → exec (.tiebreak id none) s = .next s) ∧
      (tiebreakCluster s a m = none → t0 + 2 ^ 24 ≤ s.now → ∃ t, exec (.tiebreak id none) s = .next t ∧ nfind t.audits id = none ∧ t.cores = s.cores)) ∧
    (∀ g c m o, a.phase = .tied g c [m] → a.segment = none →
      let x := runAt s a g c [] m.pos
      (replayDone s g = false → exec (.tiebreak id none) s = .next s) ∧
      (replayDone s g = true → a.cores = [o] → o % 4 = m.pos → o ≠ m.core → x.core ≠ o → x.core ≠ m.core → sameDigest a x = true →
        (s.core x.core).passed < 65535 → ∃ t, exec (.tiebreak id none) s = .next t ∧ nfind t.audits id = none ∧
        (t.core o).score = (if (s.core o).cullet then (s.core o).score else (s.core o).score - 32) ∧
        (t.core m.core).score = min ((s.core m.core).score + 224) 65535 ∧ (t.core x.core).score = (s.core x.core).score ∧
        (t.core x.core).passed = (if (s.core x.core).cullet then (s.core x.core).passed else (s.core x.core).passed + 1)))

/-! ### The outside (spec/24) -/

/-- The host and the domain (R371, R374, R420 to R426): a load reads at the home; a store of one line becomes an update that is held until its tick, as do
another device's; the registers take what their fields let them, and read as Table 0.1 says of their access codes; HDOOR, FMASK, CLKREQ and the TLB sweeps act; a link is left out of the spread once.
A device that is not up takes none of the accesses. The model's own choices that it rests on: log 13, 68, 79, 80, 107. -/
def Obligations.OutsideAccesses : Prop :=
  ∀ (s : State) (pa n : Nat) (data : List Byte) (v : Word),
    let held (kind : UpdKind) (bytes : Nat) (o : Host.Outcome State Fault Refusal) : Prop := ∃ t u c, o = .next t ∧ nfind t.upds s.ids = some u ∧
      u.kind = kind ∧ u.key = pa ∧ u.bytes = bytes ∧ u.th = none ∧ u.phase = .lehr c ∧ s.now ≤ c ∧ nget s.leases (pa / 64) 0 ≤ c ∧ SameMemory s t ∧
      t.threads = s.threads
    (alive s = false → exec (.hostLoad pa n) s = .next s ∧ exec (.hostStore pa data) s = .next s ∧ exec (.domainAccess pa (.load n)) s = .next s) ∧
    (alive s = true →
      (stackBytes s pa (max n 1) = true → heldBytes s pa (max n 1) = false → poisonedAt s pa n = false → ∃ t, exec (.hostLoad pa n) s = .next t ∧
        exec (.domainAccess pa (.load n)) s = .next t ∧ t = { s with portData := (List.range' pa n).map (Memory.read s.mem) }) ∧
      (stackBytes s pa (max data.length 1) = true → s.upds = [] → s.groups = [] → frameFree s pa = false → 0 < data.length →
        pa / 64 = (pa + data.length - 1) / 64 →
        held (.store data false) data.length (exec (.hostStore pa data) s) ∧
        held (.store data false) data.length (exec (.domainAccess pa (.store data)) s)) ∧
      (stackBytes s pa 4 = true → pa % 4 = 0 → s.upds = [] → s.groups = [] → frameFree s pa = false →
        held (.atomic 0x8 0 [v]) 4 (exec (.domainAccess pa (.add v)) s)) ∧
      exec (.registerWrite .ringTail v) s = .next { s with ring := { s.ring with tail := v } } ∧
      exec (.registerWrite .ringSize v) s = .next { s with ring := { s.ring with size := v } } ∧
      exec (.registerWrite (.csr 0x013 0) v) s = .next { s with csrs := { s.csrs with stvec := v } } ∧
      exec (.registerWrite (.gaffer 1) v) s = .next { s with gaffer := { s.gaffer with pass := s.gaffer.pass &&& ~~~v } } ∧
      (n < 32 → pa ≤ 16 → ∃ t, exec (.registerWrite (.window pa n) v) s = .next t ∧ nget (nget t.windows pa {}).rcd n 0 = v ∧ t.tenants = s.tenants) ∧
      (pa < 16 → ∃ t, exec (.registerWrite (.window pa 32) v) s = .next t ∧
        (t.tenant pa).root = (nget s.windows pa {}).rootH.toNat % 2 ^ 20 * 2 ^ 32 + (v &&& 0xFFFF0000).toNat)) ∧
    (registerRead (.gaffer 1) s = s.gaffer.pass ∧ registerRead (.csr 0x031 0) s = 0 ∧ registerRead (.csr 0x070 0) s = 0 ∧
      registerRead (.csr 0x013 0) s = s.csrs.stvec ∧ registerRead .ringHead s = s.ring.head ∧ registerRead .ringLost s = s.ring.lost ∧
      registerRead (.domainMode n) s = nget s.domainMode n 0 ∧ (n < 32 → registerRead (.window pa n) s = 0) ∧ registerRead (.window pa 34) s = 0 ∧
      (pa ≤ 16 → registerRead (.window pa 32) s = (nget s.windows pa {}).rootL ∧ registerRead (.window pa 35) s = (nget s.windows pa {}).result)) ∧
    exec (.hostTlbInvalidate none) s = .next (dropWalked { s with
      cores := s.cores.map fun p => (p.1, { p.2 with tlb := [], lanePage := [] })
      dies := s.dies.map fun p => (p.1, { p.2 with tableCache := [] }) } none) ∧
    (pa < 2 ^ 52 → exec (.hostTlbInvalidate (some pa)) s = .next (dropWalked { s with
      cores := s.cores.map fun p => (p.1, { p.2 with
        tlb := p.2.tlb.filter fun e => e.base ≠ pa / pageBytes e.size * pageBytes e.size
        lanePage := p.2.lanePage.filter fun e => e.2.base ≠ pa / pageBytes e.2.size * pageBytes e.2.size })
      dies := s.dies.map fun p => (p.1, { p.2 with tableCache := p.2.tableCache.filter fun e => e.va ≠ pa / 2 ^ (12 + 9 * (e.level - 1)) }) } (some pa))) ∧
    (n < 9 → exec (.domainModeWrite n v) s = .next { s with domainMode := nset s.domainMode n (v &&& Config.slotSupport n) }) ∧
    (9 ≤ n → exec (.domainModeWrite n v) s = .next s) ∧
    ((∀ p ∈ s.threads, ∀ w, p.2.wait ≠ .idle w) → exec (.hdoor v) s = .next s) ∧
    (∀ k th w, s.threads = [(k, th)] → th.wait = .idle w →
      exec (.hdoor v) s = .next (advanceBy (s.modThr k fun t => { t with wait := .none }) k 1)) ∧
    (768 ≤ n → exec (.fmask n v) s = .next s) ∧
    (n < 768 → (∀ g ∈ s.groups, g.2.residency ≠ .resident) → ((s.core n).fmask.getLsbD 8 = false ∨ v.getLsbD 8 = true) →
      exec (.fmask n v) s = .next (s.modCore n fun y => { y with fmask := y.fmask &&& v.setWidth 9 })) ∧
    (192 ≤ v.toNat % 256 → exec (.clkreq v) s = .next s) ∧
    ((v.toNat / 1024 % 2 = 1 ∨ v.toNat / 256 % 4 = 3) → (v.toNat / 4096 % 64 < 25 ∨ 50 < v.toNat / 4096 % 64) → exec (.clkreq v) s = .next s) ∧
    (v.toNat % 256 < 192 → v.toNat / 1024 % 2 = 0 → v.toNat / 256 % 4 ≠ 3 → 25 ≤ v.toNat / 4096 % 64 → v.toNat / 4096 % 64 ≤ 50 →
      exec (.clkreq v) s = .next (s.modCluster (v.toNat % 256) fun y =>
        { y with ratioReq := some (v.toNat / 256 % 4), mhzReq := some (25 * (v.toNat / 4096 % 64)) })) ∧
    ((18 ≤ n ∨ s.linksDown.contains n = true) → exec (.linkRetire n) s = .next s) ∧
    (n < 18 → s.linksDown.contains n = false → linkLoads s n = [] → ∃ t, exec (.linkRetire n) s = .next t ∧ t.linksDown.contains n = true ∧
      t.threads = s.threads ∧ SameMemory s t)

/-- The service port (R428 to R430, Table 24.5), while there is power: STATUS answers the bring-up stage and the safe state's cause, FWSTAGE stages an image that both
signatures verify and no other, and SELFTEST, IDENT, SENSE and the attestation answer, the last in the host port's mailbox too; none of them touches anything but the service controller and the count of
free values. IDENT answers the same at every reading. The model's own choices that it rests on: log 12. -/
def Obligations.ServicePort : Prop :=
  ∀ (s : State) (piece request : Nat) (image : FwImage),
    let only (o : Host.Outcome State Fault Refusal) (words : Nat) : Prop := ∃ t, o = .next t ∧ t = { s with service := t.service, free := t.free } ∧
      t.service = { s.service with reply := t.service.reply } ∧ t.service.reply.length = words
    (s.service.powered = false → exec .status s = .next s ∧ exec .selftest s = .next s ∧ exec (.ident piece) s = .next s ∧
      exec (.fwstage image) s = .next s ∧ exec .sense s = .next s ∧ exec (.spdmAttestation request) s = .next s) ∧
    (s.service.powered = true →
      (only (exec .status s) 2) ∧ only (exec .selftest s) 64 ∧ only (exec (.ident piece) s) 16 ∧ only (exec .sense s) 35 ∧
      (∃ t ws, exec (.spdmAttestation request) s = .next t ∧ ws.length = 16 ∧
        t = { s with service := { s.service with reply := ws, doe := if alive s then ws else s.service.doe } }) ∧
      (∃ t, exec .selftest s = .next t ∧ ∀ d, d < 16 → t.service.reply.getD (4 * d) 0 = (if s.service.deadDies.contains d then 0 else 1) ∧
        t.service.reply.getD (4 * d + 3) 0 = BitVec.ofNat 32 (nget s.service.failUnits d 0)) ∧
      (s.service.safe ≠ 10 → ∃ t, exec .status s = .next t ∧
        t.service.reply = [BitVec.ofNat 32 s.service.stage, BitVec.ofNat 32 s.service.safe]) ∧
      (∀ t u, exec (.ident piece) s = .next t → exec (.ident piece) t = .next u → u.service.reply = t.service.reply) ∧
      (image.ed25519 = true → image.mlDsa65 = true → exec (.fwstage image) s = .next { s with
        service := { s.service with staged := some image.version } }) ∧
      ((image.ed25519 = false ∨ image.mlDsa65 = false) → exec (.fwstage image) s = .next s))
end

