-- ==== Sys2Proof/Laws/Maps.lean ====
section
/-! SUPPORT. Sparse maps and memory: what is read after a write, and that every operation over memory keeps its canonical form. -/

namespace Sys2Proof.Machine

variable {α : Type}

/-! ### Sparse maps -/

theorem nfind_nset_self (m : NMap α) (k : Nat) (v : α) : nfind (nset m k v) k = some v := by
  induction m with
  | nil => simp [nset, nfind]
  | cons p t ih =>
    obtain ⟨j, w⟩ := p
    simp only [nset]
    split
    · simp [nfind]
    · split
      · simp [nfind]
      · rename_i h1 h2
        simp [nfind, h2, ih]

theorem nfind_nset_ne (m : NMap α) {k j : Nat} (v : α) (h : j ≠ k) : nfind (nset m k v) j = nfind m j := by
  induction m with
  | nil => simp [nset, nfind, h]
  | cons p t ih =>
    obtain ⟨i, w⟩ := p
    simp only [nset]
    split
    · simp [nfind, h]
    · split
      · rename_i h1 h2
        subst h2
        simp [nfind, h]
      · simp only [nfind, ih]

theorem nfind_nmod_self (m : NMap α) (k : Nat) (f : α → α) : nfind (nmod m k f) k = (nfind m k).map f := by
  induction m with
  | nil => rfl
  | cons p t ih =>
    obtain ⟨j, w⟩ := p
    simp only [nmod]
    split
    · rename_i h; subst h; simp [nfind]
    · rename_i h; simp [nfind, h, ih]

theorem nfind_nmod_ne (m : NMap α) {k j : Nat} (f : α → α) (h : j ≠ k) : nfind (nmod m k f) j = nfind m j := by
  induction m with
  | nil => rfl
  | cons p t ih =>
    obtain ⟨i, w⟩ := p
    simp only [nmod]
    split
    · rename_i e; subst e; simp [nfind, h]
    · simp only [nfind, ih]

/-- Two changes that agree on the entry are one change. -/
theorem nmod_congr (m : NMap α) (k : Nat) (f g : α → α) (h : ∀ v, nfind m k = some v → f v = g v) : nmod m k f = nmod m k g := by
  induction m with
  | nil => rfl
  | cons p t ih =>
    obtain ⟨j, w⟩ := p
    simp only [nmod]
    split
    · rename_i e; subst e; rw [h w (by simp [nfind])]
    · rename_i e
      rw [ih (fun v hv => h v (by simpa [nfind, e] using hv))]

/-- Two changes one after the other are one. -/
theorem nmod_nmod (m : NMap α) (k : Nat) (f g : α → α) : nmod (nmod m k f) k g = nmod m k (fun v => g (f v)) := by
  induction m with
  | nil => rfl
  | cons p t ih =>
    obtain ⟨j, w⟩ := p
    simp only [nmod]
    split
    · rename_i e; simp [nmod, e]
    · rename_i e; simp [nmod, e, ih]

theorem nget_nset_self (m : NMap α) (k : Nat) (v d : α) : nget (nset m k v) k d = v := by simp [nget, nfind_nset_self]

theorem nget_nset_ne (m : NMap α) {k j : Nat} (v d : α) (h : j ≠ k) : nget (nset m k v) j d = nget m j d := by
  simp [nget, nfind_nset_ne m v h]

/-! ### Memory: what is read after a write -/

theorem Memory.read_put_self (m : List Host.Cell) (a : Nat) (v : Byte) : Memory.read (Memory.put m a v) a = v := by
  induction m with
  | nil => simp [Memory.put, Memory.read]
  | cons c t ih =>
    obtain ⟨b, w⟩ := c
    simp only [Memory.put]
    split
    · simp [Memory.read]
    · split
      · simp [Memory.read]
      · rename_i h1 h2; simp [Memory.read, h2, ih]

theorem Memory.read_put_ne (m : List Host.Cell) {a b : Nat} (v : Byte) (h : b ≠ a) :
    Memory.read (Memory.put m a v) b = Memory.read m b := by
  induction m with
  | nil => simp [Memory.put, Memory.read, h]
  | cons c t ih =>
    obtain ⟨i, w⟩ := c
    simp only [Memory.put]
    split
    · simp [Memory.read, h]
    · split
      · rename_i h1 h2; subst h2; simp [Memory.read, h]
      · simp only [Memory.read, ih]

theorem Memory.read_filter (m : List Host.Cell) (p : Nat → Bool) (b : Nat) :
    Memory.read (m.filter fun c => p c.1) b = if p b then Memory.read m b else 0 := by
  induction m with
  | nil => simp [Memory.read]
  | cons c t ih =>
    obtain ⟨i, w⟩ := c
    by_cases hi : p i = true
    · simp only [List.filter_cons, hi, if_true, Memory.read, ih]
      by_cases hb : b = i
      · subst hb; simp [hi]
      · simp [hb]
    · simp only [Bool.not_eq_true] at hi
      rw [List.filter_cons_of_neg (by simp [hi]), ih, Memory.read]
      by_cases hb : b = i
      · subst hb; simp [hi]
      · simp [hb]

theorem Memory.read_write_self (m : List Host.Cell) (a : Nat) (v : Byte) : Memory.read (Memory.write m a v) a = v := by
  unfold Memory.write
  split
  · rename_i h
    have := Memory.read_filter m (fun b => decide (b ≠ a)) a
    simp only [ne_eq, decide_not] at this ⊢
    rw [this]; simp [h]
  · exact Memory.read_put_self m a v

theorem Memory.read_write_ne (m : List Host.Cell) {a b : Nat} (v : Byte) (h : b ≠ a) :
    Memory.read (Memory.write m a v) b = Memory.read m b := by
  unfold Memory.write
  split
  · have := Memory.read_filter m (fun c => decide (c ≠ a)) b
    simp only [ne_eq, decide_not] at this ⊢
    rw [this]; simp [h]
  · exact Memory.read_put_ne m v h

/-- Bytes written leave every byte outside them. -/
theorem Memory.read_writes_out (bs : List Byte) (m : List Host.Cell) (a b : Nat) (h : b < a ∨ a + bs.length ≤ b) :
    Memory.read (Memory.writes m a bs) b = Memory.read m b := by
  induction bs generalizing m a with
  | nil => rfl
  | cons v t ih =>
    simp only [List.length_cons] at h
    rw [Memory.writes, ih _ _ (by omega), Memory.read_write_ne m v (by omega)]

/-- Each byte written reads as it was written. -/
theorem Memory.read_writes_in (bs : List Byte) (m : List Host.Cell) (a i : Nat) (h : i < bs.length) :
    Memory.read (Memory.writes m a bs) (a + i) = bs[i] := by
  induction bs generalizing m a i with
  | nil => simp at h
  | cons v t ih =>
    rw [Memory.writes]
    cases i with
    | zero => rw [Memory.read_writes_out t _ (a + 1) (a + 0) (by omega)]; simp [Memory.read_write_self]
    | succ j =>
      have e : a + (j + 1) = a + 1 + j := by omega
      rw [e, ih _ _ _ (by simpa using h)]; simp

theorem Memory.read_zero (m : List Host.Cell) (a n b : Nat) :
    Memory.read (Memory.zero m a n) b = if a ≤ b ∧ b < a + n then 0 else Memory.read m b := by
  have := Memory.read_filter m (fun c => !(a ≤ c && c < a + n)) b
  unfold Memory.zero
  rw [this]
  by_cases h : a ≤ b ∧ b < a + n
  · simp [h]
  · simp only [h, if_false]
    have : (!(decide (a ≤ b) && decide (b < a + n))) = true := by
      simp only [Bool.not_eq_true', Bool.and_eq_false_iff, decide_eq_false_iff_not]
      by_cases h1 : a ≤ b
      · right; intro h2; exact h ⟨h1, h2⟩
      · left; exact h1
    simp [this]

/-! ### Memory: the canonical form -/

/-- The canonical form, entry by entry. -/
theorem Memory.wf_cons (c : Host.Cell) (t : List Host.Cell) :
    Memory.wf (c :: t) = true ↔ c.2 ≠ 0 ∧ (∀ d ∈ t, c.1 < d.1) ∧ Memory.wf t = true := by
  induction t generalizing c with
  | nil => simp [Memory.wf]
  | cons d t ih =>
    simp only [Memory.wf, Bool.and_eq_true, decide_eq_true_eq, List.mem_cons, forall_eq_or_imp]
    constructor
    · rintro ⟨⟨h1, h2⟩, h3⟩
      exact ⟨by simpa using h1, ⟨h2, fun e he => lt_trans h2 (((ih d).mp h3).2.1 e he)⟩, h3⟩
    · rintro ⟨h1, ⟨h2, _⟩, h3⟩
      exact ⟨⟨by simpa using h1, h2⟩, h3⟩

theorem Memory.wf_filter (m : List Host.Cell) (p : Host.Cell → Bool) (h : Memory.wf m = true) : Memory.wf (m.filter p) = true := by
  induction m with
  | nil => rfl
  | cons c t ih =>
    rw [Memory.wf_cons] at h
    simp only [List.filter_cons]
    split
    · rw [Memory.wf_cons]
      exact ⟨h.1, fun d hd => h.2.1 d (List.mem_of_mem_filter hd), ih h.2.2⟩
    · exact ih h.2.2

theorem Memory.mem_put (m : List Host.Cell) (a : Nat) (v : Byte) (d : Host.Cell) (h : d ∈ Memory.put m a v) : d = (a, v) ∨ d ∈ m := by
  induction m with
  | nil => left; simpa [Memory.put] using h
  | cons c t ih =>
    obtain ⟨b, w⟩ := c
    simp only [Memory.put] at h
    split at h
    · simp only [List.mem_cons] at h ⊢; tauto
    · split at h
      · simp only [List.mem_cons] at h ⊢; tauto
      · simp only [List.mem_cons] at h ⊢
        rcases h with h | h
        · tauto
        · have := ih h; tauto

theorem Memory.wf_put (m : List Host.Cell) (a : Nat) (v : Byte) (hv : v ≠ 0) (h : Memory.wf m = true) :
    Memory.wf (Memory.put m a v) = true := by
  induction m with
  | nil => simpa [Memory.put, Memory.wf] using hv
  | cons c t ih =>
    obtain ⟨b, w⟩ := c
    have hc := (Memory.wf_cons _ _).mp h
    simp only [Memory.put]
    split
    · rename_i hab
      rw [Memory.wf_cons]
      refine ⟨hv, ?_, h⟩
      intro d hd
      simp only [List.mem_cons] at hd
      rcases hd with hd | hd
      · subst hd; exact hab
      · exact lt_trans hab (hc.2.1 d hd)
    · split
      · rename_i _ hab
        subst hab
        rw [Memory.wf_cons]
        exact ⟨hv, hc.2.1, hc.2.2⟩
      · rename_i h1 h2
        rw [Memory.wf_cons]
        refine ⟨hc.1, ?_, ih hc.2.2⟩
        intro d hd
        rcases Memory.mem_put t a v d hd with hd | hd
        · subst hd; simp only; omega
        · exact hc.2.1 d hd

/-- A byte written keeps the canonical form. -/
theorem Memory.wf_write (m : List Host.Cell) (a : Nat) (v : Byte) (h : Memory.wf m = true) : Memory.wf (Memory.write m a v) = true := by
  unfold Memory.write
  split
  · exact Memory.wf_filter m _ h
  · rename_i hv; exact Memory.wf_put m a v hv h

/-- Bytes written keep it. -/
theorem Memory.wf_writes (bs : List Byte) (m : List Host.Cell) (a : Nat) (h : Memory.wf m = true) :
    Memory.wf (Memory.writes m a bs) = true := by
  induction bs generalizing m a with
  | nil => exact h
  | cons v t ih => exact ih _ _ (Memory.wf_write m a v h)

/-- A range made zero keeps it. -/
theorem Memory.wf_zero (m : List Host.Cell) (a n : Nat) (h : Memory.wf m = true) : Memory.wf (Memory.zero m a n) = true :=
  Memory.wf_filter m _ h

/-- Cells moved keep it. -/
theorem Memory.wf_foldl_write {β : Type} (l : List β) (key : β → Nat) (val : β → Byte) (m : List Host.Cell) (h : Memory.wf m = true) :
    Memory.wf (l.foldl (fun x c => Memory.write x (key c) (val c)) m) = true := by
  induction l generalizing m with
  | nil => exact h
  | cons c t ih => exact ih _ (Memory.wf_write m _ _ h)

/-- Memory at reset is in the form. -/
theorem reset_memory_wf : Memory.wf State.reset.mem = true := rfl

/-- Writing bytes into a state keeps the form, and so does clearing. -/
theorem wrBytes_wf (s : State) (a : Nat) (bs : List Byte) (h : Memory.wf s.mem = true) : Memory.wf (wrBytes s a bs).mem = true :=
  Memory.wf_writes bs s.mem a h

theorem clearMem_wf (s : State) (a n : Nat) (h : Memory.wf s.mem = true) : Memory.wf (clearMem s a n).mem = true :=
  Memory.wf_zero s.mem a n h

end Sys2Proof.Machine
end

