-- ==== Sys2Proof/Laws/State.lean ====
section
/-! SUPPORT. What each update of the state leaves and what it writes, field by field: the small lemmas by which later proofs never unfold a
record update. -/

namespace Sys2Proof.Machine

/-! ### modThr -/

section

variable (s : State) (k : Nat) (f : Thread → Thread)

@[simp] theorem State.modThr_now : (s.modThr k f).now = s.now := rfl
@[simp] theorem State.modThr_mem : (s.modThr k f).mem = s.mem := rfl
@[simp] theorem State.modThr_memTags : (s.modThr k f).memTags = s.memTags := rfl
@[simp] theorem State.modThr_memPoison : (s.modThr k f).memPoison = s.memPoison := rfl
@[simp] theorem State.modThr_accs : (s.modThr k f).accs = s.accs := rfl
@[simp] theorem State.modThr_accPoison : (s.modThr k f).accPoison = s.accPoison := rfl
@[simp] theorem State.modThr_threads : (s.modThr k f).threads = nmod s.threads k f := rfl
@[simp] theorem State.modThr_groups : (s.modThr k f).groups = s.groups := rfl
@[simp] theorem State.modThr_launches : (s.modThr k f).launches = s.launches := rfl
@[simp] theorem State.modThr_graphs : (s.modThr k f).graphs = s.graphs := rfl
@[simp] theorem State.modThr_phases : (s.modThr k f).phases = s.phases := rfl
@[simp] theorem State.modThr_jobs : (s.modThr k f).jobs = s.jobs := rfl
@[simp] theorem State.modThr_cores : (s.modThr k f).cores = s.cores := rfl
@[simp] theorem State.modThr_clusters : (s.modThr k f).clusters = s.clusters := rfl
@[simp] theorem State.modThr_dies : (s.modThr k f).dies = s.dies := rfl
@[simp] theorem State.modThr_tenants : (s.modThr k f).tenants = s.tenants := rfl
@[simp] theorem State.modThr_csrs : (s.modThr k f).csrs = s.csrs := rfl
@[simp] theorem State.modThr_leases : (s.modThr k f).leases = s.leases := rfl
@[simp] theorem State.modThr_pins : (s.modThr k f).pins = s.pins := rfl
@[simp] theorem State.modThr_cached : (s.modThr k f).cached = s.cached := rfl
@[simp] theorem State.modThr_calendars : (s.modThr k f).calendars = s.calendars := rfl
@[simp] theorem State.modThr_applied : (s.modThr k f).applied = s.applied := rfl
@[simp] theorem State.modThr_rets : (s.modThr k f).rets = s.rets := rfl
@[simp] theorem State.modThr_upds : (s.modThr k f).upds = s.upds := rfl
@[simp] theorem State.modThr_xfers : (s.modThr k f).xfers = s.xfers := rfl
@[simp] theorem State.modThr_pageOps : (s.modThr k f).pageOps = s.pageOps := rfl
@[simp] theorem State.modThr_hwbars : (s.modThr k f).hwbars = s.hwbars := rfl
@[simp] theorem State.modThr_audits : (s.modThr k f).audits = s.audits := rfl
@[simp] theorem State.modThr_gaffer : (s.modThr k f).gaffer = s.gaffer := rfl
@[simp] theorem State.modThr_pathScore : (s.modThr k f).pathScore = s.pathScore := rfl
@[simp] theorem State.modThr_pathKept : (s.modThr k f).pathKept = s.pathKept := rfl
@[simp] theorem State.modThr_windows : (s.modThr k f).windows = s.windows := rfl
@[simp] theorem State.modThr_ring : (s.modThr k f).ring = s.ring := rfl
@[simp] theorem State.modThr_domainMode : (s.modThr k f).domainMode = s.domainMode := rfl
@[simp] theorem State.modThr_linksDown : (s.modThr k f).linksDown = s.linksDown := rfl
@[simp] theorem State.modThr_service : (s.modThr k f).service = s.service := rfl
@[simp] theorem State.modThr_portData : (s.modThr k f).portData = s.portData := rfl
@[simp] theorem State.modThr_portAddr : (s.modThr k f).portAddr = s.portAddr := rfl
@[simp] theorem State.modThr_portValue : (s.modThr k f).portValue = s.portValue := rfl
@[simp] theorem State.modThr_admissions : (s.modThr k f).admissions = s.admissions := rfl
@[simp] theorem State.modThr_beat : (s.modThr k f).beat = s.beat := rfl
@[simp] theorem State.modThr_ids : (s.modThr k f).ids = s.ids := rfl
@[simp] theorem State.modThr_lostAcks : (s.modThr k f).lostAcks = s.lostAcks := rfl
@[simp] theorem State.modThr_lostSends : (s.modThr k f).lostSends = s.lostSends := rfl
@[simp] theorem State.modThr_hostErrors : (s.modThr k f).hostErrors = s.hostErrors := rfl
@[simp] theorem State.modThr_inputs : (s.modThr k f).inputs = s.inputs := rfl
@[simp] theorem State.modThr_delays : (s.modThr k f).delays = s.delays := rfl
@[simp] theorem State.modThr_free : (s.modThr k f).free = s.free := rfl

end

/-! ### setThr -/

section

variable (s : State) (k : Nat) (t : Thread)

@[simp] theorem State.setThr_now : (s.setThr k t).now = s.now := rfl
@[simp] theorem State.setThr_mem : (s.setThr k t).mem = s.mem := rfl
@[simp] theorem State.setThr_memTags : (s.setThr k t).memTags = s.memTags := rfl
@[simp] theorem State.setThr_memPoison : (s.setThr k t).memPoison = s.memPoison := rfl
@[simp] theorem State.setThr_accs : (s.setThr k t).accs = s.accs := rfl
@[simp] theorem State.setThr_accPoison : (s.setThr k t).accPoison = s.accPoison := rfl
@[simp] theorem State.setThr_threads : (s.setThr k t).threads = nset s.threads k t := rfl
@[simp] theorem State.setThr_groups : (s.setThr k t).groups = s.groups := rfl
@[simp] theorem State.setThr_launches : (s.setThr k t).launches = s.launches := rfl
@[simp] theorem State.setThr_graphs : (s.setThr k t).graphs = s.graphs := rfl
@[simp] theorem State.setThr_phases : (s.setThr k t).phases = s.phases := rfl
@[simp] theorem State.setThr_jobs : (s.setThr k t).jobs = s.jobs := rfl
@[simp] theorem State.setThr_cores : (s.setThr k t).cores = s.cores := rfl
@[simp] theorem State.setThr_clusters : (s.setThr k t).clusters = s.clusters := rfl
@[simp] theorem State.setThr_dies : (s.setThr k t).dies = s.dies := rfl
@[simp] theorem State.setThr_tenants : (s.setThr k t).tenants = s.tenants := rfl
@[simp] theorem State.setThr_csrs : (s.setThr k t).csrs = s.csrs := rfl
@[simp] theorem State.setThr_leases : (s.setThr k t).leases = s.leases := rfl
@[simp] theorem State.setThr_pins : (s.setThr k t).pins = s.pins := rfl
@[simp] theorem State.setThr_cached : (s.setThr k t).cached = s.cached := rfl
@[simp] theorem State.setThr_calendars : (s.setThr k t).calendars = s.calendars := rfl
@[simp] theorem State.setThr_applied : (s.setThr k t).applied = s.applied := rfl
@[simp] theorem State.setThr_rets : (s.setThr k t).rets = s.rets := rfl
@[simp] theorem State.setThr_upds : (s.setThr k t).upds = s.upds := rfl
@[simp] theorem State.setThr_xfers : (s.setThr k t).xfers = s.xfers := rfl
@[simp] theorem State.setThr_pageOps : (s.setThr k t).pageOps = s.pageOps := rfl
@[simp] theorem State.setThr_hwbars : (s.setThr k t).hwbars = s.hwbars := rfl
@[simp] theorem State.setThr_audits : (s.setThr k t).audits = s.audits := rfl
@[simp] theorem State.setThr_gaffer : (s.setThr k t).gaffer = s.gaffer := rfl
@[simp] theorem State.setThr_pathScore : (s.setThr k t).pathScore = s.pathScore := rfl
@[simp] theorem State.setThr_pathKept : (s.setThr k t).pathKept = s.pathKept := rfl
@[simp] theorem State.setThr_windows : (s.setThr k t).windows = s.windows := rfl
@[simp] theorem State.setThr_ring : (s.setThr k t).ring = s.ring := rfl
@[simp] theorem State.setThr_domainMode : (s.setThr k t).domainMode = s.domainMode := rfl
@[simp] theorem State.setThr_linksDown : (s.setThr k t).linksDown = s.linksDown := rfl
@[simp] theorem State.setThr_service : (s.setThr k t).service = s.service := rfl
@[simp] theorem State.setThr_portData : (s.setThr k t).portData = s.portData := rfl
@[simp] theorem State.setThr_portAddr : (s.setThr k t).portAddr = s.portAddr := rfl
@[simp] theorem State.setThr_portValue : (s.setThr k t).portValue = s.portValue := rfl
@[simp] theorem State.setThr_admissions : (s.setThr k t).admissions = s.admissions := rfl
@[simp] theorem State.setThr_beat : (s.setThr k t).beat = s.beat := rfl
@[simp] theorem State.setThr_ids : (s.setThr k t).ids = s.ids := rfl
@[simp] theorem State.setThr_lostAcks : (s.setThr k t).lostAcks = s.lostAcks := rfl
@[simp] theorem State.setThr_lostSends : (s.setThr k t).lostSends = s.lostSends := rfl
@[simp] theorem State.setThr_hostErrors : (s.setThr k t).hostErrors = s.hostErrors := rfl
@[simp] theorem State.setThr_inputs : (s.setThr k t).inputs = s.inputs := rfl
@[simp] theorem State.setThr_delays : (s.setThr k t).delays = s.delays := rfl
@[simp] theorem State.setThr_free : (s.setThr k t).free = s.free := rfl

end

/-! ### modGrp -/

section

variable (s : State) (g : Nat) (f : Group → Group)

@[simp] theorem State.modGrp_now : (s.modGrp g f).now = s.now := rfl
@[simp] theorem State.modGrp_mem : (s.modGrp g f).mem = s.mem := rfl
@[simp] theorem State.modGrp_memTags : (s.modGrp g f).memTags = s.memTags := rfl
@[simp] theorem State.modGrp_memPoison : (s.modGrp g f).memPoison = s.memPoison := rfl
@[simp] theorem State.modGrp_accs : (s.modGrp g f).accs = s.accs := rfl
@[simp] theorem State.modGrp_accPoison : (s.modGrp g f).accPoison = s.accPoison := rfl
@[simp] theorem State.modGrp_threads : (s.modGrp g f).threads = s.threads := rfl
@[simp] theorem State.modGrp_groups : (s.modGrp g f).groups = nmod s.groups g f := rfl
@[simp] theorem State.modGrp_launches : (s.modGrp g f).launches = s.launches := rfl
@[simp] theorem State.modGrp_graphs : (s.modGrp g f).graphs = s.graphs := rfl
@[simp] theorem State.modGrp_phases : (s.modGrp g f).phases = s.phases := rfl
@[simp] theorem State.modGrp_jobs : (s.modGrp g f).jobs = s.jobs := rfl
@[simp] theorem State.modGrp_cores : (s.modGrp g f).cores = s.cores := rfl
@[simp] theorem State.modGrp_clusters : (s.modGrp g f).clusters = s.clusters := rfl
@[simp] theorem State.modGrp_dies : (s.modGrp g f).dies = s.dies := rfl
@[simp] theorem State.modGrp_tenants : (s.modGrp g f).tenants = s.tenants := rfl
@[simp] theorem State.modGrp_csrs : (s.modGrp g f).csrs = s.csrs := rfl
@[simp] theorem State.modGrp_leases : (s.modGrp g f).leases = s.leases := rfl
@[simp] theorem State.modGrp_pins : (s.modGrp g f).pins = s.pins := rfl
@[simp] theorem State.modGrp_cached : (s.modGrp g f).cached = s.cached := rfl
@[simp] theorem State.modGrp_calendars : (s.modGrp g f).calendars = s.calendars := rfl
@[simp] theorem State.modGrp_applied : (s.modGrp g f).applied = s.applied := rfl
@[simp] theorem State.modGrp_rets : (s.modGrp g f).rets = s.rets := rfl
@[simp] theorem State.modGrp_upds : (s.modGrp g f).upds = s.upds := rfl
@[simp] theorem State.modGrp_xfers : (s.modGrp g f).xfers = s.xfers := rfl
@[simp] theorem State.modGrp_pageOps : (s.modGrp g f).pageOps = s.pageOps := rfl
@[simp] theorem State.modGrp_hwbars : (s.modGrp g f).hwbars = s.hwbars := rfl
@[simp] theorem State.modGrp_audits : (s.modGrp g f).audits = s.audits := rfl
@[simp] theorem State.modGrp_gaffer : (s.modGrp g f).gaffer = s.gaffer := rfl
@[simp] theorem State.modGrp_pathScore : (s.modGrp g f).pathScore = s.pathScore := rfl
@[simp] theorem State.modGrp_pathKept : (s.modGrp g f).pathKept = s.pathKept := rfl
@[simp] theorem State.modGrp_windows : (s.modGrp g f).windows = s.windows := rfl
@[simp] theorem State.modGrp_ring : (s.modGrp g f).ring = s.ring := rfl
@[simp] theorem State.modGrp_domainMode : (s.modGrp g f).domainMode = s.domainMode := rfl
@[simp] theorem State.modGrp_linksDown : (s.modGrp g f).linksDown = s.linksDown := rfl
@[simp] theorem State.modGrp_service : (s.modGrp g f).service = s.service := rfl
@[simp] theorem State.modGrp_portData : (s.modGrp g f).portData = s.portData := rfl
@[simp] theorem State.modGrp_portAddr : (s.modGrp g f).portAddr = s.portAddr := rfl
@[simp] theorem State.modGrp_portValue : (s.modGrp g f).portValue = s.portValue := rfl
@[simp] theorem State.modGrp_admissions : (s.modGrp g f).admissions = s.admissions := rfl
@[simp] theorem State.modGrp_beat : (s.modGrp g f).beat = s.beat := rfl
@[simp] theorem State.modGrp_ids : (s.modGrp g f).ids = s.ids := rfl
@[simp] theorem State.modGrp_lostAcks : (s.modGrp g f).lostAcks = s.lostAcks := rfl
@[simp] theorem State.modGrp_lostSends : (s.modGrp g f).lostSends = s.lostSends := rfl
@[simp] theorem State.modGrp_hostErrors : (s.modGrp g f).hostErrors = s.hostErrors := rfl
@[simp] theorem State.modGrp_inputs : (s.modGrp g f).inputs = s.inputs := rfl
@[simp] theorem State.modGrp_delays : (s.modGrp g f).delays = s.delays := rfl
@[simp] theorem State.modGrp_free : (s.modGrp g f).free = s.free := rfl

end

/-! ### modLch -/

section

variable (s : State) (l : Nat) (f : Launch → Launch)

@[simp] theorem State.modLch_now : (s.modLch l f).now = s.now := rfl
@[simp] theorem State.modLch_mem : (s.modLch l f).mem = s.mem := rfl
@[simp] theorem State.modLch_memTags : (s.modLch l f).memTags = s.memTags := rfl
@[simp] theorem State.modLch_memPoison : (s.modLch l f).memPoison = s.memPoison := rfl
@[simp] theorem State.modLch_accs : (s.modLch l f).accs = s.accs := rfl
@[simp] theorem State.modLch_accPoison : (s.modLch l f).accPoison = s.accPoison := rfl
@[simp] theorem State.modLch_threads : (s.modLch l f).threads = s.threads := rfl
@[simp] theorem State.modLch_groups : (s.modLch l f).groups = s.groups := rfl
@[simp] theorem State.modLch_launches : (s.modLch l f).launches = nmod s.launches l f := rfl
@[simp] theorem State.modLch_graphs : (s.modLch l f).graphs = s.graphs := rfl
@[simp] theorem State.modLch_phases : (s.modLch l f).phases = s.phases := rfl
@[simp] theorem State.modLch_jobs : (s.modLch l f).jobs = s.jobs := rfl
@[simp] theorem State.modLch_cores : (s.modLch l f).cores = s.cores := rfl
@[simp] theorem State.modLch_clusters : (s.modLch l f).clusters = s.clusters := rfl
@[simp] theorem State.modLch_dies : (s.modLch l f).dies = s.dies := rfl
@[simp] theorem State.modLch_tenants : (s.modLch l f).tenants = s.tenants := rfl
@[simp] theorem State.modLch_csrs : (s.modLch l f).csrs = s.csrs := rfl
@[simp] theorem State.modLch_leases : (s.modLch l f).leases = s.leases := rfl
@[simp] theorem State.modLch_pins : (s.modLch l f).pins = s.pins := rfl
@[simp] theorem State.modLch_cached : (s.modLch l f).cached = s.cached := rfl
@[simp] theorem State.modLch_calendars : (s.modLch l f).calendars = s.calendars := rfl
@[simp] theorem State.modLch_applied : (s.modLch l f).applied = s.applied := rfl
@[simp] theorem State.modLch_rets : (s.modLch l f).rets = s.rets := rfl
@[simp] theorem State.modLch_upds : (s.modLch l f).upds = s.upds := rfl
@[simp] theorem State.modLch_xfers : (s.modLch l f).xfers = s.xfers := rfl
@[simp] theorem State.modLch_pageOps : (s.modLch l f).pageOps = s.pageOps := rfl
@[simp] theorem State.modLch_hwbars : (s.modLch l f).hwbars = s.hwbars := rfl
@[simp] theorem State.modLch_audits : (s.modLch l f).audits = s.audits := rfl
@[simp] theorem State.modLch_gaffer : (s.modLch l f).gaffer = s.gaffer := rfl
@[simp] theorem State.modLch_pathScore : (s.modLch l f).pathScore = s.pathScore := rfl
@[simp] theorem State.modLch_pathKept : (s.modLch l f).pathKept = s.pathKept := rfl
@[simp] theorem State.modLch_windows : (s.modLch l f).windows = s.windows := rfl
@[simp] theorem State.modLch_ring : (s.modLch l f).ring = s.ring := rfl
@[simp] theorem State.modLch_domainMode : (s.modLch l f).domainMode = s.domainMode := rfl
@[simp] theorem State.modLch_linksDown : (s.modLch l f).linksDown = s.linksDown := rfl
@[simp] theorem State.modLch_service : (s.modLch l f).service = s.service := rfl
@[simp] theorem State.modLch_portData : (s.modLch l f).portData = s.portData := rfl
@[simp] theorem State.modLch_portAddr : (s.modLch l f).portAddr = s.portAddr := rfl
@[simp] theorem State.modLch_portValue : (s.modLch l f).portValue = s.portValue := rfl
@[simp] theorem State.modLch_admissions : (s.modLch l f).admissions = s.admissions := rfl
@[simp] theorem State.modLch_beat : (s.modLch l f).beat = s.beat := rfl
@[simp] theorem State.modLch_ids : (s.modLch l f).ids = s.ids := rfl
@[simp] theorem State.modLch_lostAcks : (s.modLch l f).lostAcks = s.lostAcks := rfl
@[simp] theorem State.modLch_lostSends : (s.modLch l f).lostSends = s.lostSends := rfl
@[simp] theorem State.modLch_hostErrors : (s.modLch l f).hostErrors = s.hostErrors := rfl
@[simp] theorem State.modLch_inputs : (s.modLch l f).inputs = s.inputs := rfl
@[simp] theorem State.modLch_delays : (s.modLch l f).delays = s.delays := rfl
@[simp] theorem State.modLch_free : (s.modLch l f).free = s.free := rfl

end

/-! ### modCore -/

section

variable (s : State) (c : Nat) (f : Core → Core)

@[simp] theorem State.modCore_now : (s.modCore c f).now = s.now := rfl
@[simp] theorem State.modCore_mem : (s.modCore c f).mem = s.mem := rfl
@[simp] theorem State.modCore_memTags : (s.modCore c f).memTags = s.memTags := rfl
@[simp] theorem State.modCore_memPoison : (s.modCore c f).memPoison = s.memPoison := rfl
@[simp] theorem State.modCore_accs : (s.modCore c f).accs = s.accs := rfl
@[simp] theorem State.modCore_accPoison : (s.modCore c f).accPoison = s.accPoison := rfl
@[simp] theorem State.modCore_threads : (s.modCore c f).threads = s.threads := rfl
@[simp] theorem State.modCore_groups : (s.modCore c f).groups = s.groups := rfl
@[simp] theorem State.modCore_launches : (s.modCore c f).launches = s.launches := rfl
@[simp] theorem State.modCore_graphs : (s.modCore c f).graphs = s.graphs := rfl
@[simp] theorem State.modCore_phases : (s.modCore c f).phases = s.phases := rfl
@[simp] theorem State.modCore_jobs : (s.modCore c f).jobs = s.jobs := rfl
@[simp] theorem State.modCore_cores : (s.modCore c f).cores = nset s.cores c (f (s.core c)) := rfl
@[simp] theorem State.modCore_clusters : (s.modCore c f).clusters = s.clusters := rfl
@[simp] theorem State.modCore_dies : (s.modCore c f).dies = s.dies := rfl
@[simp] theorem State.modCore_tenants : (s.modCore c f).tenants = s.tenants := rfl
@[simp] theorem State.modCore_csrs : (s.modCore c f).csrs = s.csrs := rfl
@[simp] theorem State.modCore_leases : (s.modCore c f).leases = s.leases := rfl
@[simp] theorem State.modCore_pins : (s.modCore c f).pins = s.pins := rfl
@[simp] theorem State.modCore_cached : (s.modCore c f).cached = s.cached := rfl
@[simp] theorem State.modCore_calendars : (s.modCore c f).calendars = s.calendars := rfl
@[simp] theorem State.modCore_applied : (s.modCore c f).applied = s.applied := rfl
@[simp] theorem State.modCore_rets : (s.modCore c f).rets = s.rets := rfl
@[simp] theorem State.modCore_upds : (s.modCore c f).upds = s.upds := rfl
@[simp] theorem State.modCore_xfers : (s.modCore c f).xfers = s.xfers := rfl
@[simp] theorem State.modCore_pageOps : (s.modCore c f).pageOps = s.pageOps := rfl
@[simp] theorem State.modCore_hwbars : (s.modCore c f).hwbars = s.hwbars := rfl
@[simp] theorem State.modCore_audits : (s.modCore c f).audits = s.audits := rfl
@[simp] theorem State.modCore_gaffer : (s.modCore c f).gaffer = s.gaffer := rfl
@[simp] theorem State.modCore_pathScore : (s.modCore c f).pathScore = s.pathScore := rfl
@[simp] theorem State.modCore_pathKept : (s.modCore c f).pathKept = s.pathKept := rfl
@[simp] theorem State.modCore_windows : (s.modCore c f).windows = s.windows := rfl
@[simp] theorem State.modCore_ring : (s.modCore c f).ring = s.ring := rfl
@[simp] theorem State.modCore_domainMode : (s.modCore c f).domainMode = s.domainMode := rfl
@[simp] theorem State.modCore_linksDown : (s.modCore c f).linksDown = s.linksDown := rfl
@[simp] theorem State.modCore_service : (s.modCore c f).service = s.service := rfl
@[simp] theorem State.modCore_portData : (s.modCore c f).portData = s.portData := rfl
@[simp] theorem State.modCore_portAddr : (s.modCore c f).portAddr = s.portAddr := rfl
@[simp] theorem State.modCore_portValue : (s.modCore c f).portValue = s.portValue := rfl
@[simp] theorem State.modCore_admissions : (s.modCore c f).admissions = s.admissions := rfl
@[simp] theorem State.modCore_beat : (s.modCore c f).beat = s.beat := rfl
@[simp] theorem State.modCore_ids : (s.modCore c f).ids = s.ids := rfl
@[simp] theorem State.modCore_lostAcks : (s.modCore c f).lostAcks = s.lostAcks := rfl
@[simp] theorem State.modCore_lostSends : (s.modCore c f).lostSends = s.lostSends := rfl
@[simp] theorem State.modCore_hostErrors : (s.modCore c f).hostErrors = s.hostErrors := rfl
@[simp] theorem State.modCore_inputs : (s.modCore c f).inputs = s.inputs := rfl
@[simp] theorem State.modCore_delays : (s.modCore c f).delays = s.delays := rfl
@[simp] theorem State.modCore_free : (s.modCore c f).free = s.free := rfl

end

/-! ### modCluster -/

section

variable (s : State) (c : Nat) (f : Cluster → Cluster)

@[simp] theorem State.modCluster_now : (s.modCluster c f).now = s.now := rfl
@[simp] theorem State.modCluster_mem : (s.modCluster c f).mem = s.mem := rfl
@[simp] theorem State.modCluster_memTags : (s.modCluster c f).memTags = s.memTags := rfl
@[simp] theorem State.modCluster_memPoison : (s.modCluster c f).memPoison = s.memPoison := rfl
@[simp] theorem State.modCluster_accs : (s.modCluster c f).accs = s.accs := rfl
@[simp] theorem State.modCluster_accPoison : (s.modCluster c f).accPoison = s.accPoison := rfl
@[simp] theorem State.modCluster_threads : (s.modCluster c f).threads = s.threads := rfl
@[simp] theorem State.modCluster_groups : (s.modCluster c f).groups = s.groups := rfl
@[simp] theorem State.modCluster_launches : (s.modCluster c f).launches = s.launches := rfl
@[simp] theorem State.modCluster_graphs : (s.modCluster c f).graphs = s.graphs := rfl
@[simp] theorem State.modCluster_phases : (s.modCluster c f).phases = s.phases := rfl
@[simp] theorem State.modCluster_jobs : (s.modCluster c f).jobs = s.jobs := rfl
@[simp] theorem State.modCluster_cores : (s.modCluster c f).cores = s.cores := rfl
@[simp] theorem State.modCluster_clusters : (s.modCluster c f).clusters = nset s.clusters c (f (s.cluster c)) := rfl
@[simp] theorem State.modCluster_dies : (s.modCluster c f).dies = s.dies := rfl
@[simp] theorem State.modCluster_tenants : (s.modCluster c f).tenants = s.tenants := rfl
@[simp] theorem State.modCluster_csrs : (s.modCluster c f).csrs = s.csrs := rfl
@[simp] theorem State.modCluster_leases : (s.modCluster c f).leases = s.leases := rfl
@[simp] theorem State.modCluster_pins : (s.modCluster c f).pins = s.pins := rfl
@[simp] theorem State.modCluster_cached : (s.modCluster c f).cached = s.cached := rfl
@[simp] theorem State.modCluster_calendars : (s.modCluster c f).calendars = s.calendars := rfl
@[simp] theorem State.modCluster_applied : (s.modCluster c f).applied = s.applied := rfl
@[simp] theorem State.modCluster_rets : (s.modCluster c f).rets = s.rets := rfl
@[simp] theorem State.modCluster_upds : (s.modCluster c f).upds = s.upds := rfl
@[simp] theorem State.modCluster_xfers : (s.modCluster c f).xfers = s.xfers := rfl
@[simp] theorem State.modCluster_pageOps : (s.modCluster c f).pageOps = s.pageOps := rfl
@[simp] theorem State.modCluster_hwbars : (s.modCluster c f).hwbars = s.hwbars := rfl
@[simp] theorem State.modCluster_audits : (s.modCluster c f).audits = s.audits := rfl
@[simp] theorem State.modCluster_gaffer : (s.modCluster c f).gaffer = s.gaffer := rfl
@[simp] theorem State.modCluster_pathScore : (s.modCluster c f).pathScore = s.pathScore := rfl
@[simp] theorem State.modCluster_pathKept : (s.modCluster c f).pathKept = s.pathKept := rfl
@[simp] theorem State.modCluster_windows : (s.modCluster c f).windows = s.windows := rfl
@[simp] theorem State.modCluster_ring : (s.modCluster c f).ring = s.ring := rfl
@[simp] theorem State.modCluster_domainMode : (s.modCluster c f).domainMode = s.domainMode := rfl
@[simp] theorem State.modCluster_linksDown : (s.modCluster c f).linksDown = s.linksDown := rfl
@[simp] theorem State.modCluster_service : (s.modCluster c f).service = s.service := rfl
@[simp] theorem State.modCluster_portData : (s.modCluster c f).portData = s.portData := rfl
@[simp] theorem State.modCluster_portAddr : (s.modCluster c f).portAddr = s.portAddr := rfl
@[simp] theorem State.modCluster_portValue : (s.modCluster c f).portValue = s.portValue := rfl
@[simp] theorem State.modCluster_admissions : (s.modCluster c f).admissions = s.admissions := rfl
@[simp] theorem State.modCluster_beat : (s.modCluster c f).beat = s.beat := rfl
@[simp] theorem State.modCluster_ids : (s.modCluster c f).ids = s.ids := rfl
@[simp] theorem State.modCluster_lostAcks : (s.modCluster c f).lostAcks = s.lostAcks := rfl
@[simp] theorem State.modCluster_lostSends : (s.modCluster c f).lostSends = s.lostSends := rfl
@[simp] theorem State.modCluster_hostErrors : (s.modCluster c f).hostErrors = s.hostErrors := rfl
@[simp] theorem State.modCluster_inputs : (s.modCluster c f).inputs = s.inputs := rfl
@[simp] theorem State.modCluster_delays : (s.modCluster c f).delays = s.delays := rfl
@[simp] theorem State.modCluster_free : (s.modCluster c f).free = s.free := rfl

end

/-! ### modDie -/

section

variable (s : State) (d : Nat) (f : Die → Die)

@[simp] theorem State.modDie_now : (s.modDie d f).now = s.now := rfl
@[simp] theorem State.modDie_mem : (s.modDie d f).mem = s.mem := rfl
@[simp] theorem State.modDie_memTags : (s.modDie d f).memTags = s.memTags := rfl
@[simp] theorem State.modDie_memPoison : (s.modDie d f).memPoison = s.memPoison := rfl
@[simp] theorem State.modDie_accs : (s.modDie d f).accs = s.accs := rfl
@[simp] theorem State.modDie_accPoison : (s.modDie d f).accPoison = s.accPoison := rfl
@[simp] theorem State.modDie_threads : (s.modDie d f).threads = s.threads := rfl
@[simp] theorem State.modDie_groups : (s.modDie d f).groups = s.groups := rfl
@[simp] theorem State.modDie_launches : (s.modDie d f).launches = s.launches := rfl
@[simp] theorem State.modDie_graphs : (s.modDie d f).graphs = s.graphs := rfl
@[simp] theorem State.modDie_phases : (s.modDie d f).phases = s.phases := rfl
@[simp] theorem State.modDie_jobs : (s.modDie d f).jobs = s.jobs := rfl
@[simp] theorem State.modDie_cores : (s.modDie d f).cores = s.cores := rfl
@[simp] theorem State.modDie_clusters : (s.modDie d f).clusters = s.clusters := rfl
@[simp] theorem State.modDie_dies : (s.modDie d f).dies = nset s.dies d (f (s.die d)) := rfl
@[simp] theorem State.modDie_tenants : (s.modDie d f).tenants = s.tenants := rfl
@[simp] theorem State.modDie_csrs : (s.modDie d f).csrs = s.csrs := rfl
@[simp] theorem State.modDie_leases : (s.modDie d f).leases = s.leases := rfl
@[simp] theorem State.modDie_pins : (s.modDie d f).pins = s.pins := rfl
@[simp] theorem State.modDie_cached : (s.modDie d f).cached = s.cached := rfl
@[simp] theorem State.modDie_calendars : (s.modDie d f).calendars = s.calendars := rfl
@[simp] theorem State.modDie_applied : (s.modDie d f).applied = s.applied := rfl
@[simp] theorem State.modDie_rets : (s.modDie d f).rets = s.rets := rfl
@[simp] theorem State.modDie_upds : (s.modDie d f).upds = s.upds := rfl
@[simp] theorem State.modDie_xfers : (s.modDie d f).xfers = s.xfers := rfl
@[simp] theorem State.modDie_pageOps : (s.modDie d f).pageOps = s.pageOps := rfl
@[simp] theorem State.modDie_hwbars : (s.modDie d f).hwbars = s.hwbars := rfl
@[simp] theorem State.modDie_audits : (s.modDie d f).audits = s.audits := rfl
@[simp] theorem State.modDie_gaffer : (s.modDie d f).gaffer = s.gaffer := rfl
@[simp] theorem State.modDie_pathScore : (s.modDie d f).pathScore = s.pathScore := rfl
@[simp] theorem State.modDie_pathKept : (s.modDie d f).pathKept = s.pathKept := rfl
@[simp] theorem State.modDie_windows : (s.modDie d f).windows = s.windows := rfl
@[simp] theorem State.modDie_ring : (s.modDie d f).ring = s.ring := rfl
@[simp] theorem State.modDie_domainMode : (s.modDie d f).domainMode = s.domainMode := rfl
@[simp] theorem State.modDie_linksDown : (s.modDie d f).linksDown = s.linksDown := rfl
@[simp] theorem State.modDie_service : (s.modDie d f).service = s.service := rfl
@[simp] theorem State.modDie_portData : (s.modDie d f).portData = s.portData := rfl
@[simp] theorem State.modDie_portAddr : (s.modDie d f).portAddr = s.portAddr := rfl
@[simp] theorem State.modDie_portValue : (s.modDie d f).portValue = s.portValue := rfl
@[simp] theorem State.modDie_admissions : (s.modDie d f).admissions = s.admissions := rfl
@[simp] theorem State.modDie_beat : (s.modDie d f).beat = s.beat := rfl
@[simp] theorem State.modDie_ids : (s.modDie d f).ids = s.ids := rfl
@[simp] theorem State.modDie_lostAcks : (s.modDie d f).lostAcks = s.lostAcks := rfl
@[simp] theorem State.modDie_lostSends : (s.modDie d f).lostSends = s.lostSends := rfl
@[simp] theorem State.modDie_hostErrors : (s.modDie d f).hostErrors = s.hostErrors := rfl
@[simp] theorem State.modDie_inputs : (s.modDie d f).inputs = s.inputs := rfl
@[simp] theorem State.modDie_delays : (s.modDie d f).delays = s.delays := rfl
@[simp] theorem State.modDie_free : (s.modDie d f).free = s.free := rfl

end

/-! ### modTenant -/

section

variable (s : State) (n : Nat) (f : Tenant → Tenant)

@[simp] theorem State.modTenant_now : (s.modTenant n f).now = s.now := rfl
@[simp] theorem State.modTenant_mem : (s.modTenant n f).mem = s.mem := rfl
@[simp] theorem State.modTenant_memTags : (s.modTenant n f).memTags = s.memTags := rfl
@[simp] theorem State.modTenant_memPoison : (s.modTenant n f).memPoison = s.memPoison := rfl
@[simp] theorem State.modTenant_accs : (s.modTenant n f).accs = s.accs := rfl
@[simp] theorem State.modTenant_accPoison : (s.modTenant n f).accPoison = s.accPoison := rfl
@[simp] theorem State.modTenant_threads : (s.modTenant n f).threads = s.threads := rfl
@[simp] theorem State.modTenant_groups : (s.modTenant n f).groups = s.groups := rfl
@[simp] theorem State.modTenant_launches : (s.modTenant n f).launches = s.launches := rfl
@[simp] theorem State.modTenant_graphs : (s.modTenant n f).graphs = s.graphs := rfl
@[simp] theorem State.modTenant_phases : (s.modTenant n f).phases = s.phases := rfl
@[simp] theorem State.modTenant_jobs : (s.modTenant n f).jobs = s.jobs := rfl
@[simp] theorem State.modTenant_cores : (s.modTenant n f).cores = s.cores := rfl
@[simp] theorem State.modTenant_clusters : (s.modTenant n f).clusters = s.clusters := rfl
@[simp] theorem State.modTenant_dies : (s.modTenant n f).dies = s.dies := rfl
@[simp] theorem State.modTenant_tenants : (s.modTenant n f).tenants = nset s.tenants n (f (s.tenant n)) := rfl
@[simp] theorem State.modTenant_csrs : (s.modTenant n f).csrs = s.csrs := rfl
@[simp] theorem State.modTenant_leases : (s.modTenant n f).leases = s.leases := rfl
@[simp] theorem State.modTenant_pins : (s.modTenant n f).pins = s.pins := rfl
@[simp] theorem State.modTenant_cached : (s.modTenant n f).cached = s.cached := rfl
@[simp] theorem State.modTenant_calendars : (s.modTenant n f).calendars = s.calendars := rfl
@[simp] theorem State.modTenant_applied : (s.modTenant n f).applied = s.applied := rfl
@[simp] theorem State.modTenant_rets : (s.modTenant n f).rets = s.rets := rfl
@[simp] theorem State.modTenant_upds : (s.modTenant n f).upds = s.upds := rfl
@[simp] theorem State.modTenant_xfers : (s.modTenant n f).xfers = s.xfers := rfl
@[simp] theorem State.modTenant_pageOps : (s.modTenant n f).pageOps = s.pageOps := rfl
@[simp] theorem State.modTenant_hwbars : (s.modTenant n f).hwbars = s.hwbars := rfl
@[simp] theorem State.modTenant_audits : (s.modTenant n f).audits = s.audits := rfl
@[simp] theorem State.modTenant_gaffer : (s.modTenant n f).gaffer = s.gaffer := rfl
@[simp] theorem State.modTenant_pathScore : (s.modTenant n f).pathScore = s.pathScore := rfl
@[simp] theorem State.modTenant_pathKept : (s.modTenant n f).pathKept = s.pathKept := rfl
@[simp] theorem State.modTenant_windows : (s.modTenant n f).windows = s.windows := rfl
@[simp] theorem State.modTenant_ring : (s.modTenant n f).ring = s.ring := rfl
@[simp] theorem State.modTenant_domainMode : (s.modTenant n f).domainMode = s.domainMode := rfl
@[simp] theorem State.modTenant_linksDown : (s.modTenant n f).linksDown = s.linksDown := rfl
@[simp] theorem State.modTenant_service : (s.modTenant n f).service = s.service := rfl
@[simp] theorem State.modTenant_portData : (s.modTenant n f).portData = s.portData := rfl
@[simp] theorem State.modTenant_portAddr : (s.modTenant n f).portAddr = s.portAddr := rfl
@[simp] theorem State.modTenant_portValue : (s.modTenant n f).portValue = s.portValue := rfl
@[simp] theorem State.modTenant_admissions : (s.modTenant n f).admissions = s.admissions := rfl
@[simp] theorem State.modTenant_beat : (s.modTenant n f).beat = s.beat := rfl
@[simp] theorem State.modTenant_ids : (s.modTenant n f).ids = s.ids := rfl
@[simp] theorem State.modTenant_lostAcks : (s.modTenant n f).lostAcks = s.lostAcks := rfl
@[simp] theorem State.modTenant_lostSends : (s.modTenant n f).lostSends = s.lostSends := rfl
@[simp] theorem State.modTenant_hostErrors : (s.modTenant n f).hostErrors = s.hostErrors := rfl
@[simp] theorem State.modTenant_inputs : (s.modTenant n f).inputs = s.inputs := rfl
@[simp] theorem State.modTenant_delays : (s.modTenant n f).delays = s.delays := rfl
@[simp] theorem State.modTenant_free : (s.modTenant n f).free = s.free := rfl

end

/-! ### fresh -/

section

variable (s : State)

@[simp] theorem State.fresh_now : (s.fresh).now = s.now := rfl
@[simp] theorem State.fresh_mem : (s.fresh).mem = s.mem := rfl
@[simp] theorem State.fresh_memTags : (s.fresh).memTags = s.memTags := rfl
@[simp] theorem State.fresh_memPoison : (s.fresh).memPoison = s.memPoison := rfl
@[simp] theorem State.fresh_accs : (s.fresh).accs = s.accs := rfl
@[simp] theorem State.fresh_accPoison : (s.fresh).accPoison = s.accPoison := rfl
@[simp] theorem State.fresh_threads : (s.fresh).threads = s.threads := rfl
@[simp] theorem State.fresh_groups : (s.fresh).groups = s.groups := rfl
@[simp] theorem State.fresh_launches : (s.fresh).launches = s.launches := rfl
@[simp] theorem State.fresh_graphs : (s.fresh).graphs = s.graphs := rfl
@[simp] theorem State.fresh_phases : (s.fresh).phases = s.phases := rfl
@[simp] theorem State.fresh_jobs : (s.fresh).jobs = s.jobs := rfl
@[simp] theorem State.fresh_cores : (s.fresh).cores = s.cores := rfl
@[simp] theorem State.fresh_clusters : (s.fresh).clusters = s.clusters := rfl
@[simp] theorem State.fresh_dies : (s.fresh).dies = s.dies := rfl
@[simp] theorem State.fresh_tenants : (s.fresh).tenants = s.tenants := rfl
@[simp] theorem State.fresh_csrs : (s.fresh).csrs = s.csrs := rfl
@[simp] theorem State.fresh_leases : (s.fresh).leases = s.leases := rfl
@[simp] theorem State.fresh_pins : (s.fresh).pins = s.pins := rfl
@[simp] theorem State.fresh_cached : (s.fresh).cached = s.cached := rfl
@[simp] theorem State.fresh_calendars : (s.fresh).calendars = s.calendars := rfl
@[simp] theorem State.fresh_applied : (s.fresh).applied = s.applied := rfl
@[simp] theorem State.fresh_rets : (s.fresh).rets = s.rets := rfl
@[simp] theorem State.fresh_upds : (s.fresh).upds = s.upds := rfl
@[simp] theorem State.fresh_xfers : (s.fresh).xfers = s.xfers := rfl
@[simp] theorem State.fresh_pageOps : (s.fresh).pageOps = s.pageOps := rfl
@[simp] theorem State.fresh_hwbars : (s.fresh).hwbars = s.hwbars := rfl
@[simp] theorem State.fresh_audits : (s.fresh).audits = s.audits := rfl
@[simp] theorem State.fresh_gaffer : (s.fresh).gaffer = s.gaffer := rfl
@[simp] theorem State.fresh_pathScore : (s.fresh).pathScore = s.pathScore := rfl
@[simp] theorem State.fresh_pathKept : (s.fresh).pathKept = s.pathKept := rfl
@[simp] theorem State.fresh_windows : (s.fresh).windows = s.windows := rfl
@[simp] theorem State.fresh_ring : (s.fresh).ring = s.ring := rfl
@[simp] theorem State.fresh_domainMode : (s.fresh).domainMode = s.domainMode := rfl
@[simp] theorem State.fresh_linksDown : (s.fresh).linksDown = s.linksDown := rfl
@[simp] theorem State.fresh_service : (s.fresh).service = s.service := rfl
@[simp] theorem State.fresh_portData : (s.fresh).portData = s.portData := rfl
@[simp] theorem State.fresh_portAddr : (s.fresh).portAddr = s.portAddr := rfl
@[simp] theorem State.fresh_portValue : (s.fresh).portValue = s.portValue := rfl
@[simp] theorem State.fresh_admissions : (s.fresh).admissions = s.admissions := rfl
@[simp] theorem State.fresh_beat : (s.fresh).beat = s.beat := rfl
@[simp] theorem State.fresh_ids : (s.fresh).ids = s.ids + 1 := rfl
@[simp] theorem State.fresh_lostAcks : (s.fresh).lostAcks = s.lostAcks := rfl
@[simp] theorem State.fresh_lostSends : (s.fresh).lostSends = s.lostSends := rfl
@[simp] theorem State.fresh_hostErrors : (s.fresh).hostErrors = s.hostErrors := rfl
@[simp] theorem State.fresh_inputs : (s.fresh).inputs = s.inputs := rfl
@[simp] theorem State.fresh_delays : (s.fresh).delays = s.delays := rfl
@[simp] theorem State.fresh_free : (s.fresh).free = s.free := rfl

end

/-! ### drawn -/

section

variable (s : State)

@[simp] theorem State.drawn_now : (s.drawn).now = s.now := rfl
@[simp] theorem State.drawn_mem : (s.drawn).mem = s.mem := rfl
@[simp] theorem State.drawn_memTags : (s.drawn).memTags = s.memTags := rfl
@[simp] theorem State.drawn_memPoison : (s.drawn).memPoison = s.memPoison := rfl
@[simp] theorem State.drawn_accs : (s.drawn).accs = s.accs := rfl
@[simp] theorem State.drawn_accPoison : (s.drawn).accPoison = s.accPoison := rfl
@[simp] theorem State.drawn_threads : (s.drawn).threads = s.threads := rfl
@[simp] theorem State.drawn_groups : (s.drawn).groups = s.groups := rfl
@[simp] theorem State.drawn_launches : (s.drawn).launches = s.launches := rfl
@[simp] theorem State.drawn_graphs : (s.drawn).graphs = s.graphs := rfl
@[simp] theorem State.drawn_phases : (s.drawn).phases = s.phases := rfl
@[simp] theorem State.drawn_jobs : (s.drawn).jobs = s.jobs := rfl
@[simp] theorem State.drawn_cores : (s.drawn).cores = s.cores := rfl
@[simp] theorem State.drawn_clusters : (s.drawn).clusters = s.clusters := rfl
@[simp] theorem State.drawn_dies : (s.drawn).dies = s.dies := rfl
@[simp] theorem State.drawn_tenants : (s.drawn).tenants = s.tenants := rfl
@[simp] theorem State.drawn_csrs : (s.drawn).csrs = s.csrs := rfl
@[simp] theorem State.drawn_leases : (s.drawn).leases = s.leases := rfl
@[simp] theorem State.drawn_pins : (s.drawn).pins = s.pins := rfl
@[simp] theorem State.drawn_cached : (s.drawn).cached = s.cached := rfl
@[simp] theorem State.drawn_calendars : (s.drawn).calendars = s.calendars := rfl
@[simp] theorem State.drawn_applied : (s.drawn).applied = s.applied := rfl
@[simp] theorem State.drawn_rets : (s.drawn).rets = s.rets := rfl
@[simp] theorem State.drawn_upds : (s.drawn).upds = s.upds := rfl
@[simp] theorem State.drawn_xfers : (s.drawn).xfers = s.xfers := rfl
@[simp] theorem State.drawn_pageOps : (s.drawn).pageOps = s.pageOps := rfl
@[simp] theorem State.drawn_hwbars : (s.drawn).hwbars = s.hwbars := rfl
@[simp] theorem State.drawn_audits : (s.drawn).audits = s.audits := rfl
@[simp] theorem State.drawn_gaffer : (s.drawn).gaffer = s.gaffer := rfl
@[simp] theorem State.drawn_pathScore : (s.drawn).pathScore = s.pathScore := rfl
@[simp] theorem State.drawn_pathKept : (s.drawn).pathKept = s.pathKept := rfl
@[simp] theorem State.drawn_windows : (s.drawn).windows = s.windows := rfl
@[simp] theorem State.drawn_ring : (s.drawn).ring = s.ring := rfl
@[simp] theorem State.drawn_domainMode : (s.drawn).domainMode = s.domainMode := rfl
@[simp] theorem State.drawn_linksDown : (s.drawn).linksDown = s.linksDown := rfl
@[simp] theorem State.drawn_service : (s.drawn).service = s.service := rfl
@[simp] theorem State.drawn_portData : (s.drawn).portData = s.portData := rfl
@[simp] theorem State.drawn_portAddr : (s.drawn).portAddr = s.portAddr := rfl
@[simp] theorem State.drawn_portValue : (s.drawn).portValue = s.portValue := rfl
@[simp] theorem State.drawn_admissions : (s.drawn).admissions = s.admissions := rfl
@[simp] theorem State.drawn_beat : (s.drawn).beat = s.beat := rfl
@[simp] theorem State.drawn_ids : (s.drawn).ids = s.ids := rfl
@[simp] theorem State.drawn_lostAcks : (s.drawn).lostAcks = s.lostAcks := rfl
@[simp] theorem State.drawn_lostSends : (s.drawn).lostSends = s.lostSends := rfl
@[simp] theorem State.drawn_hostErrors : (s.drawn).hostErrors = s.hostErrors := rfl
@[simp] theorem State.drawn_inputs : (s.drawn).inputs = s.inputs := rfl
@[simp] theorem State.drawn_delays : (s.drawn).delays = s.delays := rfl
@[simp] theorem State.drawn_free : (s.drawn).free = s.free + 1 := rfl

end

/-! ### modRet -/

section

variable (s : State) (i : Nat) (f : Ret → Ret)

@[simp] theorem State.modRet_now : (s.modRet i f).now = s.now := rfl
@[simp] theorem State.modRet_mem : (s.modRet i f).mem = s.mem := rfl
@[simp] theorem State.modRet_memTags : (s.modRet i f).memTags = s.memTags := rfl
@[simp] theorem State.modRet_memPoison : (s.modRet i f).memPoison = s.memPoison := rfl
@[simp] theorem State.modRet_accs : (s.modRet i f).accs = s.accs := rfl
@[simp] theorem State.modRet_accPoison : (s.modRet i f).accPoison = s.accPoison := rfl
@[simp] theorem State.modRet_threads : (s.modRet i f).threads = s.threads := rfl
@[simp] theorem State.modRet_groups : (s.modRet i f).groups = s.groups := rfl
@[simp] theorem State.modRet_launches : (s.modRet i f).launches = s.launches := rfl
@[simp] theorem State.modRet_graphs : (s.modRet i f).graphs = s.graphs := rfl
@[simp] theorem State.modRet_phases : (s.modRet i f).phases = s.phases := rfl
@[simp] theorem State.modRet_jobs : (s.modRet i f).jobs = s.jobs := rfl
@[simp] theorem State.modRet_cores : (s.modRet i f).cores = s.cores := rfl
@[simp] theorem State.modRet_clusters : (s.modRet i f).clusters = s.clusters := rfl
@[simp] theorem State.modRet_dies : (s.modRet i f).dies = s.dies := rfl
@[simp] theorem State.modRet_tenants : (s.modRet i f).tenants = s.tenants := rfl
@[simp] theorem State.modRet_csrs : (s.modRet i f).csrs = s.csrs := rfl
@[simp] theorem State.modRet_leases : (s.modRet i f).leases = s.leases := rfl
@[simp] theorem State.modRet_pins : (s.modRet i f).pins = s.pins := rfl
@[simp] theorem State.modRet_cached : (s.modRet i f).cached = s.cached := rfl
@[simp] theorem State.modRet_calendars : (s.modRet i f).calendars = s.calendars := rfl
@[simp] theorem State.modRet_applied : (s.modRet i f).applied = s.applied := rfl
@[simp] theorem State.modRet_rets : (s.modRet i f).rets = nmod s.rets i f := rfl
@[simp] theorem State.modRet_upds : (s.modRet i f).upds = s.upds := rfl
@[simp] theorem State.modRet_xfers : (s.modRet i f).xfers = s.xfers := rfl
@[simp] theorem State.modRet_pageOps : (s.modRet i f).pageOps = s.pageOps := rfl
@[simp] theorem State.modRet_hwbars : (s.modRet i f).hwbars = s.hwbars := rfl
@[simp] theorem State.modRet_audits : (s.modRet i f).audits = s.audits := rfl
@[simp] theorem State.modRet_gaffer : (s.modRet i f).gaffer = s.gaffer := rfl
@[simp] theorem State.modRet_pathScore : (s.modRet i f).pathScore = s.pathScore := rfl
@[simp] theorem State.modRet_pathKept : (s.modRet i f).pathKept = s.pathKept := rfl
@[simp] theorem State.modRet_windows : (s.modRet i f).windows = s.windows := rfl
@[simp] theorem State.modRet_ring : (s.modRet i f).ring = s.ring := rfl
@[simp] theorem State.modRet_domainMode : (s.modRet i f).domainMode = s.domainMode := rfl
@[simp] theorem State.modRet_linksDown : (s.modRet i f).linksDown = s.linksDown := rfl
@[simp] theorem State.modRet_service : (s.modRet i f).service = s.service := rfl
@[simp] theorem State.modRet_portData : (s.modRet i f).portData = s.portData := rfl
@[simp] theorem State.modRet_portAddr : (s.modRet i f).portAddr = s.portAddr := rfl
@[simp] theorem State.modRet_portValue : (s.modRet i f).portValue = s.portValue := rfl
@[simp] theorem State.modRet_admissions : (s.modRet i f).admissions = s.admissions := rfl
@[simp] theorem State.modRet_beat : (s.modRet i f).beat = s.beat := rfl
@[simp] theorem State.modRet_ids : (s.modRet i f).ids = s.ids := rfl
@[simp] theorem State.modRet_lostAcks : (s.modRet i f).lostAcks = s.lostAcks := rfl
@[simp] theorem State.modRet_lostSends : (s.modRet i f).lostSends = s.lostSends := rfl
@[simp] theorem State.modRet_hostErrors : (s.modRet i f).hostErrors = s.hostErrors := rfl
@[simp] theorem State.modRet_inputs : (s.modRet i f).inputs = s.inputs := rfl
@[simp] theorem State.modRet_delays : (s.modRet i f).delays = s.delays := rfl
@[simp] theorem State.modRet_free : (s.modRet i f).free = s.free := rfl

end

/-! ### modUpd -/

section

variable (s : State) (i : Nat) (f : Upd → Upd)

@[simp] theorem State.modUpd_now : (s.modUpd i f).now = s.now := rfl
@[simp] theorem State.modUpd_mem : (s.modUpd i f).mem = s.mem := rfl
@[simp] theorem State.modUpd_memTags : (s.modUpd i f).memTags = s.memTags := rfl
@[simp] theorem State.modUpd_memPoison : (s.modUpd i f).memPoison = s.memPoison := rfl
@[simp] theorem State.modUpd_accs : (s.modUpd i f).accs = s.accs := rfl
@[simp] theorem State.modUpd_accPoison : (s.modUpd i f).accPoison = s.accPoison := rfl
@[simp] theorem State.modUpd_threads : (s.modUpd i f).threads = s.threads := rfl
@[simp] theorem State.modUpd_groups : (s.modUpd i f).groups = s.groups := rfl
@[simp] theorem State.modUpd_launches : (s.modUpd i f).launches = s.launches := rfl
@[simp] theorem State.modUpd_graphs : (s.modUpd i f).graphs = s.graphs := rfl
@[simp] theorem State.modUpd_phases : (s.modUpd i f).phases = s.phases := rfl
@[simp] theorem State.modUpd_jobs : (s.modUpd i f).jobs = s.jobs := rfl
@[simp] theorem State.modUpd_cores : (s.modUpd i f).cores = s.cores := rfl
@[simp] theorem State.modUpd_clusters : (s.modUpd i f).clusters = s.clusters := rfl
@[simp] theorem State.modUpd_dies : (s.modUpd i f).dies = s.dies := rfl
@[simp] theorem State.modUpd_tenants : (s.modUpd i f).tenants = s.tenants := rfl
@[simp] theorem State.modUpd_csrs : (s.modUpd i f).csrs = s.csrs := rfl
@[simp] theorem State.modUpd_leases : (s.modUpd i f).leases = s.leases := rfl
@[simp] theorem State.modUpd_pins : (s.modUpd i f).pins = s.pins := rfl
@[simp] theorem State.modUpd_cached : (s.modUpd i f).cached = s.cached := rfl
@[simp] theorem State.modUpd_calendars : (s.modUpd i f).calendars = s.calendars := rfl
@[simp] theorem State.modUpd_applied : (s.modUpd i f).applied = s.applied := rfl
@[simp] theorem State.modUpd_rets : (s.modUpd i f).rets = s.rets := rfl
@[simp] theorem State.modUpd_upds : (s.modUpd i f).upds = nmod s.upds i f := rfl
@[simp] theorem State.modUpd_xfers : (s.modUpd i f).xfers = s.xfers := rfl
@[simp] theorem State.modUpd_pageOps : (s.modUpd i f).pageOps = s.pageOps := rfl
@[simp] theorem State.modUpd_hwbars : (s.modUpd i f).hwbars = s.hwbars := rfl
@[simp] theorem State.modUpd_audits : (s.modUpd i f).audits = s.audits := rfl
@[simp] theorem State.modUpd_gaffer : (s.modUpd i f).gaffer = s.gaffer := rfl
@[simp] theorem State.modUpd_pathScore : (s.modUpd i f).pathScore = s.pathScore := rfl
@[simp] theorem State.modUpd_pathKept : (s.modUpd i f).pathKept = s.pathKept := rfl
@[simp] theorem State.modUpd_windows : (s.modUpd i f).windows = s.windows := rfl
@[simp] theorem State.modUpd_ring : (s.modUpd i f).ring = s.ring := rfl
@[simp] theorem State.modUpd_domainMode : (s.modUpd i f).domainMode = s.domainMode := rfl
@[simp] theorem State.modUpd_linksDown : (s.modUpd i f).linksDown = s.linksDown := rfl
@[simp] theorem State.modUpd_service : (s.modUpd i f).service = s.service := rfl
@[simp] theorem State.modUpd_portData : (s.modUpd i f).portData = s.portData := rfl
@[simp] theorem State.modUpd_portAddr : (s.modUpd i f).portAddr = s.portAddr := rfl
@[simp] theorem State.modUpd_portValue : (s.modUpd i f).portValue = s.portValue := rfl
@[simp] theorem State.modUpd_admissions : (s.modUpd i f).admissions = s.admissions := rfl
@[simp] theorem State.modUpd_beat : (s.modUpd i f).beat = s.beat := rfl
@[simp] theorem State.modUpd_ids : (s.modUpd i f).ids = s.ids := rfl
@[simp] theorem State.modUpd_lostAcks : (s.modUpd i f).lostAcks = s.lostAcks := rfl
@[simp] theorem State.modUpd_lostSends : (s.modUpd i f).lostSends = s.lostSends := rfl
@[simp] theorem State.modUpd_hostErrors : (s.modUpd i f).hostErrors = s.hostErrors := rfl
@[simp] theorem State.modUpd_inputs : (s.modUpd i f).inputs = s.inputs := rfl
@[simp] theorem State.modUpd_delays : (s.modUpd i f).delays = s.delays := rfl
@[simp] theorem State.modUpd_free : (s.modUpd i f).free = s.free := rfl

end

/-! ### modXfer -/

section

variable (s : State) (i : Nat) (f : Xfer → Xfer)

@[simp] theorem State.modXfer_now : (s.modXfer i f).now = s.now := rfl
@[simp] theorem State.modXfer_mem : (s.modXfer i f).mem = s.mem := rfl
@[simp] theorem State.modXfer_memTags : (s.modXfer i f).memTags = s.memTags := rfl
@[simp] theorem State.modXfer_memPoison : (s.modXfer i f).memPoison = s.memPoison := rfl
@[simp] theorem State.modXfer_accs : (s.modXfer i f).accs = s.accs := rfl
@[simp] theorem State.modXfer_accPoison : (s.modXfer i f).accPoison = s.accPoison := rfl
@[simp] theorem State.modXfer_threads : (s.modXfer i f).threads = s.threads := rfl
@[simp] theorem State.modXfer_groups : (s.modXfer i f).groups = s.groups := rfl
@[simp] theorem State.modXfer_launches : (s.modXfer i f).launches = s.launches := rfl
@[simp] theorem State.modXfer_graphs : (s.modXfer i f).graphs = s.graphs := rfl
@[simp] theorem State.modXfer_phases : (s.modXfer i f).phases = s.phases := rfl
@[simp] theorem State.modXfer_jobs : (s.modXfer i f).jobs = s.jobs := rfl
@[simp] theorem State.modXfer_cores : (s.modXfer i f).cores = s.cores := rfl
@[simp] theorem State.modXfer_clusters : (s.modXfer i f).clusters = s.clusters := rfl
@[simp] theorem State.modXfer_dies : (s.modXfer i f).dies = s.dies := rfl
@[simp] theorem State.modXfer_tenants : (s.modXfer i f).tenants = s.tenants := rfl
@[simp] theorem State.modXfer_csrs : (s.modXfer i f).csrs = s.csrs := rfl
@[simp] theorem State.modXfer_leases : (s.modXfer i f).leases = s.leases := rfl
@[simp] theorem State.modXfer_pins : (s.modXfer i f).pins = s.pins := rfl
@[simp] theorem State.modXfer_cached : (s.modXfer i f).cached = s.cached := rfl
@[simp] theorem State.modXfer_calendars : (s.modXfer i f).calendars = s.calendars := rfl
@[simp] theorem State.modXfer_applied : (s.modXfer i f).applied = s.applied := rfl
@[simp] theorem State.modXfer_rets : (s.modXfer i f).rets = s.rets := rfl
@[simp] theorem State.modXfer_upds : (s.modXfer i f).upds = s.upds := rfl
@[simp] theorem State.modXfer_xfers : (s.modXfer i f).xfers = nmod s.xfers i f := rfl
@[simp] theorem State.modXfer_pageOps : (s.modXfer i f).pageOps = s.pageOps := rfl
@[simp] theorem State.modXfer_hwbars : (s.modXfer i f).hwbars = s.hwbars := rfl
@[simp] theorem State.modXfer_audits : (s.modXfer i f).audits = s.audits := rfl
@[simp] theorem State.modXfer_gaffer : (s.modXfer i f).gaffer = s.gaffer := rfl
@[simp] theorem State.modXfer_pathScore : (s.modXfer i f).pathScore = s.pathScore := rfl
@[simp] theorem State.modXfer_pathKept : (s.modXfer i f).pathKept = s.pathKept := rfl
@[simp] theorem State.modXfer_windows : (s.modXfer i f).windows = s.windows := rfl
@[simp] theorem State.modXfer_ring : (s.modXfer i f).ring = s.ring := rfl
@[simp] theorem State.modXfer_domainMode : (s.modXfer i f).domainMode = s.domainMode := rfl
@[simp] theorem State.modXfer_linksDown : (s.modXfer i f).linksDown = s.linksDown := rfl
@[simp] theorem State.modXfer_service : (s.modXfer i f).service = s.service := rfl
@[simp] theorem State.modXfer_portData : (s.modXfer i f).portData = s.portData := rfl
@[simp] theorem State.modXfer_portAddr : (s.modXfer i f).portAddr = s.portAddr := rfl
@[simp] theorem State.modXfer_portValue : (s.modXfer i f).portValue = s.portValue := rfl
@[simp] theorem State.modXfer_admissions : (s.modXfer i f).admissions = s.admissions := rfl
@[simp] theorem State.modXfer_beat : (s.modXfer i f).beat = s.beat := rfl
@[simp] theorem State.modXfer_ids : (s.modXfer i f).ids = s.ids := rfl
@[simp] theorem State.modXfer_lostAcks : (s.modXfer i f).lostAcks = s.lostAcks := rfl
@[simp] theorem State.modXfer_lostSends : (s.modXfer i f).lostSends = s.lostSends := rfl
@[simp] theorem State.modXfer_hostErrors : (s.modXfer i f).hostErrors = s.hostErrors := rfl
@[simp] theorem State.modXfer_inputs : (s.modXfer i f).inputs = s.inputs := rfl
@[simp] theorem State.modXfer_delays : (s.modXfer i f).delays = s.delays := rfl
@[simp] theorem State.modXfer_free : (s.modXfer i f).free = s.free := rfl

end

/-! ### withBeat -/

section

variable (s : State) (c : Nat) (ks : List Nat) (n : Nat) (p : NMap (Word × Option Nat))

@[simp] theorem State.withBeat_now : (s.withBeat c ks n p).now = s.now := rfl
@[simp] theorem State.withBeat_mem : (s.withBeat c ks n p).mem = s.mem := rfl
@[simp] theorem State.withBeat_memTags : (s.withBeat c ks n p).memTags = s.memTags := rfl
@[simp] theorem State.withBeat_memPoison : (s.withBeat c ks n p).memPoison = s.memPoison := rfl
@[simp] theorem State.withBeat_accs : (s.withBeat c ks n p).accs = s.accs := rfl
@[simp] theorem State.withBeat_accPoison : (s.withBeat c ks n p).accPoison = s.accPoison := rfl
@[simp] theorem State.withBeat_threads : (s.withBeat c ks n p).threads = s.threads := rfl
@[simp] theorem State.withBeat_groups : (s.withBeat c ks n p).groups = s.groups := rfl
@[simp] theorem State.withBeat_launches : (s.withBeat c ks n p).launches = s.launches := rfl
@[simp] theorem State.withBeat_graphs : (s.withBeat c ks n p).graphs = s.graphs := rfl
@[simp] theorem State.withBeat_phases : (s.withBeat c ks n p).phases = s.phases := rfl
@[simp] theorem State.withBeat_jobs : (s.withBeat c ks n p).jobs = s.jobs := rfl
@[simp] theorem State.withBeat_cores : (s.withBeat c ks n p).cores = s.cores := rfl
@[simp] theorem State.withBeat_clusters : (s.withBeat c ks n p).clusters = s.clusters := rfl
@[simp] theorem State.withBeat_dies : (s.withBeat c ks n p).dies = s.dies := rfl
@[simp] theorem State.withBeat_tenants : (s.withBeat c ks n p).tenants = s.tenants := rfl
@[simp] theorem State.withBeat_csrs : (s.withBeat c ks n p).csrs = s.csrs := rfl
@[simp] theorem State.withBeat_leases : (s.withBeat c ks n p).leases = s.leases := rfl
@[simp] theorem State.withBeat_pins : (s.withBeat c ks n p).pins = s.pins := rfl
@[simp] theorem State.withBeat_cached : (s.withBeat c ks n p).cached = s.cached := rfl
@[simp] theorem State.withBeat_calendars : (s.withBeat c ks n p).calendars = s.calendars := rfl
@[simp] theorem State.withBeat_applied : (s.withBeat c ks n p).applied = s.applied := rfl
@[simp] theorem State.withBeat_rets : (s.withBeat c ks n p).rets = s.rets := rfl
@[simp] theorem State.withBeat_upds : (s.withBeat c ks n p).upds = s.upds := rfl
@[simp] theorem State.withBeat_xfers : (s.withBeat c ks n p).xfers = s.xfers := rfl
@[simp] theorem State.withBeat_pageOps : (s.withBeat c ks n p).pageOps = s.pageOps := rfl
@[simp] theorem State.withBeat_hwbars : (s.withBeat c ks n p).hwbars = s.hwbars := rfl
@[simp] theorem State.withBeat_audits : (s.withBeat c ks n p).audits = s.audits := rfl
@[simp] theorem State.withBeat_gaffer : (s.withBeat c ks n p).gaffer = s.gaffer := rfl
@[simp] theorem State.withBeat_pathScore : (s.withBeat c ks n p).pathScore = s.pathScore := rfl
@[simp] theorem State.withBeat_pathKept : (s.withBeat c ks n p).pathKept = s.pathKept := rfl
@[simp] theorem State.withBeat_windows : (s.withBeat c ks n p).windows = s.windows := rfl
@[simp] theorem State.withBeat_ring : (s.withBeat c ks n p).ring = s.ring := rfl
@[simp] theorem State.withBeat_domainMode : (s.withBeat c ks n p).domainMode = s.domainMode := rfl
@[simp] theorem State.withBeat_linksDown : (s.withBeat c ks n p).linksDown = s.linksDown := rfl
@[simp] theorem State.withBeat_service : (s.withBeat c ks n p).service = s.service := rfl
@[simp] theorem State.withBeat_portData : (s.withBeat c ks n p).portData = s.portData := rfl
@[simp] theorem State.withBeat_portAddr : (s.withBeat c ks n p).portAddr = s.portAddr := rfl
@[simp] theorem State.withBeat_portValue : (s.withBeat c ks n p).portValue = s.portValue := rfl
@[simp] theorem State.withBeat_admissions : (s.withBeat c ks n p).admissions = s.admissions := rfl
@[simp] theorem State.withBeat_beat : (s.withBeat c ks n p).beat = { core := c, threads := ks, adv := n, pre := p } := rfl
@[simp] theorem State.withBeat_ids : (s.withBeat c ks n p).ids = s.ids := rfl
@[simp] theorem State.withBeat_lostAcks : (s.withBeat c ks n p).lostAcks = s.lostAcks := rfl
@[simp] theorem State.withBeat_lostSends : (s.withBeat c ks n p).lostSends = s.lostSends := rfl
@[simp] theorem State.withBeat_hostErrors : (s.withBeat c ks n p).hostErrors = s.hostErrors := rfl
@[simp] theorem State.withBeat_inputs : (s.withBeat c ks n p).inputs = s.inputs := rfl
@[simp] theorem State.withBeat_delays : (s.withBeat c ks n p).delays = s.delays := rfl
@[simp] theorem State.withBeat_free : (s.withBeat c ks n p).free = s.free := rfl

end

/-! ### wrBytes -/

section

variable (s : State) (a : Nat) (bs : List Byte)

@[simp] theorem wrBytes_now : (wrBytes s a bs).now = s.now := rfl
@[simp] theorem wrBytes_accs : (wrBytes s a bs).accs = s.accs := rfl
@[simp] theorem wrBytes_accPoison : (wrBytes s a bs).accPoison = s.accPoison := rfl
@[simp] theorem wrBytes_threads : (wrBytes s a bs).threads = s.threads := rfl
@[simp] theorem wrBytes_groups : (wrBytes s a bs).groups = s.groups := rfl
@[simp] theorem wrBytes_launches : (wrBytes s a bs).launches = s.launches := rfl
@[simp] theorem wrBytes_graphs : (wrBytes s a bs).graphs = s.graphs := rfl
@[simp] theorem wrBytes_phases : (wrBytes s a bs).phases = s.phases := rfl
@[simp] theorem wrBytes_jobs : (wrBytes s a bs).jobs = s.jobs := rfl
@[simp] theorem wrBytes_cores : (wrBytes s a bs).cores = s.cores := rfl
@[simp] theorem wrBytes_clusters : (wrBytes s a bs).clusters = s.clusters := rfl
@[simp] theorem wrBytes_dies : (wrBytes s a bs).dies = s.dies := rfl
@[simp] theorem wrBytes_tenants : (wrBytes s a bs).tenants = s.tenants := rfl
@[simp] theorem wrBytes_csrs : (wrBytes s a bs).csrs = s.csrs := rfl
@[simp] theorem wrBytes_leases : (wrBytes s a bs).leases = s.leases := rfl
@[simp] theorem wrBytes_pins : (wrBytes s a bs).pins = s.pins := rfl
@[simp] theorem wrBytes_cached : (wrBytes s a bs).cached = s.cached := rfl
@[simp] theorem wrBytes_calendars : (wrBytes s a bs).calendars = s.calendars := rfl
@[simp] theorem wrBytes_applied : (wrBytes s a bs).applied = s.applied := rfl
@[simp] theorem wrBytes_rets : (wrBytes s a bs).rets = s.rets := rfl
@[simp] theorem wrBytes_upds : (wrBytes s a bs).upds = s.upds := rfl
@[simp] theorem wrBytes_xfers : (wrBytes s a bs).xfers = s.xfers := rfl
@[simp] theorem wrBytes_pageOps : (wrBytes s a bs).pageOps = s.pageOps := rfl
@[simp] theorem wrBytes_hwbars : (wrBytes s a bs).hwbars = s.hwbars := rfl
@[simp] theorem wrBytes_audits : (wrBytes s a bs).audits = s.audits := rfl
@[simp] theorem wrBytes_gaffer : (wrBytes s a bs).gaffer = s.gaffer := rfl
@[simp] theorem wrBytes_pathScore : (wrBytes s a bs).pathScore = s.pathScore := rfl
@[simp] theorem wrBytes_pathKept : (wrBytes s a bs).pathKept = s.pathKept := rfl
@[simp] theorem wrBytes_windows : (wrBytes s a bs).windows = s.windows := rfl
@[simp] theorem wrBytes_ring : (wrBytes s a bs).ring = s.ring := rfl
@[simp] theorem wrBytes_domainMode : (wrBytes s a bs).domainMode = s.domainMode := rfl
@[simp] theorem wrBytes_linksDown : (wrBytes s a bs).linksDown = s.linksDown := rfl
@[simp] theorem wrBytes_service : (wrBytes s a bs).service = s.service := rfl
@[simp] theorem wrBytes_portData : (wrBytes s a bs).portData = s.portData := rfl
@[simp] theorem wrBytes_portAddr : (wrBytes s a bs).portAddr = s.portAddr := rfl
@[simp] theorem wrBytes_portValue : (wrBytes s a bs).portValue = s.portValue := rfl
@[simp] theorem wrBytes_admissions : (wrBytes s a bs).admissions = s.admissions := rfl
@[simp] theorem wrBytes_beat : (wrBytes s a bs).beat = s.beat := rfl
@[simp] theorem wrBytes_ids : (wrBytes s a bs).ids = s.ids := rfl
@[simp] theorem wrBytes_lostAcks : (wrBytes s a bs).lostAcks = s.lostAcks := rfl
@[simp] theorem wrBytes_lostSends : (wrBytes s a bs).lostSends = s.lostSends := rfl
@[simp] theorem wrBytes_hostErrors : (wrBytes s a bs).hostErrors = s.hostErrors := rfl
@[simp] theorem wrBytes_inputs : (wrBytes s a bs).inputs = s.inputs := rfl
@[simp] theorem wrBytes_delays : (wrBytes s a bs).delays = s.delays := rfl
@[simp] theorem wrBytes_free : (wrBytes s a bs).free = s.free := rfl

end

/-! ### clearMem -/

section

variable (s : State) (a n : Nat)

@[simp] theorem clearMem_now : (clearMem s a n).now = s.now := rfl
@[simp] theorem clearMem_accs : (clearMem s a n).accs = s.accs := rfl
@[simp] theorem clearMem_accPoison : (clearMem s a n).accPoison = s.accPoison := rfl
@[simp] theorem clearMem_threads : (clearMem s a n).threads = s.threads := rfl
@[simp] theorem clearMem_groups : (clearMem s a n).groups = s.groups := rfl
@[simp] theorem clearMem_launches : (clearMem s a n).launches = s.launches := rfl
@[simp] theorem clearMem_graphs : (clearMem s a n).graphs = s.graphs := rfl
@[simp] theorem clearMem_phases : (clearMem s a n).phases = s.phases := rfl
@[simp] theorem clearMem_jobs : (clearMem s a n).jobs = s.jobs := rfl
@[simp] theorem clearMem_cores : (clearMem s a n).cores = s.cores := rfl
@[simp] theorem clearMem_clusters : (clearMem s a n).clusters = s.clusters := rfl
@[simp] theorem clearMem_dies : (clearMem s a n).dies = s.dies := rfl
@[simp] theorem clearMem_tenants : (clearMem s a n).tenants = s.tenants := rfl
@[simp] theorem clearMem_csrs : (clearMem s a n).csrs = s.csrs := rfl
@[simp] theorem clearMem_leases : (clearMem s a n).leases = s.leases := rfl
@[simp] theorem clearMem_pins : (clearMem s a n).pins = s.pins := rfl
@[simp] theorem clearMem_cached : (clearMem s a n).cached = s.cached := rfl
@[simp] theorem clearMem_calendars : (clearMem s a n).calendars = s.calendars := rfl
@[simp] theorem clearMem_applied : (clearMem s a n).applied = s.applied := rfl
@[simp] theorem clearMem_rets : (clearMem s a n).rets = s.rets := rfl
@[simp] theorem clearMem_upds : (clearMem s a n).upds = s.upds := rfl
@[simp] theorem clearMem_xfers : (clearMem s a n).xfers = s.xfers := rfl
@[simp] theorem clearMem_pageOps : (clearMem s a n).pageOps = s.pageOps := rfl
@[simp] theorem clearMem_hwbars : (clearMem s a n).hwbars = s.hwbars := rfl
@[simp] theorem clearMem_audits : (clearMem s a n).audits = s.audits := rfl
@[simp] theorem clearMem_gaffer : (clearMem s a n).gaffer = s.gaffer := rfl
@[simp] theorem clearMem_pathScore : (clearMem s a n).pathScore = s.pathScore := rfl
@[simp] theorem clearMem_pathKept : (clearMem s a n).pathKept = s.pathKept := rfl
@[simp] theorem clearMem_windows : (clearMem s a n).windows = s.windows := rfl
@[simp] theorem clearMem_ring : (clearMem s a n).ring = s.ring := rfl
@[simp] theorem clearMem_domainMode : (clearMem s a n).domainMode = s.domainMode := rfl
@[simp] theorem clearMem_linksDown : (clearMem s a n).linksDown = s.linksDown := rfl
@[simp] theorem clearMem_service : (clearMem s a n).service = s.service := rfl
@[simp] theorem clearMem_portData : (clearMem s a n).portData = s.portData := rfl
@[simp] theorem clearMem_portAddr : (clearMem s a n).portAddr = s.portAddr := rfl
@[simp] theorem clearMem_portValue : (clearMem s a n).portValue = s.portValue := rfl
@[simp] theorem clearMem_admissions : (clearMem s a n).admissions = s.admissions := rfl
@[simp] theorem clearMem_beat : (clearMem s a n).beat = s.beat := rfl
@[simp] theorem clearMem_ids : (clearMem s a n).ids = s.ids := rfl
@[simp] theorem clearMem_lostAcks : (clearMem s a n).lostAcks = s.lostAcks := rfl
@[simp] theorem clearMem_lostSends : (clearMem s a n).lostSends = s.lostSends := rfl
@[simp] theorem clearMem_hostErrors : (clearMem s a n).hostErrors = s.hostErrors := rfl
@[simp] theorem clearMem_inputs : (clearMem s a n).inputs = s.inputs := rfl
@[simp] theorem clearMem_delays : (clearMem s a n).delays = s.delays := rfl
@[simp] theorem clearMem_free : (clearMem s a n).free = s.free := rfl

end

/-! ### poisonMem -/

section

variable (s : State) (a n : Nat)

@[simp] theorem poisonMem_now : (poisonMem s a n).now = s.now := rfl
@[simp] theorem poisonMem_mem : (poisonMem s a n).mem = s.mem := rfl
@[simp] theorem poisonMem_memTags : (poisonMem s a n).memTags = s.memTags := rfl
@[simp] theorem poisonMem_accs : (poisonMem s a n).accs = s.accs := rfl
@[simp] theorem poisonMem_accPoison : (poisonMem s a n).accPoison = s.accPoison := rfl
@[simp] theorem poisonMem_threads : (poisonMem s a n).threads = s.threads := rfl
@[simp] theorem poisonMem_groups : (poisonMem s a n).groups = s.groups := rfl
@[simp] theorem poisonMem_launches : (poisonMem s a n).launches = s.launches := rfl
@[simp] theorem poisonMem_graphs : (poisonMem s a n).graphs = s.graphs := rfl
@[simp] theorem poisonMem_phases : (poisonMem s a n).phases = s.phases := rfl
@[simp] theorem poisonMem_jobs : (poisonMem s a n).jobs = s.jobs := rfl
@[simp] theorem poisonMem_cores : (poisonMem s a n).cores = s.cores := rfl
@[simp] theorem poisonMem_clusters : (poisonMem s a n).clusters = s.clusters := rfl
@[simp] theorem poisonMem_dies : (poisonMem s a n).dies = s.dies := rfl
@[simp] theorem poisonMem_tenants : (poisonMem s a n).tenants = s.tenants := rfl
@[simp] theorem poisonMem_csrs : (poisonMem s a n).csrs = s.csrs := rfl
@[simp] theorem poisonMem_leases : (poisonMem s a n).leases = s.leases := rfl
@[simp] theorem poisonMem_pins : (poisonMem s a n).pins = s.pins := rfl
@[simp] theorem poisonMem_cached : (poisonMem s a n).cached = s.cached := rfl
@[simp] theorem poisonMem_calendars : (poisonMem s a n).calendars = s.calendars := rfl
@[simp] theorem poisonMem_applied : (poisonMem s a n).applied = s.applied := rfl
@[simp] theorem poisonMem_rets : (poisonMem s a n).rets = s.rets := rfl
@[simp] theorem poisonMem_upds : (poisonMem s a n).upds = s.upds := rfl
@[simp] theorem poisonMem_xfers : (poisonMem s a n).xfers = s.xfers := rfl
@[simp] theorem poisonMem_pageOps : (poisonMem s a n).pageOps = s.pageOps := rfl
@[simp] theorem poisonMem_hwbars : (poisonMem s a n).hwbars = s.hwbars := rfl
@[simp] theorem poisonMem_audits : (poisonMem s a n).audits = s.audits := rfl
@[simp] theorem poisonMem_gaffer : (poisonMem s a n).gaffer = s.gaffer := rfl
@[simp] theorem poisonMem_pathScore : (poisonMem s a n).pathScore = s.pathScore := rfl
@[simp] theorem poisonMem_pathKept : (poisonMem s a n).pathKept = s.pathKept := rfl
@[simp] theorem poisonMem_windows : (poisonMem s a n).windows = s.windows := rfl
@[simp] theorem poisonMem_ring : (poisonMem s a n).ring = s.ring := rfl
@[simp] theorem poisonMem_domainMode : (poisonMem s a n).domainMode = s.domainMode := rfl
@[simp] theorem poisonMem_linksDown : (poisonMem s a n).linksDown = s.linksDown := rfl
@[simp] theorem poisonMem_service : (poisonMem s a n).service = s.service := rfl
@[simp] theorem poisonMem_portData : (poisonMem s a n).portData = s.portData := rfl
@[simp] theorem poisonMem_portAddr : (poisonMem s a n).portAddr = s.portAddr := rfl
@[simp] theorem poisonMem_portValue : (poisonMem s a n).portValue = s.portValue := rfl
@[simp] theorem poisonMem_admissions : (poisonMem s a n).admissions = s.admissions := rfl
@[simp] theorem poisonMem_beat : (poisonMem s a n).beat = s.beat := rfl
@[simp] theorem poisonMem_ids : (poisonMem s a n).ids = s.ids := rfl
@[simp] theorem poisonMem_lostAcks : (poisonMem s a n).lostAcks = s.lostAcks := rfl
@[simp] theorem poisonMem_lostSends : (poisonMem s a n).lostSends = s.lostSends := rfl
@[simp] theorem poisonMem_hostErrors : (poisonMem s a n).hostErrors = s.hostErrors := rfl
@[simp] theorem poisonMem_inputs : (poisonMem s a n).inputs = s.inputs := rfl
@[simp] theorem poisonMem_delays : (poisonMem s a n).delays = s.delays := rfl
@[simp] theorem poisonMem_free : (poisonMem s a n).free = s.free := rfl

end

@[simp] theorem wrBytes_mem (s : State) (a : Nat) (bs : List Byte) : (wrBytes s a bs).mem = Memory.writes s.mem a bs := rfl
@[simp] theorem clearMem_mem (s : State) (a n : Nat) : (clearMem s a n).mem = Memory.zero s.mem a n := rfl

/-! ### Threads -/

section

variable (t : Thread) (r : Nat) (v : Word)

@[simp] theorem Thread.wr_pend : (t.wr r v).pend = t.pend := by unfold Thread.wr; split <;> rfl
@[simp] theorem Thread.wr_treg : (t.wr r v).treg = t.treg := by unfold Thread.wr; split <;> rfl
@[simp] theorem Thread.wr_bound : (t.wr r v).bound = t.bound := by unfold Thread.wr; split <;> rfl
@[simp] theorem Thread.wr_pc : (t.wr r v).pc = t.pc := by unfold Thread.wr; split <;> rfl
@[simp] theorem Thread.wr_atHeader : (t.wr r v).atHeader = t.atHeader := by unfold Thread.wr; split <;> rfl
@[simp] theorem Thread.wr_hdr : (t.wr r v).hdr = t.hdr := by unfold Thread.wr; split <;> rfl
@[simp] theorem Thread.wr_hdrWord : (t.wr r v).hdrWord = t.hdrWord := by unfold Thread.wr; split <;> rfl
@[simp] theorem Thread.wr_mode : (t.wr r v).mode = t.mode := by unfold Thread.wr; split <;> rfl
@[simp] theorem Thread.wr_status : (t.wr r v).status = t.status := by unfold Thread.wr; split <;> rfl
@[simp] theorem Thread.wr_latch : (t.wr r v).latch = t.latch := by unfold Thread.wr; split <;> rfl
@[simp] theorem Thread.wr_loads : (t.wr r v).loads = t.loads := by unfold Thread.wr; split <;> rfl
@[simp] theorem Thread.wr_stores : (t.wr r v).stores = t.stores := by unfold Thread.wr; split <;> rfl
@[simp] theorem Thread.wr_copies : (t.wr r v).copies = t.copies := by unfold Thread.wr; split <;> rfl
@[simp] theorem Thread.wr_passes : (t.wr r v).passes = t.passes := by unfold Thread.wr; split <;> rfl
@[simp] theorem Thread.wr_late : (t.wr r v).late = t.late := by unfold Thread.wr; split <;> rfl
@[simp] theorem Thread.wr_refusal : (t.wr r v).refusal = t.refusal := by unfold Thread.wr; split <;> rfl
@[simp] theorem Thread.wr_pendLate : (t.wr r v).pendLate = t.pendLate := by unfold Thread.wr; split <;> rfl
@[simp] theorem Thread.wr_pendThrStart : (t.wr r v).pendThrStart = t.pendThrStart := by unfold Thread.wr; split <;> rfl
@[simp] theorem Thread.wr_pendThrEnd : (t.wr r v).pendThrEnd = t.pendThrEnd := by unfold Thread.wr; split <;> rfl
@[simp] theorem Thread.wr_sys : (t.wr r v).sys = t.sys := by unfold Thread.wr; split <;> rfl
@[simp] theorem Thread.wr_owner : (t.wr r v).owner = t.owner := by unfold Thread.wr; split <;> rfl
@[simp] theorem Thread.wr_life : (t.wr r v).life = t.life := by unfold Thread.wr; split <;> rfl
@[simp] theorem Thread.wr_seek : (t.wr r v).seek = t.seek := by unfold Thread.wr; split <;> rfl
@[simp] theorem Thread.wr_faultWaits : (t.wr r v).faultWaits = t.faultWaits := by unfold Thread.wr; split <;> rfl
@[simp] theorem Thread.wr_debugStep : (t.wr r v).debugStep = t.debugStep := by unfold Thread.wr; split <;> rfl
@[simp] theorem Thread.wr_wait : (t.wr r v).wait = t.wait := by unfold Thread.wr; split <;> rfl
@[simp] theorem Thread.wr_reconv : (t.wr r v).reconv = t.reconv := by unfold Thread.wr; split <;> rfl
@[simp] theorem Thread.wr_held : (t.wr r v).held = t.held := by unfold Thread.wr; split <;> rfl
@[simp] theorem Thread.wr_stood : (t.wr r v).stood = t.stood := by unfold Thread.wr; split <;> rfl
@[simp] theorem Thread.wr_loadDone : (t.wr r v).loadDone = t.loadDone := by unfold Thread.wr; split <;> rfl
@[simp] theorem Thread.wr_storeDone : (t.wr r v).storeDone = t.storeDone := by unfold Thread.wr; split <;> rfl
@[simp] theorem Thread.wr_farDone : (t.wr r v).farDone = t.farDone := by unfold Thread.wr; split <;> rfl
@[simp] theorem Thread.wr_yieldBar : (t.wr r v).yieldBar = t.yieldBar := by unfold Thread.wr; split <;> rfl
@[simp] theorem Thread.wr_since : (t.wr r v).since = t.since := by unfold Thread.wr; split <;> rfl
@[simp] theorem Thread.wr_together : (t.wr r v).together = t.together := by unfold Thread.wr; split <;> rfl
@[simp] theorem Thread.wr_acquire : (t.wr r v).acquire = t.acquire := by unfold Thread.wr; split <;> rfl
@[simp] theorem Thread.wr_walking : (t.wr r v).walking = t.walking := by unfold Thread.wr; split <;> rfl
@[simp] theorem Thread.wr_walked : (t.wr r v).walked = t.walked := by unfold Thread.wr; split <;> rfl
@[simp] theorem Thread.wr_pageHold : (t.wr r v).pageHold = t.pageHold := by unfold Thread.wr; split <;> rfl
@[simp] theorem Thread.wr_cowRefused : (t.wr r v).cowRefused = t.cowRefused := by unfold Thread.wr; split <;> rfl
@[simp] theorem Thread.wr_freshWalk : (t.wr r v).freshWalk = t.freshWalk := by unfold Thread.wr; split <;> rfl
@[simp] theorem Thread.wr_digestN : (t.wr r v).digestN = t.digestN := by unfold Thread.wr; split <;> rfl
@[simp] theorem Thread.wr_digestWords : (t.wr r v).digestWords = t.digestWords := by unfold Thread.wr; split <;> rfl
@[simp] theorem Thread.wr_prog : (t.wr r v).prog = t.prog := by unfold Thread.wr; split <;> rfl

end

section

variable (t : Thread) (r : Nat) (v : Word)

@[simp] theorem Thread.wrPart_poison : (t.wrPart r v).poison = t.poison := by unfold Thread.wrPart; split <;> rfl
@[simp] theorem Thread.wrPart_pend : (t.wrPart r v).pend = t.pend := by unfold Thread.wrPart; split <;> rfl
@[simp] theorem Thread.wrPart_treg : (t.wrPart r v).treg = t.treg := by unfold Thread.wrPart; split <;> rfl
@[simp] theorem Thread.wrPart_bound : (t.wrPart r v).bound = t.bound := by unfold Thread.wrPart; split <;> rfl
@[simp] theorem Thread.wrPart_pc : (t.wrPart r v).pc = t.pc := by unfold Thread.wrPart; split <;> rfl
@[simp] theorem Thread.wrPart_atHeader : (t.wrPart r v).atHeader = t.atHeader := by unfold Thread.wrPart; split <;> rfl
@[simp] theorem Thread.wrPart_hdr : (t.wrPart r v).hdr = t.hdr := by unfold Thread.wrPart; split <;> rfl
@[simp] theorem Thread.wrPart_hdrWord : (t.wrPart r v).hdrWord = t.hdrWord := by unfold Thread.wrPart; split <;> rfl
@[simp] theorem Thread.wrPart_mode : (t.wrPart r v).mode = t.mode := by unfold Thread.wrPart; split <;> rfl
@[simp] theorem Thread.wrPart_status : (t.wrPart r v).status = t.status := by unfold Thread.wrPart; split <;> rfl
@[simp] theorem Thread.wrPart_latch : (t.wrPart r v).latch = t.latch := by unfold Thread.wrPart; split <;> rfl
@[simp] theorem Thread.wrPart_loads : (t.wrPart r v).loads = t.loads := by unfold Thread.wrPart; split <;> rfl
@[simp] theorem Thread.wrPart_stores : (t.wrPart r v).stores = t.stores := by unfold Thread.wrPart; split <;> rfl
@[simp] theorem Thread.wrPart_copies : (t.wrPart r v).copies = t.copies := by unfold Thread.wrPart; split <;> rfl
@[simp] theorem Thread.wrPart_passes : (t.wrPart r v).passes = t.passes := by unfold Thread.wrPart; split <;> rfl
@[simp] theorem Thread.wrPart_late : (t.wrPart r v).late = t.late := by unfold Thread.wrPart; split <;> rfl
@[simp] theorem Thread.wrPart_refusal : (t.wrPart r v).refusal = t.refusal := by unfold Thread.wrPart; split <;> rfl
@[simp] theorem Thread.wrPart_pendLate : (t.wrPart r v).pendLate = t.pendLate := by unfold Thread.wrPart; split <;> rfl
@[simp] theorem Thread.wrPart_pendThrStart : (t.wrPart r v).pendThrStart = t.pendThrStart := by unfold Thread.wrPart; split <;> rfl
@[simp] theorem Thread.wrPart_pendThrEnd : (t.wrPart r v).pendThrEnd = t.pendThrEnd := by unfold Thread.wrPart; split <;> rfl
@[simp] theorem Thread.wrPart_sys : (t.wrPart r v).sys = t.sys := by unfold Thread.wrPart; split <;> rfl
@[simp] theorem Thread.wrPart_owner : (t.wrPart r v).owner = t.owner := by unfold Thread.wrPart; split <;> rfl
@[simp] theorem Thread.wrPart_life : (t.wrPart r v).life = t.life := by unfold Thread.wrPart; split <;> rfl
@[simp] theorem Thread.wrPart_seek : (t.wrPart r v).seek = t.seek := by unfold Thread.wrPart; split <;> rfl
@[simp] theorem Thread.wrPart_faultWaits : (t.wrPart r v).faultWaits = t.faultWaits := by unfold Thread.wrPart; split <;> rfl
@[simp] theorem Thread.wrPart_debugStep : (t.wrPart r v).debugStep = t.debugStep := by unfold Thread.wrPart; split <;> rfl
@[simp] theorem Thread.wrPart_wait : (t.wrPart r v).wait = t.wait := by unfold Thread.wrPart; split <;> rfl
@[simp] theorem Thread.wrPart_reconv : (t.wrPart r v).reconv = t.reconv := by unfold Thread.wrPart; split <;> rfl
@[simp] theorem Thread.wrPart_held : (t.wrPart r v).held = t.held := by unfold Thread.wrPart; split <;> rfl
@[simp] theorem Thread.wrPart_stood : (t.wrPart r v).stood = t.stood := by unfold Thread.wrPart; split <;> rfl
@[simp] theorem Thread.wrPart_loadDone : (t.wrPart r v).loadDone = t.loadDone := by unfold Thread.wrPart; split <;> rfl
@[simp] theorem Thread.wrPart_storeDone : (t.wrPart r v).storeDone = t.storeDone := by unfold Thread.wrPart; split <;> rfl
@[simp] theorem Thread.wrPart_farDone : (t.wrPart r v).farDone = t.farDone := by unfold Thread.wrPart; split <;> rfl
@[simp] theorem Thread.wrPart_yieldBar : (t.wrPart r v).yieldBar = t.yieldBar := by unfold Thread.wrPart; split <;> rfl
@[simp] theorem Thread.wrPart_since : (t.wrPart r v).since = t.since := by unfold Thread.wrPart; split <;> rfl
@[simp] theorem Thread.wrPart_together : (t.wrPart r v).together = t.together := by unfold Thread.wrPart; split <;> rfl
@[simp] theorem Thread.wrPart_acquire : (t.wrPart r v).acquire = t.acquire := by unfold Thread.wrPart; split <;> rfl
@[simp] theorem Thread.wrPart_walking : (t.wrPart r v).walking = t.walking := by unfold Thread.wrPart; split <;> rfl
@[simp] theorem Thread.wrPart_walked : (t.wrPart r v).walked = t.walked := by unfold Thread.wrPart; split <;> rfl
@[simp] theorem Thread.wrPart_pageHold : (t.wrPart r v).pageHold = t.pageHold := by unfold Thread.wrPart; split <;> rfl
@[simp] theorem Thread.wrPart_cowRefused : (t.wrPart r v).cowRefused = t.cowRefused := by unfold Thread.wrPart; split <;> rfl
@[simp] theorem Thread.wrPart_freshWalk : (t.wrPart r v).freshWalk = t.freshWalk := by unfold Thread.wrPart; split <;> rfl
@[simp] theorem Thread.wrPart_digestN : (t.wrPart r v).digestN = t.digestN := by unfold Thread.wrPart; split <;> rfl
@[simp] theorem Thread.wrPart_digestWords : (t.wrPart r v).digestWords = t.digestWords := by unfold Thread.wrPart; split <;> rfl
@[simp] theorem Thread.wrPart_prog : (t.wrPart r v).prog = t.prog := by unfold Thread.wrPart; split <;> rfl

end

section

variable (t : Thread) (r b : Nat) (v : Bool)

@[simp] theorem Thread.wrBit_poison : (t.wrBit r b v).poison = t.poison := by simp [Thread.wrBit]
@[simp] theorem Thread.wrBit_pend : (t.wrBit r b v).pend = t.pend := by simp [Thread.wrBit]
@[simp] theorem Thread.wrBit_treg : (t.wrBit r b v).treg = t.treg := by simp [Thread.wrBit]
@[simp] theorem Thread.wrBit_bound : (t.wrBit r b v).bound = t.bound := by simp [Thread.wrBit]
@[simp] theorem Thread.wrBit_pc : (t.wrBit r b v).pc = t.pc := by simp [Thread.wrBit]
@[simp] theorem Thread.wrBit_atHeader : (t.wrBit r b v).atHeader = t.atHeader := by simp [Thread.wrBit]
@[simp] theorem Thread.wrBit_hdr : (t.wrBit r b v).hdr = t.hdr := by simp [Thread.wrBit]
@[simp] theorem Thread.wrBit_hdrWord : (t.wrBit r b v).hdrWord = t.hdrWord := by simp [Thread.wrBit]
@[simp] theorem Thread.wrBit_mode : (t.wrBit r b v).mode = t.mode := by simp [Thread.wrBit]
@[simp] theorem Thread.wrBit_status : (t.wrBit r b v).status = t.status := by simp [Thread.wrBit]
@[simp] theorem Thread.wrBit_latch : (t.wrBit r b v).latch = t.latch := by simp [Thread.wrBit]
@[simp] theorem Thread.wrBit_loads : (t.wrBit r b v).loads = t.loads := by simp [Thread.wrBit]
@[simp] theorem Thread.wrBit_stores : (t.wrBit r b v).stores = t.stores := by simp [Thread.wrBit]
@[simp] theorem Thread.wrBit_copies : (t.wrBit r b v).copies = t.copies := by simp [Thread.wrBit]
@[simp] theorem Thread.wrBit_passes : (t.wrBit r b v).passes = t.passes := by simp [Thread.wrBit]
@[simp] theorem Thread.wrBit_late : (t.wrBit r b v).late = t.late := by simp [Thread.wrBit]
@[simp] theorem Thread.wrBit_refusal : (t.wrBit r b v).refusal = t.refusal := by simp [Thread.wrBit]
@[simp] theorem Thread.wrBit_pendLate : (t.wrBit r b v).pendLate = t.pendLate := by simp [Thread.wrBit]
@[simp] theorem Thread.wrBit_pendThrStart : (t.wrBit r b v).pendThrStart = t.pendThrStart := by simp [Thread.wrBit]
@[simp] theorem Thread.wrBit_pendThrEnd : (t.wrBit r b v).pendThrEnd = t.pendThrEnd := by simp [Thread.wrBit]
@[simp] theorem Thread.wrBit_sys : (t.wrBit r b v).sys = t.sys := by simp [Thread.wrBit]
@[simp] theorem Thread.wrBit_owner : (t.wrBit r b v).owner = t.owner := by simp [Thread.wrBit]
@[simp] theorem Thread.wrBit_life : (t.wrBit r b v).life = t.life := by simp [Thread.wrBit]
@[simp] theorem Thread.wrBit_seek : (t.wrBit r b v).seek = t.seek := by simp [Thread.wrBit]
@[simp] theorem Thread.wrBit_faultWaits : (t.wrBit r b v).faultWaits = t.faultWaits := by simp [Thread.wrBit]
@[simp] theorem Thread.wrBit_debugStep : (t.wrBit r b v).debugStep = t.debugStep := by simp [Thread.wrBit]
@[simp] theorem Thread.wrBit_wait : (t.wrBit r b v).wait = t.wait := by simp [Thread.wrBit]
@[simp] theorem Thread.wrBit_reconv : (t.wrBit r b v).reconv = t.reconv := by simp [Thread.wrBit]
@[simp] theorem Thread.wrBit_held : (t.wrBit r b v).held = t.held := by simp [Thread.wrBit]
@[simp] theorem Thread.wrBit_stood : (t.wrBit r b v).stood = t.stood := by simp [Thread.wrBit]
@[simp] theorem Thread.wrBit_loadDone : (t.wrBit r b v).loadDone = t.loadDone := by simp [Thread.wrBit]
@[simp] theorem Thread.wrBit_storeDone : (t.wrBit r b v).storeDone = t.storeDone := by simp [Thread.wrBit]
@[simp] theorem Thread.wrBit_farDone : (t.wrBit r b v).farDone = t.farDone := by simp [Thread.wrBit]
@[simp] theorem Thread.wrBit_yieldBar : (t.wrBit r b v).yieldBar = t.yieldBar := by simp [Thread.wrBit]
@[simp] theorem Thread.wrBit_since : (t.wrBit r b v).since = t.since := by simp [Thread.wrBit]
@[simp] theorem Thread.wrBit_together : (t.wrBit r b v).together = t.together := by simp [Thread.wrBit]
@[simp] theorem Thread.wrBit_acquire : (t.wrBit r b v).acquire = t.acquire := by simp [Thread.wrBit]
@[simp] theorem Thread.wrBit_walking : (t.wrBit r b v).walking = t.walking := by simp [Thread.wrBit]
@[simp] theorem Thread.wrBit_walked : (t.wrBit r b v).walked = t.walked := by simp [Thread.wrBit]
@[simp] theorem Thread.wrBit_pageHold : (t.wrBit r b v).pageHold = t.pageHold := by simp [Thread.wrBit]
@[simp] theorem Thread.wrBit_cowRefused : (t.wrBit r b v).cowRefused = t.cowRefused := by simp [Thread.wrBit]
@[simp] theorem Thread.wrBit_freshWalk : (t.wrBit r b v).freshWalk = t.freshWalk := by simp [Thread.wrBit]
@[simp] theorem Thread.wrBit_digestN : (t.wrBit r b v).digestN = t.digestN := by simp [Thread.wrBit]
@[simp] theorem Thread.wrBit_digestWords : (t.wrBit r b v).digestWords = t.digestWords := by simp [Thread.wrBit]
@[simp] theorem Thread.wrBit_prog : (t.wrBit r b v).prog = t.prog := by simp [Thread.wrBit]

end

section

variable (t : Thread) (r : Nat) (v : Double)

@[simp] theorem Thread.wrd_pend : (t.wrd r v).pend = t.pend := by simp [Thread.wrd]
@[simp] theorem Thread.wrd_treg : (t.wrd r v).treg = t.treg := by simp [Thread.wrd]
@[simp] theorem Thread.wrd_bound : (t.wrd r v).bound = t.bound := by simp [Thread.wrd]
@[simp] theorem Thread.wrd_pc : (t.wrd r v).pc = t.pc := by simp [Thread.wrd]
@[simp] theorem Thread.wrd_atHeader : (t.wrd r v).atHeader = t.atHeader := by simp [Thread.wrd]
@[simp] theorem Thread.wrd_hdr : (t.wrd r v).hdr = t.hdr := by simp [Thread.wrd]
@[simp] theorem Thread.wrd_hdrWord : (t.wrd r v).hdrWord = t.hdrWord := by simp [Thread.wrd]
@[simp] theorem Thread.wrd_mode : (t.wrd r v).mode = t.mode := by simp [Thread.wrd]
@[simp] theorem Thread.wrd_status : (t.wrd r v).status = t.status := by simp [Thread.wrd]
@[simp] theorem Thread.wrd_latch : (t.wrd r v).latch = t.latch := by simp [Thread.wrd]
@[simp] theorem Thread.wrd_loads : (t.wrd r v).loads = t.loads := by simp [Thread.wrd]
@[simp] theorem Thread.wrd_stores : (t.wrd r v).stores = t.stores := by simp [Thread.wrd]
@[simp] theorem Thread.wrd_copies : (t.wrd r v).copies = t.copies := by simp [Thread.wrd]
@[simp] theorem Thread.wrd_passes : (t.wrd r v).passes = t.passes := by simp [Thread.wrd]
@[simp] theorem Thread.wrd_late : (t.wrd r v).late = t.late := by simp [Thread.wrd]
@[simp] theorem Thread.wrd_refusal : (t.wrd r v).refusal = t.refusal := by simp [Thread.wrd]
@[simp] theorem Thread.wrd_pendLate : (t.wrd r v).pendLate = t.pendLate := by simp [Thread.wrd]
@[simp] theorem Thread.wrd_pendThrStart : (t.wrd r v).pendThrStart = t.pendThrStart := by simp [Thread.wrd]
@[simp] theorem Thread.wrd_pendThrEnd : (t.wrd r v).pendThrEnd = t.pendThrEnd := by simp [Thread.wrd]
@[simp] theorem Thread.wrd_sys : (t.wrd r v).sys = t.sys := by simp [Thread.wrd]
@[simp] theorem Thread.wrd_owner : (t.wrd r v).owner = t.owner := by simp [Thread.wrd]
@[simp] theorem Thread.wrd_life : (t.wrd r v).life = t.life := by simp [Thread.wrd]
@[simp] theorem Thread.wrd_seek : (t.wrd r v).seek = t.seek := by simp [Thread.wrd]
@[simp] theorem Thread.wrd_faultWaits : (t.wrd r v).faultWaits = t.faultWaits := by simp [Thread.wrd]
@[simp] theorem Thread.wrd_debugStep : (t.wrd r v).debugStep = t.debugStep := by simp [Thread.wrd]
@[simp] theorem Thread.wrd_wait : (t.wrd r v).wait = t.wait := by simp [Thread.wrd]
@[simp] theorem Thread.wrd_reconv : (t.wrd r v).reconv = t.reconv := by simp [Thread.wrd]
@[simp] theorem Thread.wrd_held : (t.wrd r v).held = t.held := by simp [Thread.wrd]
@[simp] theorem Thread.wrd_stood : (t.wrd r v).stood = t.stood := by simp [Thread.wrd]
@[simp] theorem Thread.wrd_loadDone : (t.wrd r v).loadDone = t.loadDone := by simp [Thread.wrd]
@[simp] theorem Thread.wrd_storeDone : (t.wrd r v).storeDone = t.storeDone := by simp [Thread.wrd]
@[simp] theorem Thread.wrd_farDone : (t.wrd r v).farDone = t.farDone := by simp [Thread.wrd]
@[simp] theorem Thread.wrd_yieldBar : (t.wrd r v).yieldBar = t.yieldBar := by simp [Thread.wrd]
@[simp] theorem Thread.wrd_since : (t.wrd r v).since = t.since := by simp [Thread.wrd]
@[simp] theorem Thread.wrd_together : (t.wrd r v).together = t.together := by simp [Thread.wrd]
@[simp] theorem Thread.wrd_acquire : (t.wrd r v).acquire = t.acquire := by simp [Thread.wrd]
@[simp] theorem Thread.wrd_walking : (t.wrd r v).walking = t.walking := by simp [Thread.wrd]
@[simp] theorem Thread.wrd_walked : (t.wrd r v).walked = t.walked := by simp [Thread.wrd]
@[simp] theorem Thread.wrd_pageHold : (t.wrd r v).pageHold = t.pageHold := by simp [Thread.wrd]
@[simp] theorem Thread.wrd_cowRefused : (t.wrd r v).cowRefused = t.cowRefused := by simp [Thread.wrd]
@[simp] theorem Thread.wrd_freshWalk : (t.wrd r v).freshWalk = t.freshWalk := by simp [Thread.wrd]
@[simp] theorem Thread.wrd_digestN : (t.wrd r v).digestN = t.digestN := by simp [Thread.wrd]
@[simp] theorem Thread.wrd_digestWords : (t.wrd r v).digestWords = t.digestWords := by simp [Thread.wrd]
@[simp] theorem Thread.wrd_prog : (t.wrd r v).prog = t.prog := by simp [Thread.wrd]

end

section

variable (t : Thread) (r : Nat) (v : Quad)

@[simp] theorem Thread.wrq_pend : (t.wrq r v).pend = t.pend := by simp [Thread.wrq]
@[simp] theorem Thread.wrq_treg : (t.wrq r v).treg = t.treg := by simp [Thread.wrq]
@[simp] theorem Thread.wrq_bound : (t.wrq r v).bound = t.bound := by simp [Thread.wrq]
@[simp] theorem Thread.wrq_pc : (t.wrq r v).pc = t.pc := by simp [Thread.wrq]
@[simp] theorem Thread.wrq_atHeader : (t.wrq r v).atHeader = t.atHeader := by simp [Thread.wrq]
@[simp] theorem Thread.wrq_hdr : (t.wrq r v).hdr = t.hdr := by simp [Thread.wrq]
@[simp] theorem Thread.wrq_hdrWord : (t.wrq r v).hdrWord = t.hdrWord := by simp [Thread.wrq]
@[simp] theorem Thread.wrq_mode : (t.wrq r v).mode = t.mode := by simp [Thread.wrq]
@[simp] theorem Thread.wrq_status : (t.wrq r v).status = t.status := by simp [Thread.wrq]
@[simp] theorem Thread.wrq_latch : (t.wrq r v).latch = t.latch := by simp [Thread.wrq]
@[simp] theorem Thread.wrq_loads : (t.wrq r v).loads = t.loads := by simp [Thread.wrq]
@[simp] theorem Thread.wrq_stores : (t.wrq r v).stores = t.stores := by simp [Thread.wrq]
@[simp] theorem Thread.wrq_copies : (t.wrq r v).copies = t.copies := by simp [Thread.wrq]
@[simp] theorem Thread.wrq_passes : (t.wrq r v).passes = t.passes := by simp [Thread.wrq]
@[simp] theorem Thread.wrq_late : (t.wrq r v).late = t.late := by simp [Thread.wrq]
@[simp] theorem Thread.wrq_refusal : (t.wrq r v).refusal = t.refusal := by simp [Thread.wrq]
@[simp] theorem Thread.wrq_pendLate : (t.wrq r v).pendLate = t.pendLate := by simp [Thread.wrq]
@[simp] theorem Thread.wrq_pendThrStart : (t.wrq r v).pendThrStart = t.pendThrStart := by simp [Thread.wrq]
@[simp] theorem Thread.wrq_pendThrEnd : (t.wrq r v).pendThrEnd = t.pendThrEnd := by simp [Thread.wrq]
@[simp] theorem Thread.wrq_sys : (t.wrq r v).sys = t.sys := by simp [Thread.wrq]
@[simp] theorem Thread.wrq_owner : (t.wrq r v).owner = t.owner := by simp [Thread.wrq]
@[simp] theorem Thread.wrq_life : (t.wrq r v).life = t.life := by simp [Thread.wrq]
@[simp] theorem Thread.wrq_seek : (t.wrq r v).seek = t.seek := by simp [Thread.wrq]
@[simp] theorem Thread.wrq_faultWaits : (t.wrq r v).faultWaits = t.faultWaits := by simp [Thread.wrq]
@[simp] theorem Thread.wrq_debugStep : (t.wrq r v).debugStep = t.debugStep := by simp [Thread.wrq]
@[simp] theorem Thread.wrq_wait : (t.wrq r v).wait = t.wait := by simp [Thread.wrq]
@[simp] theorem Thread.wrq_reconv : (t.wrq r v).reconv = t.reconv := by simp [Thread.wrq]
@[simp] theorem Thread.wrq_held : (t.wrq r v).held = t.held := by simp [Thread.wrq]
@[simp] theorem Thread.wrq_stood : (t.wrq r v).stood = t.stood := by simp [Thread.wrq]
@[simp] theorem Thread.wrq_loadDone : (t.wrq r v).loadDone = t.loadDone := by simp [Thread.wrq]
@[simp] theorem Thread.wrq_storeDone : (t.wrq r v).storeDone = t.storeDone := by simp [Thread.wrq]
@[simp] theorem Thread.wrq_farDone : (t.wrq r v).farDone = t.farDone := by simp [Thread.wrq]
@[simp] theorem Thread.wrq_yieldBar : (t.wrq r v).yieldBar = t.yieldBar := by simp [Thread.wrq]
@[simp] theorem Thread.wrq_since : (t.wrq r v).since = t.since := by simp [Thread.wrq]
@[simp] theorem Thread.wrq_together : (t.wrq r v).together = t.together := by simp [Thread.wrq]
@[simp] theorem Thread.wrq_acquire : (t.wrq r v).acquire = t.acquire := by simp [Thread.wrq]
@[simp] theorem Thread.wrq_walking : (t.wrq r v).walking = t.walking := by simp [Thread.wrq]
@[simp] theorem Thread.wrq_walked : (t.wrq r v).walked = t.walked := by simp [Thread.wrq]
@[simp] theorem Thread.wrq_pageHold : (t.wrq r v).pageHold = t.pageHold := by simp [Thread.wrq]
@[simp] theorem Thread.wrq_cowRefused : (t.wrq r v).cowRefused = t.cowRefused := by simp [Thread.wrq]
@[simp] theorem Thread.wrq_freshWalk : (t.wrq r v).freshWalk = t.freshWalk := by simp [Thread.wrq]
@[simp] theorem Thread.wrq_digestN : (t.wrq r v).digestN = t.digestN := by simp [Thread.wrq]
@[simp] theorem Thread.wrq_digestWords : (t.wrq r v).digestWords = t.digestWords := by simp [Thread.wrq]
@[simp] theorem Thread.wrq_prog : (t.wrq r v).prog = t.prog := by simp [Thread.wrq]

end

section

variable (t : Thread) (r : Nat) (c : CapReg)

@[simp] theorem Thread.wrCap_pend : (t.wrCap r c).pend = t.pend := by unfold Thread.wrCap; dsimp only; split <;> simp
@[simp] theorem Thread.wrCap_treg : (t.wrCap r c).treg = t.treg := by unfold Thread.wrCap; dsimp only; split <;> simp
@[simp] theorem Thread.wrCap_bound : (t.wrCap r c).bound = t.bound := by unfold Thread.wrCap; dsimp only; split <;> simp
@[simp] theorem Thread.wrCap_pc : (t.wrCap r c).pc = t.pc := by unfold Thread.wrCap; dsimp only; split <;> simp
@[simp] theorem Thread.wrCap_atHeader : (t.wrCap r c).atHeader = t.atHeader := by unfold Thread.wrCap; dsimp only; split <;> simp
@[simp] theorem Thread.wrCap_hdr : (t.wrCap r c).hdr = t.hdr := by unfold Thread.wrCap; dsimp only; split <;> simp
@[simp] theorem Thread.wrCap_hdrWord : (t.wrCap r c).hdrWord = t.hdrWord := by unfold Thread.wrCap; dsimp only; split <;> simp
@[simp] theorem Thread.wrCap_mode : (t.wrCap r c).mode = t.mode := by unfold Thread.wrCap; dsimp only; split <;> simp
@[simp] theorem Thread.wrCap_status : (t.wrCap r c).status = t.status := by unfold Thread.wrCap; dsimp only; split <;> simp
@[simp] theorem Thread.wrCap_latch : (t.wrCap r c).latch = t.latch := by unfold Thread.wrCap; dsimp only; split <;> simp
@[simp] theorem Thread.wrCap_loads : (t.wrCap r c).loads = t.loads := by unfold Thread.wrCap; dsimp only; split <;> simp
@[simp] theorem Thread.wrCap_stores : (t.wrCap r c).stores = t.stores := by unfold Thread.wrCap; dsimp only; split <;> simp
@[simp] theorem Thread.wrCap_copies : (t.wrCap r c).copies = t.copies := by unfold Thread.wrCap; dsimp only; split <;> simp
@[simp] theorem Thread.wrCap_passes : (t.wrCap r c).passes = t.passes := by unfold Thread.wrCap; dsimp only; split <;> simp
@[simp] theorem Thread.wrCap_late : (t.wrCap r c).late = t.late := by unfold Thread.wrCap; dsimp only; split <;> simp
@[simp] theorem Thread.wrCap_refusal : (t.wrCap r c).refusal = t.refusal := by unfold Thread.wrCap; dsimp only; split <;> simp
@[simp] theorem Thread.wrCap_pendLate : (t.wrCap r c).pendLate = t.pendLate := by unfold Thread.wrCap; dsimp only; split <;> simp
@[simp] theorem Thread.wrCap_pendThrStart : (t.wrCap r c).pendThrStart = t.pendThrStart := by unfold Thread.wrCap; dsimp only; split <;> simp
@[simp] theorem Thread.wrCap_pendThrEnd : (t.wrCap r c).pendThrEnd = t.pendThrEnd := by unfold Thread.wrCap; dsimp only; split <;> simp
@[simp] theorem Thread.wrCap_sys : (t.wrCap r c).sys = t.sys := by unfold Thread.wrCap; dsimp only; split <;> simp
@[simp] theorem Thread.wrCap_owner : (t.wrCap r c).owner = t.owner := by unfold Thread.wrCap; dsimp only; split <;> simp
@[simp] theorem Thread.wrCap_life : (t.wrCap r c).life = t.life := by unfold Thread.wrCap; dsimp only; split <;> simp
@[simp] theorem Thread.wrCap_seek : (t.wrCap r c).seek = t.seek := by unfold Thread.wrCap; dsimp only; split <;> simp
@[simp] theorem Thread.wrCap_faultWaits : (t.wrCap r c).faultWaits = t.faultWaits := by unfold Thread.wrCap; dsimp only; split <;> simp
@[simp] theorem Thread.wrCap_debugStep : (t.wrCap r c).debugStep = t.debugStep := by unfold Thread.wrCap; dsimp only; split <;> simp
@[simp] theorem Thread.wrCap_wait : (t.wrCap r c).wait = t.wait := by unfold Thread.wrCap; dsimp only; split <;> simp
@[simp] theorem Thread.wrCap_reconv : (t.wrCap r c).reconv = t.reconv := by unfold Thread.wrCap; dsimp only; split <;> simp
@[simp] theorem Thread.wrCap_held : (t.wrCap r c).held = t.held := by unfold Thread.wrCap; dsimp only; split <;> simp
@[simp] theorem Thread.wrCap_stood : (t.wrCap r c).stood = t.stood := by unfold Thread.wrCap; dsimp only; split <;> simp
@[simp] theorem Thread.wrCap_loadDone : (t.wrCap r c).loadDone = t.loadDone := by unfold Thread.wrCap; dsimp only; split <;> simp
@[simp] theorem Thread.wrCap_storeDone : (t.wrCap r c).storeDone = t.storeDone := by unfold Thread.wrCap; dsimp only; split <;> simp
@[simp] theorem Thread.wrCap_farDone : (t.wrCap r c).farDone = t.farDone := by unfold Thread.wrCap; dsimp only; split <;> simp
@[simp] theorem Thread.wrCap_yieldBar : (t.wrCap r c).yieldBar = t.yieldBar := by unfold Thread.wrCap; dsimp only; split <;> simp
@[simp] theorem Thread.wrCap_since : (t.wrCap r c).since = t.since := by unfold Thread.wrCap; dsimp only; split <;> simp
@[simp] theorem Thread.wrCap_together : (t.wrCap r c).together = t.together := by unfold Thread.wrCap; dsimp only; split <;> simp
@[simp] theorem Thread.wrCap_acquire : (t.wrCap r c).acquire = t.acquire := by unfold Thread.wrCap; dsimp only; split <;> simp
@[simp] theorem Thread.wrCap_walking : (t.wrCap r c).walking = t.walking := by unfold Thread.wrCap; dsimp only; split <;> simp
@[simp] theorem Thread.wrCap_walked : (t.wrCap r c).walked = t.walked := by unfold Thread.wrCap; dsimp only; split <;> simp
@[simp] theorem Thread.wrCap_pageHold : (t.wrCap r c).pageHold = t.pageHold := by unfold Thread.wrCap; dsimp only; split <;> simp
@[simp] theorem Thread.wrCap_cowRefused : (t.wrCap r c).cowRefused = t.cowRefused := by unfold Thread.wrCap; dsimp only; split <;> simp
@[simp] theorem Thread.wrCap_freshWalk : (t.wrCap r c).freshWalk = t.freshWalk := by unfold Thread.wrCap; dsimp only; split <;> simp
@[simp] theorem Thread.wrCap_digestN : (t.wrCap r c).digestN = t.digestN := by unfold Thread.wrCap; dsimp only; split <;> simp
@[simp] theorem Thread.wrCap_digestWords : (t.wrCap r c).digestWords = t.digestWords := by unfold Thread.wrCap; dsimp only; split <;> simp
@[simp] theorem Thread.wrCap_prog : (t.wrCap r c).prog = t.prog := by unfold Thread.wrCap; dsimp only; split <;> simp

end

section

variable (t : Thread) (i : Nat) (v : TReg)

@[simp] theorem Thread.setT_regs : (t.setT i v).regs = t.regs := rfl
@[simp] theorem Thread.setT_tags : (t.setT i v).tags = t.tags := rfl
@[simp] theorem Thread.setT_poison : (t.setT i v).poison = t.poison := rfl
@[simp] theorem Thread.setT_pend : (t.setT i v).pend = t.pend := rfl
@[simp] theorem Thread.setT_pc : (t.setT i v).pc = t.pc := rfl
@[simp] theorem Thread.setT_atHeader : (t.setT i v).atHeader = t.atHeader := rfl
@[simp] theorem Thread.setT_hdr : (t.setT i v).hdr = t.hdr := rfl
@[simp] theorem Thread.setT_hdrWord : (t.setT i v).hdrWord = t.hdrWord := rfl
@[simp] theorem Thread.setT_mode : (t.setT i v).mode = t.mode := rfl
@[simp] theorem Thread.setT_status : (t.setT i v).status = t.status := rfl
@[simp] theorem Thread.setT_latch : (t.setT i v).latch = t.latch := rfl
@[simp] theorem Thread.setT_loads : (t.setT i v).loads = t.loads := rfl
@[simp] theorem Thread.setT_stores : (t.setT i v).stores = t.stores := rfl
@[simp] theorem Thread.setT_copies : (t.setT i v).copies = t.copies := rfl
@[simp] theorem Thread.setT_passes : (t.setT i v).passes = t.passes := rfl
@[simp] theorem Thread.setT_late : (t.setT i v).late = t.late := rfl
@[simp] theorem Thread.setT_refusal : (t.setT i v).refusal = t.refusal := rfl
@[simp] theorem Thread.setT_pendLate : (t.setT i v).pendLate = t.pendLate := rfl
@[simp] theorem Thread.setT_pendThrStart : (t.setT i v).pendThrStart = t.pendThrStart := rfl
@[simp] theorem Thread.setT_pendThrEnd : (t.setT i v).pendThrEnd = t.pendThrEnd := rfl
@[simp] theorem Thread.setT_sys : (t.setT i v).sys = t.sys := rfl
@[simp] theorem Thread.setT_owner : (t.setT i v).owner = t.owner := rfl
@[simp] theorem Thread.setT_life : (t.setT i v).life = t.life := rfl
@[simp] theorem Thread.setT_seek : (t.setT i v).seek = t.seek := rfl
@[simp] theorem Thread.setT_faultWaits : (t.setT i v).faultWaits = t.faultWaits := rfl
@[simp] theorem Thread.setT_debugStep : (t.setT i v).debugStep = t.debugStep := rfl
@[simp] theorem Thread.setT_wait : (t.setT i v).wait = t.wait := rfl
@[simp] theorem Thread.setT_reconv : (t.setT i v).reconv = t.reconv := rfl
@[simp] theorem Thread.setT_held : (t.setT i v).held = t.held := rfl
@[simp] theorem Thread.setT_stood : (t.setT i v).stood = t.stood := rfl
@[simp] theorem Thread.setT_loadDone : (t.setT i v).loadDone = t.loadDone := rfl
@[simp] theorem Thread.setT_storeDone : (t.setT i v).storeDone = t.storeDone := rfl
@[simp] theorem Thread.setT_farDone : (t.setT i v).farDone = t.farDone := rfl
@[simp] theorem Thread.setT_yieldBar : (t.setT i v).yieldBar = t.yieldBar := rfl
@[simp] theorem Thread.setT_since : (t.setT i v).since = t.since := rfl
@[simp] theorem Thread.setT_together : (t.setT i v).together = t.together := rfl
@[simp] theorem Thread.setT_acquire : (t.setT i v).acquire = t.acquire := rfl
@[simp] theorem Thread.setT_walking : (t.setT i v).walking = t.walking := rfl
@[simp] theorem Thread.setT_walked : (t.setT i v).walked = t.walked := rfl
@[simp] theorem Thread.setT_pageHold : (t.setT i v).pageHold = t.pageHold := rfl
@[simp] theorem Thread.setT_cowRefused : (t.setT i v).cowRefused = t.cowRefused := rfl
@[simp] theorem Thread.setT_freshWalk : (t.setT i v).freshWalk = t.freshWalk := rfl
@[simp] theorem Thread.setT_digestN : (t.setT i v).digestN = t.digestN := rfl
@[simp] theorem Thread.setT_digestWords : (t.setT i v).digestWords = t.digestWords := rfl
@[simp] theorem Thread.setT_prog : (t.setT i v).prog = t.prog := rfl

end

section

variable (t : Thread) (i id : Nat)

@[simp] theorem Thread.bind_regs : (t.bind i id).regs = t.regs := rfl
@[simp] theorem Thread.bind_tags : (t.bind i id).tags = t.tags := rfl
@[simp] theorem Thread.bind_poison : (t.bind i id).poison = t.poison := rfl
@[simp] theorem Thread.bind_pend : (t.bind i id).pend = t.pend := rfl
@[simp] theorem Thread.bind_pc : (t.bind i id).pc = t.pc := rfl
@[simp] theorem Thread.bind_atHeader : (t.bind i id).atHeader = t.atHeader := rfl
@[simp] theorem Thread.bind_hdr : (t.bind i id).hdr = t.hdr := rfl
@[simp] theorem Thread.bind_hdrWord : (t.bind i id).hdrWord = t.hdrWord := rfl
@[simp] theorem Thread.bind_mode : (t.bind i id).mode = t.mode := rfl
@[simp] theorem Thread.bind_status : (t.bind i id).status = t.status := rfl
@[simp] theorem Thread.bind_latch : (t.bind i id).latch = t.latch := rfl
@[simp] theorem Thread.bind_loads : (t.bind i id).loads = t.loads := rfl
@[simp] theorem Thread.bind_stores : (t.bind i id).stores = t.stores := rfl
@[simp] theorem Thread.bind_copies : (t.bind i id).copies = t.copies := rfl
@[simp] theorem Thread.bind_passes : (t.bind i id).passes = t.passes := rfl
@[simp] theorem Thread.bind_late : (t.bind i id).late = t.late := rfl
@[simp] theorem Thread.bind_refusal : (t.bind i id).refusal = t.refusal := rfl
@[simp] theorem Thread.bind_pendLate : (t.bind i id).pendLate = t.pendLate := rfl
@[simp] theorem Thread.bind_pendThrStart : (t.bind i id).pendThrStart = t.pendThrStart := rfl
@[simp] theorem Thread.bind_pendThrEnd : (t.bind i id).pendThrEnd = t.pendThrEnd := rfl
@[simp] theorem Thread.bind_sys : (t.bind i id).sys = t.sys := rfl
@[simp] theorem Thread.bind_owner : (t.bind i id).owner = t.owner := rfl
@[simp] theorem Thread.bind_life : (t.bind i id).life = t.life := rfl
@[simp] theorem Thread.bind_seek : (t.bind i id).seek = t.seek := rfl
@[simp] theorem Thread.bind_faultWaits : (t.bind i id).faultWaits = t.faultWaits := rfl
@[simp] theorem Thread.bind_debugStep : (t.bind i id).debugStep = t.debugStep := rfl
@[simp] theorem Thread.bind_wait : (t.bind i id).wait = t.wait := rfl
@[simp] theorem Thread.bind_reconv : (t.bind i id).reconv = t.reconv := rfl
@[simp] theorem Thread.bind_held : (t.bind i id).held = t.held := rfl
@[simp] theorem Thread.bind_stood : (t.bind i id).stood = t.stood := rfl
@[simp] theorem Thread.bind_loadDone : (t.bind i id).loadDone = t.loadDone := rfl
@[simp] theorem Thread.bind_storeDone : (t.bind i id).storeDone = t.storeDone := rfl
@[simp] theorem Thread.bind_farDone : (t.bind i id).farDone = t.farDone := rfl
@[simp] theorem Thread.bind_yieldBar : (t.bind i id).yieldBar = t.yieldBar := rfl
@[simp] theorem Thread.bind_since : (t.bind i id).since = t.since := rfl
@[simp] theorem Thread.bind_together : (t.bind i id).together = t.together := rfl
@[simp] theorem Thread.bind_acquire : (t.bind i id).acquire = t.acquire := rfl
@[simp] theorem Thread.bind_walking : (t.bind i id).walking = t.walking := rfl
@[simp] theorem Thread.bind_walked : (t.bind i id).walked = t.walked := rfl
@[simp] theorem Thread.bind_pageHold : (t.bind i id).pageHold = t.pageHold := rfl
@[simp] theorem Thread.bind_cowRefused : (t.bind i id).cowRefused = t.cowRefused := rfl
@[simp] theorem Thread.bind_freshWalk : (t.bind i id).freshWalk = t.freshWalk := rfl
@[simp] theorem Thread.bind_digestN : (t.bind i id).digestN = t.digestN := rfl
@[simp] theorem Thread.bind_digestWords : (t.bind i id).digestWords = t.digestWords := rfl
@[simp] theorem Thread.bind_prog : (t.bind i id).prog = t.prog := rfl

end

section

variable (t : Thread) (i id : Nat) (v : TReg → TReg)

@[simp] theorem Thread.reportT_regs : (t.reportT i id v).regs = t.regs := by unfold Thread.reportT; split <;> rfl
@[simp] theorem Thread.reportT_tags : (t.reportT i id v).tags = t.tags := by unfold Thread.reportT; split <;> rfl
@[simp] theorem Thread.reportT_poison : (t.reportT i id v).poison = t.poison := by unfold Thread.reportT; split <;> rfl
@[simp] theorem Thread.reportT_pend : (t.reportT i id v).pend = t.pend := by unfold Thread.reportT; split <;> rfl
@[simp] theorem Thread.reportT_bound : (t.reportT i id v).bound = t.bound := by unfold Thread.reportT; split <;> rfl
@[simp] theorem Thread.reportT_pc : (t.reportT i id v).pc = t.pc := by unfold Thread.reportT; split <;> rfl
@[simp] theorem Thread.reportT_atHeader : (t.reportT i id v).atHeader = t.atHeader := by unfold Thread.reportT; split <;> rfl
@[simp] theorem Thread.reportT_hdr : (t.reportT i id v).hdr = t.hdr := by unfold Thread.reportT; split <;> rfl
@[simp] theorem Thread.reportT_hdrWord : (t.reportT i id v).hdrWord = t.hdrWord := by unfold Thread.reportT; split <;> rfl
@[simp] theorem Thread.reportT_mode : (t.reportT i id v).mode = t.mode := by unfold Thread.reportT; split <;> rfl
@[simp] theorem Thread.reportT_status : (t.reportT i id v).status = t.status := by unfold Thread.reportT; split <;> rfl
@[simp] theorem Thread.reportT_latch : (t.reportT i id v).latch = t.latch := by unfold Thread.reportT; split <;> rfl
@[simp] theorem Thread.reportT_loads : (t.reportT i id v).loads = t.loads := by unfold Thread.reportT; split <;> rfl
@[simp] theorem Thread.reportT_stores : (t.reportT i id v).stores = t.stores := by unfold Thread.reportT; split <;> rfl
@[simp] theorem Thread.reportT_copies : (t.reportT i id v).copies = t.copies := by unfold Thread.reportT; split <;> rfl
@[simp] theorem Thread.reportT_passes : (t.reportT i id v).passes = t.passes := by unfold Thread.reportT; split <;> rfl
@[simp] theorem Thread.reportT_late : (t.reportT i id v).late = t.late := by unfold Thread.reportT; split <;> rfl
@[simp] theorem Thread.reportT_refusal : (t.reportT i id v).refusal = t.refusal := by unfold Thread.reportT; split <;> rfl
@[simp] theorem Thread.reportT_pendLate : (t.reportT i id v).pendLate = t.pendLate := by unfold Thread.reportT; split <;> rfl
@[simp] theorem Thread.reportT_pendThrStart : (t.reportT i id v).pendThrStart = t.pendThrStart := by unfold Thread.reportT; split <;> rfl
@[simp] theorem Thread.reportT_pendThrEnd : (t.reportT i id v).pendThrEnd = t.pendThrEnd := by unfold Thread.reportT; split <;> rfl
@[simp] theorem Thread.reportT_sys : (t.reportT i id v).sys = t.sys := by unfold Thread.reportT; split <;> rfl
@[simp] theorem Thread.reportT_owner : (t.reportT i id v).owner = t.owner := by unfold Thread.reportT; split <;> rfl
@[simp] theorem Thread.reportT_life : (t.reportT i id v).life = t.life := by unfold Thread.reportT; split <;> rfl
@[simp] theorem Thread.reportT_seek : (t.reportT i id v).seek = t.seek := by unfold Thread.reportT; split <;> rfl
@[simp] theorem Thread.reportT_faultWaits : (t.reportT i id v).faultWaits = t.faultWaits := by unfold Thread.reportT; split <;> rfl
@[simp] theorem Thread.reportT_debugStep : (t.reportT i id v).debugStep = t.debugStep := by unfold Thread.reportT; split <;> rfl
@[simp] theorem Thread.reportT_wait : (t.reportT i id v).wait = t.wait := by unfold Thread.reportT; split <;> rfl
@[simp] theorem Thread.reportT_reconv : (t.reportT i id v).reconv = t.reconv := by unfold Thread.reportT; split <;> rfl
@[simp] theorem Thread.reportT_held : (t.reportT i id v).held = t.held := by unfold Thread.reportT; split <;> rfl
@[simp] theorem Thread.reportT_stood : (t.reportT i id v).stood = t.stood := by unfold Thread.reportT; split <;> rfl
@[simp] theorem Thread.reportT_loadDone : (t.reportT i id v).loadDone = t.loadDone := by unfold Thread.reportT; split <;> rfl
@[simp] theorem Thread.reportT_storeDone : (t.reportT i id v).storeDone = t.storeDone := by unfold Thread.reportT; split <;> rfl
@[simp] theorem Thread.reportT_farDone : (t.reportT i id v).farDone = t.farDone := by unfold Thread.reportT; split <;> rfl
@[simp] theorem Thread.reportT_yieldBar : (t.reportT i id v).yieldBar = t.yieldBar := by unfold Thread.reportT; split <;> rfl
@[simp] theorem Thread.reportT_since : (t.reportT i id v).since = t.since := by unfold Thread.reportT; split <;> rfl
@[simp] theorem Thread.reportT_together : (t.reportT i id v).together = t.together := by unfold Thread.reportT; split <;> rfl
@[simp] theorem Thread.reportT_acquire : (t.reportT i id v).acquire = t.acquire := by unfold Thread.reportT; split <;> rfl
@[simp] theorem Thread.reportT_walking : (t.reportT i id v).walking = t.walking := by unfold Thread.reportT; split <;> rfl
@[simp] theorem Thread.reportT_walked : (t.reportT i id v).walked = t.walked := by unfold Thread.reportT; split <;> rfl
@[simp] theorem Thread.reportT_pageHold : (t.reportT i id v).pageHold = t.pageHold := by unfold Thread.reportT; split <;> rfl
@[simp] theorem Thread.reportT_cowRefused : (t.reportT i id v).cowRefused = t.cowRefused := by unfold Thread.reportT; split <;> rfl
@[simp] theorem Thread.reportT_freshWalk : (t.reportT i id v).freshWalk = t.freshWalk := by unfold Thread.reportT; split <;> rfl
@[simp] theorem Thread.reportT_digestN : (t.reportT i id v).digestN = t.digestN := by unfold Thread.reportT; split <;> rfl
@[simp] theorem Thread.reportT_digestWords : (t.reportT i id v).digestWords = t.digestWords := by unfold Thread.reportT; split <;> rfl
@[simp] theorem Thread.reportT_prog : (t.reportT i id v).prog = t.prog := by unfold Thread.reportT; split <;> rfl

end

section

variable (t : Thread) (i id : Nat)

@[simp] theorem Thread.unbind_regs : (t.unbind i id).regs = t.regs := by unfold Thread.unbind; split <;> rfl
@[simp] theorem Thread.unbind_tags : (t.unbind i id).tags = t.tags := by unfold Thread.unbind; split <;> rfl
@[simp] theorem Thread.unbind_poison : (t.unbind i id).poison = t.poison := by unfold Thread.unbind; split <;> rfl
@[simp] theorem Thread.unbind_pend : (t.unbind i id).pend = t.pend := by unfold Thread.unbind; split <;> rfl
@[simp] theorem Thread.unbind_treg : (t.unbind i id).treg = t.treg := by unfold Thread.unbind; split <;> rfl
@[simp] theorem Thread.unbind_pc : (t.unbind i id).pc = t.pc := by unfold Thread.unbind; split <;> rfl
@[simp] theorem Thread.unbind_atHeader : (t.unbind i id).atHeader = t.atHeader := by unfold Thread.unbind; split <;> rfl
@[simp] theorem Thread.unbind_hdr : (t.unbind i id).hdr = t.hdr := by unfold Thread.unbind; split <;> rfl
@[simp] theorem Thread.unbind_hdrWord : (t.unbind i id).hdrWord = t.hdrWord := by unfold Thread.unbind; split <;> rfl
@[simp] theorem Thread.unbind_mode : (t.unbind i id).mode = t.mode := by unfold Thread.unbind; split <;> rfl
@[simp] theorem Thread.unbind_status : (t.unbind i id).status = t.status := by unfold Thread.unbind; split <;> rfl
@[simp] theorem Thread.unbind_latch : (t.unbind i id).latch = t.latch := by unfold Thread.unbind; split <;> rfl
@[simp] theorem Thread.unbind_loads : (t.unbind i id).loads = t.loads := by unfold Thread.unbind; split <;> rfl
@[simp] theorem Thread.unbind_stores : (t.unbind i id).stores = t.stores := by unfold Thread.unbind; split <;> rfl
@[simp] theorem Thread.unbind_copies : (t.unbind i id).copies = t.copies := by unfold Thread.unbind; split <;> rfl
@[simp] theorem Thread.unbind_passes : (t.unbind i id).passes = t.passes := by unfold Thread.unbind; split <;> rfl
@[simp] theorem Thread.unbind_late : (t.unbind i id).late = t.late := by unfold Thread.unbind; split <;> rfl
@[simp] theorem Thread.unbind_refusal : (t.unbind i id).refusal = t.refusal := by unfold Thread.unbind; split <;> rfl
@[simp] theorem Thread.unbind_pendLate : (t.unbind i id).pendLate = t.pendLate := by unfold Thread.unbind; split <;> rfl
@[simp] theorem Thread.unbind_pendThrStart : (t.unbind i id).pendThrStart = t.pendThrStart := by unfold Thread.unbind; split <;> rfl
@[simp] theorem Thread.unbind_pendThrEnd : (t.unbind i id).pendThrEnd = t.pendThrEnd := by unfold Thread.unbind; split <;> rfl
@[simp] theorem Thread.unbind_sys : (t.unbind i id).sys = t.sys := by unfold Thread.unbind; split <;> rfl
@[simp] theorem Thread.unbind_owner : (t.unbind i id).owner = t.owner := by unfold Thread.unbind; split <;> rfl
@[simp] theorem Thread.unbind_life : (t.unbind i id).life = t.life := by unfold Thread.unbind; split <;> rfl
@[simp] theorem Thread.unbind_seek : (t.unbind i id).seek = t.seek := by unfold Thread.unbind; split <;> rfl
@[simp] theorem Thread.unbind_faultWaits : (t.unbind i id).faultWaits = t.faultWaits := by unfold Thread.unbind; split <;> rfl
@[simp] theorem Thread.unbind_debugStep : (t.unbind i id).debugStep = t.debugStep := by unfold Thread.unbind; split <;> rfl
@[simp] theorem Thread.unbind_wait : (t.unbind i id).wait = t.wait := by unfold Thread.unbind; split <;> rfl
@[simp] theorem Thread.unbind_reconv : (t.unbind i id).reconv = t.reconv := by unfold Thread.unbind; split <;> rfl
@[simp] theorem Thread.unbind_held : (t.unbind i id).held = t.held := by unfold Thread.unbind; split <;> rfl
@[simp] theorem Thread.unbind_stood : (t.unbind i id).stood = t.stood := by unfold Thread.unbind; split <;> rfl
@[simp] theorem Thread.unbind_loadDone : (t.unbind i id).loadDone = t.loadDone := by unfold Thread.unbind; split <;> rfl
@[simp] theorem Thread.unbind_storeDone : (t.unbind i id).storeDone = t.storeDone := by unfold Thread.unbind; split <;> rfl
@[simp] theorem Thread.unbind_farDone : (t.unbind i id).farDone = t.farDone := by unfold Thread.unbind; split <;> rfl
@[simp] theorem Thread.unbind_yieldBar : (t.unbind i id).yieldBar = t.yieldBar := by unfold Thread.unbind; split <;> rfl
@[simp] theorem Thread.unbind_since : (t.unbind i id).since = t.since := by unfold Thread.unbind; split <;> rfl
@[simp] theorem Thread.unbind_together : (t.unbind i id).together = t.together := by unfold Thread.unbind; split <;> rfl
@[simp] theorem Thread.unbind_acquire : (t.unbind i id).acquire = t.acquire := by unfold Thread.unbind; split <;> rfl
@[simp] theorem Thread.unbind_walking : (t.unbind i id).walking = t.walking := by unfold Thread.unbind; split <;> rfl
@[simp] theorem Thread.unbind_walked : (t.unbind i id).walked = t.walked := by unfold Thread.unbind; split <;> rfl
@[simp] theorem Thread.unbind_pageHold : (t.unbind i id).pageHold = t.pageHold := by unfold Thread.unbind; split <;> rfl
@[simp] theorem Thread.unbind_cowRefused : (t.unbind i id).cowRefused = t.cowRefused := by unfold Thread.unbind; split <;> rfl
@[simp] theorem Thread.unbind_freshWalk : (t.unbind i id).freshWalk = t.freshWalk := by unfold Thread.unbind; split <;> rfl
@[simp] theorem Thread.unbind_digestN : (t.unbind i id).digestN = t.digestN := by unfold Thread.unbind; split <;> rfl
@[simp] theorem Thread.unbind_digestWords : (t.unbind i id).digestWords = t.digestWords := by unfold Thread.unbind; split <;> rfl
@[simp] theorem Thread.unbind_prog : (t.unbind i id).prog = t.prog := by unfold Thread.unbind; split <;> rfl

end

section

variable (t : Thread) (r n id : Nat)

@[simp] theorem Thread.mark_regs : (t.mark r n id).regs = t.regs := by unfold Thread.mark; split <;> rfl
@[simp] theorem Thread.mark_tags : (t.mark r n id).tags = t.tags := by unfold Thread.mark; split <;> rfl
@[simp] theorem Thread.mark_poison : (t.mark r n id).poison = t.poison := by unfold Thread.mark; split <;> rfl
@[simp] theorem Thread.mark_treg : (t.mark r n id).treg = t.treg := by unfold Thread.mark; split <;> rfl
@[simp] theorem Thread.mark_bound : (t.mark r n id).bound = t.bound := by unfold Thread.mark; split <;> rfl
@[simp] theorem Thread.mark_pc : (t.mark r n id).pc = t.pc := by unfold Thread.mark; split <;> rfl
@[simp] theorem Thread.mark_atHeader : (t.mark r n id).atHeader = t.atHeader := by unfold Thread.mark; split <;> rfl
@[simp] theorem Thread.mark_hdr : (t.mark r n id).hdr = t.hdr := by unfold Thread.mark; split <;> rfl
@[simp] theorem Thread.mark_hdrWord : (t.mark r n id).hdrWord = t.hdrWord := by unfold Thread.mark; split <;> rfl
@[simp] theorem Thread.mark_mode : (t.mark r n id).mode = t.mode := by unfold Thread.mark; split <;> rfl
@[simp] theorem Thread.mark_status : (t.mark r n id).status = t.status := by unfold Thread.mark; split <;> rfl
@[simp] theorem Thread.mark_latch : (t.mark r n id).latch = t.latch := by unfold Thread.mark; split <;> rfl
@[simp] theorem Thread.mark_loads : (t.mark r n id).loads = t.loads := by unfold Thread.mark; split <;> rfl
@[simp] theorem Thread.mark_stores : (t.mark r n id).stores = t.stores := by unfold Thread.mark; split <;> rfl
@[simp] theorem Thread.mark_copies : (t.mark r n id).copies = t.copies := by unfold Thread.mark; split <;> rfl
@[simp] theorem Thread.mark_passes : (t.mark r n id).passes = t.passes := by unfold Thread.mark; split <;> rfl
@[simp] theorem Thread.mark_late : (t.mark r n id).late = t.late := by unfold Thread.mark; split <;> rfl
@[simp] theorem Thread.mark_refusal : (t.mark r n id).refusal = t.refusal := by unfold Thread.mark; split <;> rfl
@[simp] theorem Thread.mark_pendLate : (t.mark r n id).pendLate = t.pendLate := by unfold Thread.mark; split <;> rfl
@[simp] theorem Thread.mark_pendThrStart : (t.mark r n id).pendThrStart = t.pendThrStart := by unfold Thread.mark; split <;> rfl
@[simp] theorem Thread.mark_pendThrEnd : (t.mark r n id).pendThrEnd = t.pendThrEnd := by unfold Thread.mark; split <;> rfl
@[simp] theorem Thread.mark_sys : (t.mark r n id).sys = t.sys := by unfold Thread.mark; split <;> rfl
@[simp] theorem Thread.mark_owner : (t.mark r n id).owner = t.owner := by unfold Thread.mark; split <;> rfl
@[simp] theorem Thread.mark_life : (t.mark r n id).life = t.life := by unfold Thread.mark; split <;> rfl
@[simp] theorem Thread.mark_seek : (t.mark r n id).seek = t.seek := by unfold Thread.mark; split <;> rfl
@[simp] theorem Thread.mark_faultWaits : (t.mark r n id).faultWaits = t.faultWaits := by unfold Thread.mark; split <;> rfl
@[simp] theorem Thread.mark_debugStep : (t.mark r n id).debugStep = t.debugStep := by unfold Thread.mark; split <;> rfl
@[simp] theorem Thread.mark_wait : (t.mark r n id).wait = t.wait := by unfold Thread.mark; split <;> rfl
@[simp] theorem Thread.mark_reconv : (t.mark r n id).reconv = t.reconv := by unfold Thread.mark; split <;> rfl
@[simp] theorem Thread.mark_held : (t.mark r n id).held = t.held := by unfold Thread.mark; split <;> rfl
@[simp] theorem Thread.mark_stood : (t.mark r n id).stood = t.stood := by unfold Thread.mark; split <;> rfl
@[simp] theorem Thread.mark_loadDone : (t.mark r n id).loadDone = t.loadDone := by unfold Thread.mark; split <;> rfl
@[simp] theorem Thread.mark_storeDone : (t.mark r n id).storeDone = t.storeDone := by unfold Thread.mark; split <;> rfl
@[simp] theorem Thread.mark_farDone : (t.mark r n id).farDone = t.farDone := by unfold Thread.mark; split <;> rfl
@[simp] theorem Thread.mark_yieldBar : (t.mark r n id).yieldBar = t.yieldBar := by unfold Thread.mark; split <;> rfl
@[simp] theorem Thread.mark_since : (t.mark r n id).since = t.since := by unfold Thread.mark; split <;> rfl
@[simp] theorem Thread.mark_together : (t.mark r n id).together = t.together := by unfold Thread.mark; split <;> rfl
@[simp] theorem Thread.mark_acquire : (t.mark r n id).acquire = t.acquire := by unfold Thread.mark; split <;> rfl
@[simp] theorem Thread.mark_walking : (t.mark r n id).walking = t.walking := by unfold Thread.mark; split <;> rfl
@[simp] theorem Thread.mark_walked : (t.mark r n id).walked = t.walked := by unfold Thread.mark; split <;> rfl
@[simp] theorem Thread.mark_pageHold : (t.mark r n id).pageHold = t.pageHold := by unfold Thread.mark; split <;> rfl
@[simp] theorem Thread.mark_cowRefused : (t.mark r n id).cowRefused = t.cowRefused := by unfold Thread.mark; split <;> rfl
@[simp] theorem Thread.mark_freshWalk : (t.mark r n id).freshWalk = t.freshWalk := by unfold Thread.mark; split <;> rfl
@[simp] theorem Thread.mark_digestN : (t.mark r n id).digestN = t.digestN := by unfold Thread.mark; split <;> rfl
@[simp] theorem Thread.mark_digestWords : (t.mark r n id).digestWords = t.digestWords := by unfold Thread.mark; split <;> rfl
@[simp] theorem Thread.mark_prog : (t.mark r n id).prog = t.prog := by unfold Thread.mark; split <;> rfl

end

section

variable (t : Thread) (id : Nat)

@[simp] theorem Thread.unmark_regs : (t.unmark id).regs = t.regs := rfl
@[simp] theorem Thread.unmark_tags : (t.unmark id).tags = t.tags := rfl
@[simp] theorem Thread.unmark_poison : (t.unmark id).poison = t.poison := rfl
@[simp] theorem Thread.unmark_treg : (t.unmark id).treg = t.treg := rfl
@[simp] theorem Thread.unmark_bound : (t.unmark id).bound = t.bound := rfl
@[simp] theorem Thread.unmark_pc : (t.unmark id).pc = t.pc := rfl
@[simp] theorem Thread.unmark_atHeader : (t.unmark id).atHeader = t.atHeader := rfl
@[simp] theorem Thread.unmark_hdr : (t.unmark id).hdr = t.hdr := rfl
@[simp] theorem Thread.unmark_hdrWord : (t.unmark id).hdrWord = t.hdrWord := rfl
@[simp] theorem Thread.unmark_mode : (t.unmark id).mode = t.mode := rfl
@[simp] theorem Thread.unmark_status : (t.unmark id).status = t.status := rfl
@[simp] theorem Thread.unmark_latch : (t.unmark id).latch = t.latch := rfl
@[simp] theorem Thread.unmark_loads : (t.unmark id).loads = t.loads := rfl
@[simp] theorem Thread.unmark_stores : (t.unmark id).stores = t.stores := rfl
@[simp] theorem Thread.unmark_copies : (t.unmark id).copies = t.copies := rfl
@[simp] theorem Thread.unmark_passes : (t.unmark id).passes = t.passes := rfl
@[simp] theorem Thread.unmark_late : (t.unmark id).late = t.late := rfl
@[simp] theorem Thread.unmark_refusal : (t.unmark id).refusal = t.refusal := rfl
@[simp] theorem Thread.unmark_pendLate : (t.unmark id).pendLate = t.pendLate := rfl
@[simp] theorem Thread.unmark_pendThrStart : (t.unmark id).pendThrStart = t.pendThrStart := rfl
@[simp] theorem Thread.unmark_pendThrEnd : (t.unmark id).pendThrEnd = t.pendThrEnd := rfl
@[simp] theorem Thread.unmark_sys : (t.unmark id).sys = t.sys := rfl
@[simp] theorem Thread.unmark_owner : (t.unmark id).owner = t.owner := rfl
@[simp] theorem Thread.unmark_life : (t.unmark id).life = t.life := rfl
@[simp] theorem Thread.unmark_seek : (t.unmark id).seek = t.seek := rfl
@[simp] theorem Thread.unmark_faultWaits : (t.unmark id).faultWaits = t.faultWaits := rfl
@[simp] theorem Thread.unmark_debugStep : (t.unmark id).debugStep = t.debugStep := rfl
@[simp] theorem Thread.unmark_wait : (t.unmark id).wait = t.wait := rfl
@[simp] theorem Thread.unmark_reconv : (t.unmark id).reconv = t.reconv := rfl
@[simp] theorem Thread.unmark_held : (t.unmark id).held = t.held := rfl
@[simp] theorem Thread.unmark_stood : (t.unmark id).stood = t.stood := rfl
@[simp] theorem Thread.unmark_loadDone : (t.unmark id).loadDone = t.loadDone := rfl
@[simp] theorem Thread.unmark_storeDone : (t.unmark id).storeDone = t.storeDone := rfl
@[simp] theorem Thread.unmark_farDone : (t.unmark id).farDone = t.farDone := rfl
@[simp] theorem Thread.unmark_yieldBar : (t.unmark id).yieldBar = t.yieldBar := rfl
@[simp] theorem Thread.unmark_since : (t.unmark id).since = t.since := rfl
@[simp] theorem Thread.unmark_together : (t.unmark id).together = t.together := rfl
@[simp] theorem Thread.unmark_acquire : (t.unmark id).acquire = t.acquire := rfl
@[simp] theorem Thread.unmark_walking : (t.unmark id).walking = t.walking := rfl
@[simp] theorem Thread.unmark_walked : (t.unmark id).walked = t.walked := rfl
@[simp] theorem Thread.unmark_pageHold : (t.unmark id).pageHold = t.pageHold := rfl
@[simp] theorem Thread.unmark_cowRefused : (t.unmark id).cowRefused = t.cowRefused := rfl
@[simp] theorem Thread.unmark_freshWalk : (t.unmark id).freshWalk = t.freshWalk := rfl
@[simp] theorem Thread.unmark_digestN : (t.unmark id).digestN = t.digestN := rfl
@[simp] theorem Thread.unmark_digestWords : (t.unmark id).digestWords = t.digestWords := rfl
@[simp] theorem Thread.unmark_prog : (t.unmark id).prog = t.prog := rfl

end

section

variable (t : Thread) (r n : Nat)

@[simp] theorem Thread.markPoison_regs : (t.markPoison r n).regs = t.regs := by unfold Thread.markPoison; split <;> rfl
@[simp] theorem Thread.markPoison_tags : (t.markPoison r n).tags = t.tags := by unfold Thread.markPoison; split <;> rfl
@[simp] theorem Thread.markPoison_pend : (t.markPoison r n).pend = t.pend := by unfold Thread.markPoison; split <;> rfl
@[simp] theorem Thread.markPoison_treg : (t.markPoison r n).treg = t.treg := by unfold Thread.markPoison; split <;> rfl
@[simp] theorem Thread.markPoison_bound : (t.markPoison r n).bound = t.bound := by unfold Thread.markPoison; split <;> rfl
@[simp] theorem Thread.markPoison_pc : (t.markPoison r n).pc = t.pc := by unfold Thread.markPoison; split <;> rfl
@[simp] theorem Thread.markPoison_atHeader : (t.markPoison r n).atHeader = t.atHeader := by unfold Thread.markPoison; split <;> rfl
@[simp] theorem Thread.markPoison_hdr : (t.markPoison r n).hdr = t.hdr := by unfold Thread.markPoison; split <;> rfl
@[simp] theorem Thread.markPoison_hdrWord : (t.markPoison r n).hdrWord = t.hdrWord := by unfold Thread.markPoison; split <;> rfl
@[simp] theorem Thread.markPoison_mode : (t.markPoison r n).mode = t.mode := by unfold Thread.markPoison; split <;> rfl
@[simp] theorem Thread.markPoison_status : (t.markPoison r n).status = t.status := by unfold Thread.markPoison; split <;> rfl
@[simp] theorem Thread.markPoison_latch : (t.markPoison r n).latch = t.latch := by unfold Thread.markPoison; split <;> rfl
@[simp] theorem Thread.markPoison_loads : (t.markPoison r n).loads = t.loads := by unfold Thread.markPoison; split <;> rfl
@[simp] theorem Thread.markPoison_stores : (t.markPoison r n).stores = t.stores := by unfold Thread.markPoison; split <;> rfl
@[simp] theorem Thread.markPoison_copies : (t.markPoison r n).copies = t.copies := by unfold Thread.markPoison; split <;> rfl
@[simp] theorem Thread.markPoison_passes : (t.markPoison r n).passes = t.passes := by unfold Thread.markPoison; split <;> rfl
@[simp] theorem Thread.markPoison_late : (t.markPoison r n).late = t.late := by unfold Thread.markPoison; split <;> rfl
@[simp] theorem Thread.markPoison_refusal : (t.markPoison r n).refusal = t.refusal := by unfold Thread.markPoison; split <;> rfl
@[simp] theorem Thread.markPoison_pendLate : (t.markPoison r n).pendLate = t.pendLate := by unfold Thread.markPoison; split <;> rfl
@[simp] theorem Thread.markPoison_pendThrStart : (t.markPoison r n).pendThrStart = t.pendThrStart := by unfold Thread.markPoison; split <;> rfl
@[simp] theorem Thread.markPoison_pendThrEnd : (t.markPoison r n).pendThrEnd = t.pendThrEnd := by unfold Thread.markPoison; split <;> rfl
@[simp] theorem Thread.markPoison_sys : (t.markPoison r n).sys = t.sys := by unfold Thread.markPoison; split <;> rfl
@[simp] theorem Thread.markPoison_owner : (t.markPoison r n).owner = t.owner := by unfold Thread.markPoison; split <;> rfl
@[simp] theorem Thread.markPoison_life : (t.markPoison r n).life = t.life := by unfold Thread.markPoison; split <;> rfl
@[simp] theorem Thread.markPoison_seek : (t.markPoison r n).seek = t.seek := by unfold Thread.markPoison; split <;> rfl
@[simp] theorem Thread.markPoison_faultWaits : (t.markPoison r n).faultWaits = t.faultWaits := by unfold Thread.markPoison; split <;> rfl
@[simp] theorem Thread.markPoison_debugStep : (t.markPoison r n).debugStep = t.debugStep := by unfold Thread.markPoison; split <;> rfl
@[simp] theorem Thread.markPoison_wait : (t.markPoison r n).wait = t.wait := by unfold Thread.markPoison; split <;> rfl
@[simp] theorem Thread.markPoison_reconv : (t.markPoison r n).reconv = t.reconv := by unfold Thread.markPoison; split <;> rfl
@[simp] theorem Thread.markPoison_held : (t.markPoison r n).held = t.held := by unfold Thread.markPoison; split <;> rfl
@[simp] theorem Thread.markPoison_stood : (t.markPoison r n).stood = t.stood := by unfold Thread.markPoison; split <;> rfl
@[simp] theorem Thread.markPoison_loadDone : (t.markPoison r n).loadDone = t.loadDone := by unfold Thread.markPoison; split <;> rfl
@[simp] theorem Thread.markPoison_storeDone : (t.markPoison r n).storeDone = t.storeDone := by unfold Thread.markPoison; split <;> rfl
@[simp] theorem Thread.markPoison_farDone : (t.markPoison r n).farDone = t.farDone := by unfold Thread.markPoison; split <;> rfl
@[simp] theorem Thread.markPoison_yieldBar : (t.markPoison r n).yieldBar = t.yieldBar := by unfold Thread.markPoison; split <;> rfl
@[simp] theorem Thread.markPoison_since : (t.markPoison r n).since = t.since := by unfold Thread.markPoison; split <;> rfl
@[simp] theorem Thread.markPoison_together : (t.markPoison r n).together = t.together := by unfold Thread.markPoison; split <;> rfl
@[simp] theorem Thread.markPoison_acquire : (t.markPoison r n).acquire = t.acquire := by unfold Thread.markPoison; split <;> rfl
@[simp] theorem Thread.markPoison_walking : (t.markPoison r n).walking = t.walking := by unfold Thread.markPoison; split <;> rfl
@[simp] theorem Thread.markPoison_walked : (t.markPoison r n).walked = t.walked := by unfold Thread.markPoison; split <;> rfl
@[simp] theorem Thread.markPoison_pageHold : (t.markPoison r n).pageHold = t.pageHold := by unfold Thread.markPoison; split <;> rfl
@[simp] theorem Thread.markPoison_cowRefused : (t.markPoison r n).cowRefused = t.cowRefused := by unfold Thread.markPoison; split <;> rfl
@[simp] theorem Thread.markPoison_freshWalk : (t.markPoison r n).freshWalk = t.freshWalk := by unfold Thread.markPoison; split <;> rfl
@[simp] theorem Thread.markPoison_digestN : (t.markPoison r n).digestN = t.digestN := by unfold Thread.markPoison; split <;> rfl
@[simp] theorem Thread.markPoison_digestWords : (t.markPoison r n).digestWords = t.digestWords := by unfold Thread.markPoison; split <;> rfl
@[simp] theorem Thread.markPoison_prog : (t.markPoison r n).prog = t.prog := by unfold Thread.markPoison; split <;> rfl

end

section

variable (t : Thread) (c : Counter)

@[simp] theorem Thread.count_regs : (t.count c).regs = t.regs := by cases c <;> rfl
@[simp] theorem Thread.count_tags : (t.count c).tags = t.tags := by cases c <;> rfl
@[simp] theorem Thread.count_poison : (t.count c).poison = t.poison := by cases c <;> rfl
@[simp] theorem Thread.count_pend : (t.count c).pend = t.pend := by cases c <;> rfl
@[simp] theorem Thread.count_treg : (t.count c).treg = t.treg := by cases c <;> rfl
@[simp] theorem Thread.count_bound : (t.count c).bound = t.bound := by cases c <;> rfl
@[simp] theorem Thread.count_pc : (t.count c).pc = t.pc := by cases c <;> rfl
@[simp] theorem Thread.count_atHeader : (t.count c).atHeader = t.atHeader := by cases c <;> rfl
@[simp] theorem Thread.count_hdr : (t.count c).hdr = t.hdr := by cases c <;> rfl
@[simp] theorem Thread.count_hdrWord : (t.count c).hdrWord = t.hdrWord := by cases c <;> rfl
@[simp] theorem Thread.count_mode : (t.count c).mode = t.mode := by cases c <;> rfl
@[simp] theorem Thread.count_status : (t.count c).status = t.status := by cases c <;> rfl
@[simp] theorem Thread.count_latch : (t.count c).latch = t.latch := by cases c <;> rfl
@[simp] theorem Thread.count_passes : (t.count c).passes = t.passes := by cases c <;> rfl
@[simp] theorem Thread.count_late : (t.count c).late = t.late := by cases c <;> rfl
@[simp] theorem Thread.count_refusal : (t.count c).refusal = t.refusal := by cases c <;> rfl
@[simp] theorem Thread.count_pendLate : (t.count c).pendLate = t.pendLate := by cases c <;> rfl
@[simp] theorem Thread.count_pendThrStart : (t.count c).pendThrStart = t.pendThrStart := by cases c <;> rfl
@[simp] theorem Thread.count_pendThrEnd : (t.count c).pendThrEnd = t.pendThrEnd := by cases c <;> rfl
@[simp] theorem Thread.count_sys : (t.count c).sys = t.sys := by cases c <;> rfl
@[simp] theorem Thread.count_owner : (t.count c).owner = t.owner := by cases c <;> rfl
@[simp] theorem Thread.count_life : (t.count c).life = t.life := by cases c <;> rfl
@[simp] theorem Thread.count_seek : (t.count c).seek = t.seek := by cases c <;> rfl
@[simp] theorem Thread.count_faultWaits : (t.count c).faultWaits = t.faultWaits := by cases c <;> rfl
@[simp] theorem Thread.count_debugStep : (t.count c).debugStep = t.debugStep := by cases c <;> rfl
@[simp] theorem Thread.count_wait : (t.count c).wait = t.wait := by cases c <;> rfl
@[simp] theorem Thread.count_reconv : (t.count c).reconv = t.reconv := by cases c <;> rfl
@[simp] theorem Thread.count_held : (t.count c).held = t.held := by cases c <;> rfl
@[simp] theorem Thread.count_stood : (t.count c).stood = t.stood := by cases c <;> rfl
@[simp] theorem Thread.count_loadDone : (t.count c).loadDone = t.loadDone := by cases c <;> rfl
@[simp] theorem Thread.count_storeDone : (t.count c).storeDone = t.storeDone := by cases c <;> rfl
@[simp] theorem Thread.count_farDone : (t.count c).farDone = t.farDone := by cases c <;> rfl
@[simp] theorem Thread.count_yieldBar : (t.count c).yieldBar = t.yieldBar := by cases c <;> rfl
@[simp] theorem Thread.count_since : (t.count c).since = t.since := by cases c <;> rfl
@[simp] theorem Thread.count_together : (t.count c).together = t.together := by cases c <;> rfl
@[simp] theorem Thread.count_acquire : (t.count c).acquire = t.acquire := by cases c <;> rfl
@[simp] theorem Thread.count_walking : (t.count c).walking = t.walking := by cases c <;> rfl
@[simp] theorem Thread.count_walked : (t.count c).walked = t.walked := by cases c <;> rfl
@[simp] theorem Thread.count_pageHold : (t.count c).pageHold = t.pageHold := by cases c <;> rfl
@[simp] theorem Thread.count_cowRefused : (t.count c).cowRefused = t.cowRefused := by cases c <;> rfl
@[simp] theorem Thread.count_freshWalk : (t.count c).freshWalk = t.freshWalk := by cases c <;> rfl
@[simp] theorem Thread.count_digestN : (t.count c).digestN = t.digestN := by cases c <;> rfl
@[simp] theorem Thread.count_digestWords : (t.count c).digestWords = t.digestWords := by cases c <;> rfl
@[simp] theorem Thread.count_prog : (t.count c).prog = t.prog := by cases c <;> rfl

end

section

variable (t : Thread) (c : Counter)

@[simp] theorem Thread.uncount_regs : (t.uncount c).regs = t.regs := by cases c <;> rfl
@[simp] theorem Thread.uncount_tags : (t.uncount c).tags = t.tags := by cases c <;> rfl
@[simp] theorem Thread.uncount_poison : (t.uncount c).poison = t.poison := by cases c <;> rfl
@[simp] theorem Thread.uncount_pend : (t.uncount c).pend = t.pend := by cases c <;> rfl
@[simp] theorem Thread.uncount_treg : (t.uncount c).treg = t.treg := by cases c <;> rfl
@[simp] theorem Thread.uncount_bound : (t.uncount c).bound = t.bound := by cases c <;> rfl
@[simp] theorem Thread.uncount_pc : (t.uncount c).pc = t.pc := by cases c <;> rfl
@[simp] theorem Thread.uncount_atHeader : (t.uncount c).atHeader = t.atHeader := by cases c <;> rfl
@[simp] theorem Thread.uncount_hdr : (t.uncount c).hdr = t.hdr := by cases c <;> rfl
@[simp] theorem Thread.uncount_hdrWord : (t.uncount c).hdrWord = t.hdrWord := by cases c <;> rfl
@[simp] theorem Thread.uncount_mode : (t.uncount c).mode = t.mode := by cases c <;> rfl
@[simp] theorem Thread.uncount_status : (t.uncount c).status = t.status := by cases c <;> rfl
@[simp] theorem Thread.uncount_latch : (t.uncount c).latch = t.latch := by cases c <;> rfl
@[simp] theorem Thread.uncount_passes : (t.uncount c).passes = t.passes := by cases c <;> rfl
@[simp] theorem Thread.uncount_late : (t.uncount c).late = t.late := by cases c <;> rfl
@[simp] theorem Thread.uncount_refusal : (t.uncount c).refusal = t.refusal := by cases c <;> rfl
@[simp] theorem Thread.uncount_pendLate : (t.uncount c).pendLate = t.pendLate := by cases c <;> rfl
@[simp] theorem Thread.uncount_pendThrStart : (t.uncount c).pendThrStart = t.pendThrStart := by cases c <;> rfl
@[simp] theorem Thread.uncount_pendThrEnd : (t.uncount c).pendThrEnd = t.pendThrEnd := by cases c <;> rfl
@[simp] theorem Thread.uncount_sys : (t.uncount c).sys = t.sys := by cases c <;> rfl
@[simp] theorem Thread.uncount_owner : (t.uncount c).owner = t.owner := by cases c <;> rfl
@[simp] theorem Thread.uncount_life : (t.uncount c).life = t.life := by cases c <;> rfl
@[simp] theorem Thread.uncount_seek : (t.uncount c).seek = t.seek := by cases c <;> rfl
@[simp] theorem Thread.uncount_faultWaits : (t.uncount c).faultWaits = t.faultWaits := by cases c <;> rfl
@[simp] theorem Thread.uncount_debugStep : (t.uncount c).debugStep = t.debugStep := by cases c <;> rfl
@[simp] theorem Thread.uncount_wait : (t.uncount c).wait = t.wait := by cases c <;> rfl
@[simp] theorem Thread.uncount_reconv : (t.uncount c).reconv = t.reconv := by cases c <;> rfl
@[simp] theorem Thread.uncount_held : (t.uncount c).held = t.held := by cases c <;> rfl
@[simp] theorem Thread.uncount_stood : (t.uncount c).stood = t.stood := by cases c <;> rfl
@[simp] theorem Thread.uncount_loadDone : (t.uncount c).loadDone = t.loadDone := by cases c <;> rfl
@[simp] theorem Thread.uncount_storeDone : (t.uncount c).storeDone = t.storeDone := by cases c <;> rfl
@[simp] theorem Thread.uncount_farDone : (t.uncount c).farDone = t.farDone := by cases c <;> rfl
@[simp] theorem Thread.uncount_yieldBar : (t.uncount c).yieldBar = t.yieldBar := by cases c <;> rfl
@[simp] theorem Thread.uncount_since : (t.uncount c).since = t.since := by cases c <;> rfl
@[simp] theorem Thread.uncount_together : (t.uncount c).together = t.together := by cases c <;> rfl
@[simp] theorem Thread.uncount_acquire : (t.uncount c).acquire = t.acquire := by cases c <;> rfl
@[simp] theorem Thread.uncount_walking : (t.uncount c).walking = t.walking := by cases c <;> rfl
@[simp] theorem Thread.uncount_walked : (t.uncount c).walked = t.walked := by cases c <;> rfl
@[simp] theorem Thread.uncount_pageHold : (t.uncount c).pageHold = t.pageHold := by cases c <;> rfl
@[simp] theorem Thread.uncount_cowRefused : (t.uncount c).cowRefused = t.cowRefused := by cases c <;> rfl
@[simp] theorem Thread.uncount_freshWalk : (t.uncount c).freshWalk = t.freshWalk := by cases c <;> rfl
@[simp] theorem Thread.uncount_digestN : (t.uncount c).digestN = t.digestN := by cases c <;> rfl
@[simp] theorem Thread.uncount_digestWords : (t.uncount c).digestWords = t.digestWords := by cases c <;> rfl
@[simp] theorem Thread.uncount_prog : (t.uncount c).prog = t.prog := by cases c <;> rfl

end

section

variable (t : Thread) (m : Word)

@[simp] theorem Thread.setStatus_regs : (t.setStatus m).regs = t.regs := rfl
@[simp] theorem Thread.setStatus_tags : (t.setStatus m).tags = t.tags := rfl
@[simp] theorem Thread.setStatus_poison : (t.setStatus m).poison = t.poison := rfl
@[simp] theorem Thread.setStatus_pend : (t.setStatus m).pend = t.pend := rfl
@[simp] theorem Thread.setStatus_treg : (t.setStatus m).treg = t.treg := rfl
@[simp] theorem Thread.setStatus_bound : (t.setStatus m).bound = t.bound := rfl
@[simp] theorem Thread.setStatus_pc : (t.setStatus m).pc = t.pc := rfl
@[simp] theorem Thread.setStatus_atHeader : (t.setStatus m).atHeader = t.atHeader := rfl
@[simp] theorem Thread.setStatus_hdr : (t.setStatus m).hdr = t.hdr := rfl
@[simp] theorem Thread.setStatus_hdrWord : (t.setStatus m).hdrWord = t.hdrWord := rfl
@[simp] theorem Thread.setStatus_mode : (t.setStatus m).mode = t.mode := rfl
@[simp] theorem Thread.setStatus_latch : (t.setStatus m).latch = t.latch := rfl
@[simp] theorem Thread.setStatus_loads : (t.setStatus m).loads = t.loads := rfl
@[simp] theorem Thread.setStatus_stores : (t.setStatus m).stores = t.stores := rfl
@[simp] theorem Thread.setStatus_copies : (t.setStatus m).copies = t.copies := rfl
@[simp] theorem Thread.setStatus_passes : (t.setStatus m).passes = t.passes := rfl
@[simp] theorem Thread.setStatus_late : (t.setStatus m).late = t.late := rfl
@[simp] theorem Thread.setStatus_refusal : (t.setStatus m).refusal = t.refusal := rfl
@[simp] theorem Thread.setStatus_pendLate : (t.setStatus m).pendLate = t.pendLate := rfl
@[simp] theorem Thread.setStatus_pendThrStart : (t.setStatus m).pendThrStart = t.pendThrStart := rfl
@[simp] theorem Thread.setStatus_pendThrEnd : (t.setStatus m).pendThrEnd = t.pendThrEnd := rfl
@[simp] theorem Thread.setStatus_sys : (t.setStatus m).sys = t.sys := rfl
@[simp] theorem Thread.setStatus_owner : (t.setStatus m).owner = t.owner := rfl
@[simp] theorem Thread.setStatus_life : (t.setStatus m).life = t.life := rfl
@[simp] theorem Thread.setStatus_seek : (t.setStatus m).seek = t.seek := rfl
@[simp] theorem Thread.setStatus_faultWaits : (t.setStatus m).faultWaits = t.faultWaits := rfl
@[simp] theorem Thread.setStatus_debugStep : (t.setStatus m).debugStep = t.debugStep := rfl
@[simp] theorem Thread.setStatus_wait : (t.setStatus m).wait = t.wait := rfl
@[simp] theorem Thread.setStatus_reconv : (t.setStatus m).reconv = t.reconv := rfl
@[simp] theorem Thread.setStatus_held : (t.setStatus m).held = t.held := rfl
@[simp] theorem Thread.setStatus_stood : (t.setStatus m).stood = t.stood := rfl
@[simp] theorem Thread.setStatus_loadDone : (t.setStatus m).loadDone = t.loadDone := rfl
@[simp] theorem Thread.setStatus_storeDone : (t.setStatus m).storeDone = t.storeDone := rfl
@[simp] theorem Thread.setStatus_farDone : (t.setStatus m).farDone = t.farDone := rfl
@[simp] theorem Thread.setStatus_yieldBar : (t.setStatus m).yieldBar = t.yieldBar := rfl
@[simp] theorem Thread.setStatus_since : (t.setStatus m).since = t.since := rfl
@[simp] theorem Thread.setStatus_together : (t.setStatus m).together = t.together := rfl
@[simp] theorem Thread.setStatus_acquire : (t.setStatus m).acquire = t.acquire := rfl
@[simp] theorem Thread.setStatus_walking : (t.setStatus m).walking = t.walking := rfl
@[simp] theorem Thread.setStatus_walked : (t.setStatus m).walked = t.walked := rfl
@[simp] theorem Thread.setStatus_pageHold : (t.setStatus m).pageHold = t.pageHold := rfl
@[simp] theorem Thread.setStatus_cowRefused : (t.setStatus m).cowRefused = t.cowRefused := rfl
@[simp] theorem Thread.setStatus_freshWalk : (t.setStatus m).freshWalk = t.freshWalk := rfl
@[simp] theorem Thread.setStatus_digestN : (t.setStatus m).digestN = t.digestN := rfl
@[simp] theorem Thread.setStatus_digestWords : (t.setStatus m).digestWords = t.digestWords := rfl
@[simp] theorem Thread.setStatus_prog : (t.setStatus m).prog = t.prog := rfl

end

end Sys2Proof.Machine
end

