-- ==== Sys2Proof/Laws/Issue.lean ====
section
/-! SUPPORT. What a word does that one thread executes: one lemma for each form of a meaning. -/

namespace Sys2Proof.Machine

/-- A thread that may run exists. -/
theorem mayRun_some {s : State} {k : Nat} (h : mayRun s k = true) : ∃ t, nfind s.threads k = some t := by
  unfold mayRun at h
  split at h
  · simp at h
  · exact ⟨_, by assumption⟩

/-- The thread that is found is the one that `thr` answers. -/
theorem thr_of_find {s : State} {k : Nat} {t : Thread} (h : nfind s.threads k = some t) : s.thr k = t := by simp [State.thr, nget, h]

/-- A change of a thread may be given by its value. -/
theorem modThr_eq (s : State) (k : Nat) (f : Thread → Thread) (u : Thread) (h : f (s.thr k) = u) :
    s.modThr k f = s.modThr k fun _ => u := by
  simp only [State.modThr]
  rw [nmod_congr s.threads k f (fun _ => u)]
  intro v hv
  rw [← h, thr_of_find hv]

/-- The changed thread, and the others. -/
theorem modThr_thr_self {s : State} {k : Nat} (f : Thread → Thread) (h : mayRun s k = true) : (s.modThr k f).thr k = f (s.thr k) := by
  obtain ⟨t, ht⟩ := mayRun_some h
  simp [State.thr, nget, nfind_nmod_self, ht]

theorem modThr_thr_ne (s : State) {k j : Nat} (f : Thread → Thread) (h : j ≠ k) : (s.modThr k f).thr j = s.thr j := by
  simp [State.thr, nget, nfind_nmod_ne _ _ h]

/-- The threads of a beat that is one thread's. -/
theorem screen_alone {s : State} {k op : Nat} {f : Fields} (h : Alone s k op f) : screen op f s.beat.threads s = (s, [k]) := by
  obtain ⟨-, hb, hr, ht, ho, hg⟩ := h
  simp [hb, screen, hr, ht, ho, hg]

/-- A word that acts and goes on. -/
theorem issue_go {s s' : State} {k op : Nat} {f : Fields} {body : Nat → State → Act} (h : Alone s k op f) (hb : body k s = .go s') :
    issue op f body s = .next (wentOn op f s k s') := by
  obtain ⟨t, ht⟩ := mayRun_some h.2.2.1
  unfold issue
  rw [screen_alone h]
  simp [turn, ht, h.1, hb, settle, wentOn]

/-- A word that goes to a block start; it draws nothing. -/
theorem issue_to {s s' : State} {k op n : Nat} {f : Fields} {body : Nat → State → Act} (h : Alone s k op f) (hb : body k s = .to s' n)
    (hd : draws op f = false) : issue op f body s = .next (wentTo op f s k n s') := by
  obtain ⟨t, ht⟩ := mayRun_some h.2.2.1
  unfold issue
  rw [screen_alone h]
  simp [turn, ht, h.1, hb, settle, wentTo, stepRows, hd]

/-- A word that settles its thread itself; it draws nothing. -/
theorem issue_set {s s' : State} {k op : Nat} {f : Fields} {body : Nat → State → Act} (h : Alone s k op f) (hb : body k s = .set s')
    (hd : draws op f = false) : issue op f body s = .next (noteWord op f s k none s') := by
  obtain ⟨t, ht⟩ := mayRun_some h.2.2.1
  unfold issue
  rw [screen_alone h]
  simp [turn, ht, h.1, hb, settle, stepRows, hd]

/-- A word that waits. -/
theorem issue_stay {s s' : State} {k op : Nat} {f : Fields} {body : Nat → State → Act} (h : Alone s k op f) (hb : body k s = .stay s')
    (hd : draws op f = false) : issue op f body s = .next s' := by
  obtain ⟨t, ht⟩ := mayRun_some h.2.2.1
  unfold issue
  rw [screen_alone h]
  simp [turn, ht, h.1, hb, stepRows, hd]

/-- A word that faults; it draws nothing. -/
theorem issue_fault {s : State} {k op : Nat} {f : Fields} {body : Nat → State → Act} {x : Flt} (h : Alone s k op f)
    (hb : body k s = .fault x) (hd : draws op f = false) : issue op f body s = .next (takeFlt s k x) := by
  obtain ⟨t, ht⟩ := mayRun_some h.2.2.1
  unfold issue
  rw [screen_alone h]
  simp [turn, ht, h.1, hb, stepRows, hd]

/-- A register word, which acts and goes on. -/
theorem issue_regs {s : State} {k op : Nat} {f : Fields} {g : Nat → State → Thread → Thread} (h : Alone s k op f) :
    issue op f (regs g) s = .next (wentOn op f s k (s.modThr k (g k s))) :=
  issue_go h rfl

/-- A thread whose guard fails only goes on (R62). -/
theorem issue_guarded {s : State} {k op : Nat} {f : Fields} {body : Nat → State → Act} (hb : s.beat.threads = [k])
    (hr : mayRun s k = true) (ht : trapDue s k op f = none) (ho : operandsReady s k op f = true) (hg : guardPasses (s.thr k) f = false) :
    issue op f body s = .next (advance s k) := by
  unfold issue
  simp [hb, screen, hr, ht, ho, hg, stepRows, rowKeys]

/-- A thread with a trap due takes it, whatever the word does. -/
theorem issue_trap {s : State} {k op : Nat} {f : Fields} {body : Nat → State → Act} {x : Flt} (hb : s.beat.threads = [k])
    (hr : mayRun s k = true) (ht : trapDue s k op f = some x) : issue op f body s = .next (takeFlt s k x) := by
  unfold issue
  simp [hb, screen, hr, ht, stepRows, rowKeys]

end Sys2Proof.Machine
end

