-- ==== Sys2Proof/Tests/Slice0.lean ====
section
/-! SUPPORT. Tests: words written out from the spec's encodings, its worked examples, an ill-formed term for each check of WellFormed, and for every
statement of Certificates/Slice0 a state that meets its hypotheses, clause by clause. -/

namespace Sys2Proof.Tests

open Sys2Proof.Machine

-- One theorem after another: many kernel evaluations at once would each take a thread's stack.
set_option Elab.async false

/-! ### Helpers -/

/-- A word's fields, as naturals; K, P and the guard 0. -/
def fl (d a b c m : Nat) : Fields :=
  { d := BitVec.ofNat 9 d, a := BitVec.ofNat 9 a, b := BitVec.ofNat 9 b, c := BitVec.ofNat 9 c, k := 0, p := 0, m := BitVec.ofNat 2 m,
    gr := 0, gb := 0, gs := 0 }

/-- One thread in one group, its code and tables in memory. -/
def base : State := State.reset.withFetchWord 64 0

/-- The thread at the first word of its block. -/
def th : Thread := { pc := 1, atHeader := false, hdr := 0, hdrWord := fetchHeader, regs := [(1, 5), (2, 7), (3, 9)] }

/-- The thread's registers. -/
def thr (regs : NMap Word) : Thread := { th with regs := regs }

/-- That thread alone in the beat. -/
def at1 (t : Thread) : State := { base with threads := [(2048, t)], beat := { threads := [2048] } }

/-- A thread in system mode. -/
def sys1 (t : Thread) : State := at1 { t with sys := true }

/-- A row of three threads, lanes 0 to 2, in one beat. -/
def row3 (t0 t1 t2 : Thread) : State :=
  { base with threads := [(2048, t0), (2049, t1), (2050, t2)], beat := { threads := [2048, 2049, 2050] } }

/-- The launch in deterministic mode. -/
def det (s : State) : State :=
  { s.modLch 0 (fun l => { l with kernel := { l.kernel with det := true } }) with
    threads := s.threads.map fun p => (p.1, { p.2 with mode := p.2.mode ||| 0x100 }) }

/-- The code of the launch: a header and words. -/
def withCode (ws : List Code) (s : State) : State :=
  (wrBytes s (fetchPage + 64) (ws.flatMap bytesOfWord)).modLch 0 fun l => { l with kernel := { l.kernel with extent := ws.length } }

/-- Some fields that a word of an opcode may have. -/
def pick (op : Nat) : Fields :=
  ([fl 4 8 12 16 0, fl 4 8 12 0 0, fl 8 8 16 0 0, fl 4 8 0 0 0, fl 4 0 0 0 0, fl 0 8 0 0 0, fl 0 8 12 0 0].find? fun f =>
    wordCause op f 512 16 31 == 0).getD (fl 0 0 0 0 0)

/-- The next state of a meaning. -/
def next (o : Host.Outcome State Fault Refusal) : State := match o with | .next s => s | _ => State.reset

/-- Whether an outcome is a next state. -/
def isNext (o : Host.Outcome State Fault Refusal) : Bool := match o with | .next _ => true | _ => false

/-- x[r] of the thread after a word. -/
def xAfter (i : Instr) (s : State) (r : Nat) : Word := ((next (exec i s)).thr 2048).x r


/-- A capability with its tag: space, permissions, base, cursor, exponent and mantissa of its length. -/
def capAt (space perms base cursor e m : Nat) : CapReg :=
  { w0 := BitVec.ofNat 32 cursor, w1 := BitVec.ofNat 32 (cursor / 2 ^ 32 + space * 2 ^ 20 + perms * 2 ^ 23), w2 := BitVec.ofNat 32 base,
    w3 := BitVec.ofNat 32 (e * 2 ^ 26 + m * 2 ^ 20 + base / 2 ^ 32), tag := true }

/-- Registers that hold numbers, signs, a quiet NaN and a mask. -/
def numbers : NMap Word :=
  [(1, 5), (3, 0x40000), (8, 0x40490FDB), (9, 0x3F800000), (12, 0xC0000001), (13, 7), (16, 0x12345678), (17, 0x80000003), (19, 1)]

/-- A thread with those numbers, alone, in user mode and in system mode. -/
def S : State := at1 (thr numbers)
def Sy : State := sys1 (thr numbers)

/-- And with a capability in q32, over 4,096 bytes of memory in which it may load, store and do atomics. -/
def Sc (space : Nat) : State := at1 ((thr numbers).wrCap 32 (capAt space 63 0x40000000 0x40000040 7 0))

/-- Fields whose guard, bit 0 of x1, fails where that bit is 1. -/
def guarded (f : Fields) : Fields := { f with gr := 1 }

/-- Code of two blocks of one word each, the thread at the first one's word. -/
def twoBlocks (t : Thread) : State := withCode [fetchHeader, 0, fetchHeader, 0] (at1 t)

/-- A thread before a branch on its time register t1, whose threshold is 5 ticks. -/
def timed (tick : Nat) : State := twoBlocks { thr [(4, 5)] with treg := [(1, { p := true, tick := tick })] }

/-- A system extent of two launches' slots at 1 MiB and a handler. -/
def St : State := { S with csrs := { S.csrs with sextl := 64, sextn := 2, tbasel := 0x100000, stvec := 0x20 } }

/-- The curve table of R172's example: table 0 with segments 0 and 1. -/
def curved (t : Thread) : State :=
  (at1 t).modGrp 1 fun g => { g with
    tables := [(0, { loading := false, f := 0, n := 2 })]
    segs := [(1, 0x3F800000), (2, 0x3F800000), (3, 0x3F000000), (5, 0x3F800000), (6, 0x40200000), (7, 0x40000000)] }

/-- Three lanes that all hold numbers, the second and third with other values. -/
def Sr : State := row3 (thr numbers) (thr ((8, 0xC0490FDB) :: numbers.filter fun p => p.1 ≠ 8)) (thr ((1, 2) :: numbers.filter fun p => p.1 ≠ 1))

/-- A core's TLB holds the page of 1 GiB at address 0, at an offset of physical memory. -/
def mapped (off : Nat) (s : State) : State :=
  let l : Leaf := { raw := BitVec.ofNat 64 (fetchLeaf + off), entry := fetchTable, level := 3 }
  s.modCore 0 fun c => { c with tlb := [{ tenant := 0, base := 0, size := 4, leaf := l }] }

/-- The thread with a capability in q8 over 4,096 bytes at 0x1000 of a space, and the page of it in the core's TLB. -/
def Sm (space : Nat) : State := mapped 0 (at1 ((thr numbers).wrCap 32 (capAt space 63 0x1000 0x1040 7 0)))

/-- The same with nothing in the TLB. -/
def Sw : State := at1 ((thr numbers).wrCap 32 (capAt 0 63 0x1000 0x1040 7 0))

/-- What the check of a store's page leaves. -/
def checked (s : State) (va : Nat) : State :=
  match resolve s 2048 0 va with | .key t _ => t | .hold t => t | .fault _ => s

/-- The thread's porch full, and its page on another die. -/
def Sf : State :=
  { mapped (2 ^ 36) (Sm 0) with
    upds := (List.range 1024).map fun i => (10 + i, { kind := .store [] false, key := 2 ^ 36, bytes := 1, phase := .porch }) }

/-- The host has refused the copy of the thread's page. -/
def Sn : State := (Sm 0).modThr 2048 fun t => { t with cowRefused := true }

/-- A store of four bytes in flight, with its time register. -/
def aStore (phase : UpdPhase) : Upd :=
  { th := some 2048, kind := .store [1, 2, 3, 4] false, key := 0x40001040, va := 0x1040, bytes := 4, counted := true, treg := some 1, phase := phase }

/-- An atomic in flight, with its return. -/
def anAtomic (op m : Nat) (args : List Word) : Upd :=
  { th := some 2048, kind := .atomic op m args, key := 0x40001040, va := 0x1040, bytes := 4, counted := true, ret := some 6, phase := .lehr 9 }

/-- An entry of a porch whose page is homed on die 1, sent at tick 10. -/
def aPorched (phase : UpdPhase) : Upd :=
  { th := some 2048, kind := .store [1, 2, 3, 4] false, key := 2 ^ 36, bytes := 4, counted := true, seq := 3, phase := phase, sent := some 10 }

/-- The device at a tick with that update in flight and its thread. -/
def withUpd (now : Nat) (u : Upd) : State :=
  { at1 { thr numbers with bound := [(1, 5)], stores := 1 } with now := now, ids := 20, upds := [(5, u)] }

/-- A load of four bytes in flight to x20, with its time register. -/
def aLoad (phase : RetPhase) : Ret :=
  { th := 2048, kind := .load false false, dst := 20, n := 1, treg := some 1, counter := .loads, va := 0x1040, bytes := 4, key := some 0x40001040,
    phase := phase, data := [1, 2, 3, 4] }

/-- The device at a tick with that return in flight and its thread. -/
def withRet (now : Nat) (r : Ret) : State :=
  { at1 { thr numbers with bound := [(1, 5)], pend := [(20, 5)], loads := 1, acquire := some 5, mode := 8 } with
    now := now, ids := 20, rets := [(5, r)] }

/-- A home that a porch has seized, with its one entry. -/
def seizedBy (now : Nat) (u : Upd) : State := (withUpd now u).modDie 0 fun d => { d with seized := [.die 1] }

/-- A row of which one thread alone is in the beat. -/
def Sr1 : State := { Sr with beat := { threads := [2048] } }

/-- A thread with its capability in q8 over cluster SRAM, and words at the address that it names. -/
def sramWords (ws : List Word) : State := wrBytes (Sm 1) (2 ^ 52 + 0x1040) (bytesOfWords ws)

/-- A thread that waits. -/
def waiting (now : Nat) (w : Wait) : State := { (Sm 1).modThr 2048 (fun t => { t with wait := w }) with now := now }

/-- A thread's wait for its flag in cluster SRAM: the next poll, whether an update has fired its monitor. -/
def flagOf (poll : Nat) (fired : Bool) : Wait := .flag (some (2 ^ 52 + 4160)) 1 4160 poll fired none (fl 4 8 0 0 0)

/-- A read of that flag that is due, and the device with it: the condition, the word compared, the word read. -/
def aFlagRead (v : Nat) : Ret := { th := 2048, kind := .flag, space := 1, va := 4160, bytes := 4, phase := .read 9, issued := 3, data := bytesOfNat v 4 }
def flagging (m : Nat) (old : Word) (v : Nat) : State :=
  { waiting 9 (.flag (some (2 ^ 52 + 4160)) 1 4160 9 false (some 6) (fl 4 8 0 0 m)) with rets := [(6, aFlagRead v)], ids := 20 }.modThr 2048 fun t =>
    t.wr 4 old

/-- Each condition with a word below, equal to and above what the read brings. -/
def flagCases : List (Nat × Word) := (List.range 4).flatMap fun m => [(m, 5), (m, 7), (m, 9)]

/-- A thread in the beat of the device at a tick, with a hardware barrier's instance. -/
def barred (now : Nat) (w : Wait) (b : HwBar) : State := { (S.modThr 2048 fun t => { t with wait := w }) with now := now, ids := 20, hwbars := [(5, b)] }

/-- An instance of a level that covers the groups of some indices. -/
def anInstance (level : Nat) (members arrived : List Nat) : HwBar :=
  { level := level, launch := 0, place := if level = 0 then 1 else 0, number := 7, members := members, arrived := arrived }

/-- A bulk transfer of one unit into tile 2, at its turn, with its return. -/
def aCopy (o : Nat) : Xfer :=
  { kind := .copy o, group := 1, threads := [2048], rets := [6], va := 0x1040, base := 0x1000, top := 0x2000, tile := 2, units := 1, started := true }

/-- The device at tick 9 with that transfer in flight and its group with tile 2. -/
def copying (x : Xfer) : State :=
  { (Sm 0).modGrp 1 (fun g => { g with tiles := [{ num := 2, off := 0, len := 64, fill := [5] }] }) with
    now := 9, ids := 20, xfers := [(5, x)], rets := [(6, { th := 2048, kind := .xfer, dst := 20, n := 1, counter := .copies })] }

/-- A thread with a capability over cluster SRAM in q32 and tile 2 declared there, filling or not. -/
def tiled (fill : List Nat) (regs : NMap Word) : State :=
  (at1 ((thr regs).wrCap 32 (capAt 1 63 0 0x1000 14 0))).modGrp 1 fun g => { g with tiles := [{ num := 2, off := 0x2000, len := 64, fill := fill }] }

/-- The same of a device of the domain on whose path every switch reserves slots. -/
def withBoundRet (now : Nat) (r : Ret) : State := { withRet now r with domainMode := [(8, 1)] }

/-- A thread with an operand block in x20 to x23, capabilities over memory in q8 and q9, and ready tiles 2 and 3. -/
def toCopy (b0 b1 b2 b3 : Word) : State :=
  let t := ((thr ([(20, b0), (21, b1), (22, b2), (23, b3)])).wrCap 32 (capAt 0 63 0x1000 0x1040 7 0)).wrCap 36 (capAt 0 63 0x2000 0x2040 7 0)
  (mapped 0 (at1 t)).modGrp 1 fun g => { g with tiles := [{ num := 2, off := 0, len := 64 }, { num := 3, off := 64, len := 64 }] }

/-- The producer is another row. -/
def notProd (s : State) : State := s.modLch 0 fun l => { l with kernel := { l.kernel with rows := 2, producer := 1 } }

/-- The leaf that the first page of memory has, in a state and of a size, and where it stands. -/
def aLeaf (state size : Nat) : Leaf := { raw := BitVec.ofNat 64 (2 ^ 63 + state * 2 ^ 60 + size * 2 ^ 57 + fetchPage), entry := fetchTable, level := 3 }

/-- A walk of a return, at tick 9. -/
def walks (kind : RetKind) (phase : RetPhase) : Ret := { aLoad phase with kind := kind, va := 0x1040 }

/-- The address space of tenant 0 with a page of 4 KiB at 0x40001000, frame 0x80000000, in a state. -/
def paged (state : Nat) (s : State) : State :=
  let entry (st a : Nat) : List Byte := bytesOfNat (2 ^ 63 + st * 2 ^ 60 + a) 8
  wrBytes (wrBytes (wrBytes s 0x200008 (entry 6 0x300000)) 0x300000 (entry 6 0x400000)) 0x400008 (entry state (if state = 3 then 0 else 0x80000000))

/-- The leaf of that page. -/
def smallLeaf (state : Nat) : Leaf := { raw := BitVec.ofNat 64 (2 ^ 63 + state * 2 ^ 60 + if state = 3 then 0 else 0x80000000), entry := 0x400008, level := 1 }

/-- A thread with a capability over that page in q8. -/
def Sp (state : Nat) : State := paged state (at1 ((thr numbers).wrCap 32 (capAt 0 63 0x40001000 0x40001040 7 0)))

/-- A page operation on it, at tick 9, and 65 free frames on die 0. -/
def paging (state : Nat) (o : PageOp) : State :=
  { (Sp state).modDie 0 (fun d => { d with pool4k := (List.range 65).map fun i => 0x90000000 + i * 4096 }) with now := 9, ids := 20, pageOps := [(5, o)] }

/-- A copy-on-write, a move to die 0, a PAGEIN that waits for the host. -/
def aCow (th : Option Nat) (phase : PagePhase) : PageOp :=
  { kind := .cow th none, tenant := 0, va := 0x40001040, leaf := smallLeaf 1, phase := phase }
def aMove (phase : PagePhase) : PageOp :=
  { kind := .move (.die 0) (some 6), tenant := 0, va := 0x40001040, leaf := smallLeaf 2, phase := phase }
def aPagein : PageOp := { kind := .pagein [6], tenant := 0, va := 0x40001040, leaf := smallLeaf 4, phase := .host }

/-- A return that a page operation lands, with it. -/
def withPageRet (s : State) : State := { s with rets := [(6, { aLoad .await with kind := .page 0xE 0 })] }

/-- A return of a page word, or of a load, at a point of its walk, at tick 9, with free frames. -/
def aWalk (kind : RetKind) (phase : RetPhase) : Ret := { aLoad phase with kind := kind, va := 0x40001040 }
def walking (state : Nat) (r : Ret) : State := { (paging state (aCow none .host)) with pageOps := [], rets := [(5, r)] }

/-- The one mapping of that page is counted. -/
def counted (s : State) : State := wrBytes s (countKey 0x80000000) [1, 0]

/-- A store to the page is still to be applied. -/
def storesTo (s : State) : State := { s with upds := [(7, { aStore (.lehr 9) with key := 0x80000040 })] }

/-- Its thread is held by that operation. -/
def heldThread (s : State) : State := s.modThr 2048 fun t => { t with pageHold := some 5 }

/-- An operand record of one slot. -/
def aRec (first fmt : Nat) : OpRec := { first := first, count := 1, fmt := fmt, sc := false, blk := 0, sslot := 0, soff := 0 }

/-- A group that holds slots 0 and 1, accumulator 3 and three records. -/
def matrixGroup : Group :=
  { launch := 0, index := 0, cluster := 0, slots := [0], pslots := [(0, 5), (1, 6)], accs := [(3, { phys := 2 })]
    recs := [(0, aRec 0 3), (1, aRec 1 3), (2, aRec 0 4)] }

/-- A thread of a group, with registers, and a capability over memory in q8. -/
def inGroup (g : Group) (regs : NMap Word) : State :=
  { mapped 0 (at1 ((thr regs).wrCap 32 (capAt 0 63 0x4000 0x4000 8 0))) with groups := [(1, g)], ids := 20 }

/-- A posted pass of one step over records 0 and 1 into accumulator 3. -/
def aPass (pid : Nat) : Pass :=
  { pid := pid, seq := 1, refA := { rcd := 0, idx := 0 }, refB := { rcd := 1, idx := 0 }, acc := 3, zero := false, steps := 1, limit := 1, threads := [2048] }

/-- A pass that has ended. -/
def donePass (pid : Nat) : Pass := { aPass pid with granted := 1, applied := 1, done := some 1, doneAt := 4 }

/-- A group whose one pass stands in its queue, or is about to be granted a step. -/
def passing (p : Pass) : State := { inGroup { matrixGroup with passes := [p], passCount := 1, queue := [.pass p.pid] } [] with now := 9 }

/-- The group with a pass that is done. -/
def afterPass : Group := { matrixGroup with passes := [donePass 1], passCount := 1 }

/-- A pass whose step is due at a tick, ungranted, ended. -/
def stepped (tick : Nat) : Pass := { aPass 1 with granted := 1, due := [tick] }

/-- A piece of a transfer that has arrived, of zeros. -/
def aPiece (n : Nat) : Piece := { data := List.replicate n 0, absent := false, poisoned := false }

/-- A transfer of the engine, at its turn, whose reads are booked and have arrived. -/
def aLoadIn (kind : XferKind) (units : Nat) : Xfer :=
  { kind := kind, group := 1, threads := [2048], rets := [6], va := 0x4000, base := 0x4000, top := 0x6000, units := units, next := units, started := true
    booked := true, pieces := (List.range units).map fun u => (2 * u, aPiece 16) }

/-- A piece of transfer 5 is still on its way. -/
def pieceOut (s : State) : State := { s with rets := s.rets ++ [(8, { th := 2048, kind := .part 5 0, phase := .read 20 })] }

/-- The device at tick 9 with that transfer in flight. -/
def loadingIn (x : Xfer) : State :=
  { inGroup { matrixGroup with queue := [.xfer 5] } [] with
    now := 9, xfers := [(5, x)], rets := [(6, { th := 2048, kind := .xfer, dst := 20, n := 1 })] }

/-- The same with a pass that streams. -/
def streaming (x : Xfer) : State :=
  { loadingIn x with groups := [(1, { matrixGroup with passes := [aPass 1], passCount := 1 })] }

/-- A thread of that group with a barrier object's words in cluster SRAM. -/
def linked (arrivals : Word) : State := { sramWords [2, arrivals, 5, 9] with groups := [(1, afterPass)] }

/-! ### Work, groups and the outside -/

/-- A launch one of whose split factors is automatic. -/
def Sauto : State := S.modLch 0 fun l => { l with kernel := { l.kernel with splits := [0, 0, 0, 0, 0, 0, 0, 0] } }

/-- A group with edges that have fired and five on record. -/
def fired : State := S.modGrp 1 fun g => { g with firedStart := true, firedEnd := true, edges := 5 }

/-- A thread of the beat and one before it that PARK has parked. -/
def parkedPair : State := { base with threads := [(2048, { thr [] with wait := .tick 60 }), (2049, thr [])], beat := { threads := [2049] } }

/-- A launch record: a kernel capability over code at address 0, and its control words from word 16 on. -/
def recordWords (control : List Word) : List Word :=
  let c := capAt 0 63 0 0 7 0
  ([c.w0, c.w1, c.w2, c.w3] ++ List.replicate 12 0 ++ control ++ List.replicate 16 0).take 32

/-- A device whose tenant 0 has 64 clusters, with a kernel header of one word of code at address 0. -/
def headed (s : State) : State :=
  { wrBytes s fetchPage (bytesOfWords [1, 7, 0, 0]) with
    tenants := [(0, { root := 0x100000, part := [0xFFFFFFFF, 0xFFFFFFFF, 0, 0, 0, 0], cores := 768, bytes := 65535, power := 65535, pcap := 3 })] }

/-- A thread that names such a record in cluster SRAM, with its tag. -/
def recorded (control : List Word) : State :=
  { headed (sramWords (recordWords control)) with memTags := [(2 ^ 52 + 0x1040) / 16], ids := 20 }

/-- The same with every slot of the larder in use. -/
def larderFull (control : List Word) : State :=
  { recorded control with launches := (List.range 4096).map fun i => (i, ((recorded control).lch 0)) }

/-- A store of the thread to the record still stands in flight. -/
def recordPending : State := { recorded [0x10002, 1] with upds := [(5, { aStore (.lehr 9) with key := 2 ^ 52 + 0x1040 })] }

/-- A launch that another word may name: slot 3, generation 5, its one group dispatched. -/
def launched (complete : Bool) : State :=
  { S with launches := S.launches ++ [(3, { gen := 5, graph := 9, todo := [1], open_ := 2, complete := complete })]
           groups := S.groups ++ [(4, { launch := 3, index := 0, cluster := 1 })] }

/-- A window of the host with a record. -/
def aWindow (control : List Word) (root : Word) : Window :=
  { rcd := ((List.range 32).zip (recordWords control)).filter fun p => p.2 ≠ 0, rootL := root }

/-- The device with that in windows 0 and 16. -/
def windowed (control : List Word) (root : Word) : State :=
  { headed base with windows := [(0, aWindow control root), (16, aWindow control root)] }

/-- A device whose launch 0 has two groups still to be dispatched, or, where it has not started, is to start. -/
def toDispatch (start : Option Nat) (now pdie : Nat) : State :=
  { (headed base).modLch 0 (fun l =>
      { l with
        todo := [0, 1], open_ := 2, startTick := start, pmode := if pdie = 0 then 0 else 1, pdie := pdie
        kernel := { l.kernel with rows := 1, clusterBytes := 64 } }) with
    threads := [], groups := [], beat := {}, now := now, ids := 20 }

/-- The same where every cluster of die 0 is masked, so that its groups, after 4,096 ticks, go elsewhere. -/
def toSpill : State := { toDispatch (some 0) 5000 0 with cores := (List.range 48).map fun c => (c, { halted := true }) }

/-- The place of the first group that waits. -/
def spotOf (s : State) : Spot := match nextPlace s with | some (_, p) => p | none => { cluster := 0, slots := [], base := 0 }

/-- A group whose one thread has ended, and a launch all of whose groups have. -/
def endedGroup : State := S.modThr 2048 fun t => { t with life := .exited }
def endedLaunch (root : Bool) : State :=
  { (toDispatch (some 1) 9 0).modLch 0 (fun l => { l with todo := [], open_ := 0, root := root }) with
    ring := { baseL := 0x100000, size := 10 } }

/-- The header of an idempotent block, and one that keeps x1 to x3 and t0 to t3. -/
def idemHeader : Code := fetchHeader ||| 0x4000
def liveHeader : Code := fetchHeader + BitVec.ofNat 64 (3 * 2 ^ 37 + 4 * 2 ^ 4)

/-- A thread parked until a tick behind a header, in a group that is to be pre-empted or not. -/
def parkedAt (hdr : Code) (wanted : Bool) (retries : Nat) : State :=
  (at1 { thr numbers with hdrWord := hdr, wait := .tick 70 }).modGrp 1 fun g => { g with preempt := wanted, retries := retries }

/-- A group of tenant 0, whose one thread has paused at a header, and which is to be saved; and then stands saved. -/
def pausing : State :=
  let s := withCode [liveHeader, 0] (at1 { th with pc := 0, atHeader := true, regs := [(1, 5), (3, 9), (4, 7)], treg := [(1, { p := true, tick := 5 }), (5, { tick := 9 })] })
  { headed (s.modGrp 1 fun g => { g with preempt := true }) with now := 9 }
def savedGroup : State := next (execContextSave 1 pausing)

/-- A killed group, which may go. -/
def killed : State := ({ base with threads := [] } : State).modGrp 1 fun g => { g with residency := .killed 16 3 }

/-- A killed group one of whose stores is still in flight. -/
def killedBusy : State := { killed with upds := [(5, aStore (.lehr 9))] }

/-- A saved group whose launch waits behind another's new group. -/
def toResume : State :=
  { toDispatch (some 5) 9 0 with groups := [(7, { launch := 0, index := 1, cluster := 0, residency := .saved })] }

/-- The cells of memory that hold an image of a thread at an address: its bytes that are not 0. -/
def imageCells (key : Nat) : List Host.Cell :=
  let t : Thread := { thr [(1, 3), (5, 7)] with treg := [(2, { p := true, tick := 99 })], status := 5, late := 6 }
  ((List.range' key 2320).zip (bytesOfWords (imageWords t t.status 512 1 0 0 0))).filter fun c => c.2 ≠ 0

/-- A thread in system mode at SRET whose trap slot is at 1 MiB, with its image there. -/
def inTrap (owner : Nat) : State :=
  let s := sys1 { thr numbers with owner := owner }
  { s with csrs := { (State.reset).csrs with sextl := 64, sextn := 2, tbasel := 0x100000, stvec := 0x20 }, mem := s.mem ++ imageCells 0x40100000 }

/-- The same with a slot that no page maps. -/
def unmappedTrap : State := { inTrap 0 with csrs := { (inTrap 0).csrs with tbaseh := 1 } }

/-- A system thread whose x1 holds a word, in a launch that declares features or none. -/
def sysWith (v : Word) : State := sys1 (thr [(1, v), (2, 1), (3, 0x200000)])
def unfeatured (v : Word) : State := (sysWith v).modLch 0 fun l => { l with kernel := { l.kernel with feat := 0 } }

/-- The fields of a word of CSRR or CSRW that names a register. -/
def csrFields (d a n : Nat) : Fields := fl d a (n / 512) (n % 512) 0

/-- A system thread of an owner with a context image at the address in cluster SRAM that its capability names. -/
def imaged (owner : Nat) : State :=
  let s := sys1 (({ thr numbers with owner := owner } : Thread).wrCap 32 (capAt 1 63 0x1000 0x1040 7 0))
  { s with mem := s.mem ++ imageCells (2 ^ 52 + 0x1040) }

/-- A system thread with a capability over memory, its page in the TLB or nowhere. -/
def sysMapped : State := mapped 0 (sys1 ((thr numbers).wrCap 32 (capAt 0 63 0x1000 0x1040 7 0)))
def sysUnmapped : State := sys1 ({ (thr numbers).wrCap 32 (capAt 0 63 0x80001000 0x80001040 7 0) with walked := some .notMapped })

/-- The fault that a translation gives, and the state in which its thread is held. -/
def faultOf (r : Resolved) : Flt := match r with | .fault x => x | _ => { cause := 0 }
def heldOf (r : Resolved) : State := match r with | .hold t => t | _ => State.reset
def sysUnwalked : State := sys1 ((thr numbers).wrCap 32 (capAt 0 63 0x1000 0x1040 7 0))

/-- A system thread on core 0, and other cores: a core with a score, a halted core, a stopped thread of another group. -/
def managed (v : Word) (dbg : Bool) : State :=
  let s := sysWith v
  { s with cores := [(0, { dbgen := dbg }), (9, { score := 130, report := true }), (10, { halted := true })]
           threads := s.threads ++ [(4096, { thr numbers with owner := 77, life := .stopped })]
           groups := s.groups ++ [(2, { launch := 0, index := 1, cluster := 0, slots := [1] })] }

/-- A cluster that a thread keeps awake or not, gated or not. -/
def powered (v : Word) (gated : Bool) : State :=
  { sysWith v with clusters := [(5, { gated := gated })] }

/-- A die's queue of two records. -/
def withRecords (v : Word) : State :=
  (sysWith v).modDie 3 fun d => { d with mcq := [{ cause := 1, tick := 77, addr := 5 }, { cause := 2 }] }

/-- Cluster 5 at a tick: with requests, or gated, or throttled. -/
def clusterAt (now : Nat) (x : Cluster) : State := { S with now := now, clusters := [(0, {}), (5, x)] }

/-- The thread's own cluster at a tick, the limiter's admissions past. -/
def gatedAt (now : Nat) (x : Cluster) (admissions : List Nat) : State := { S with now := now, clusters := [(0, x)], admissions := admissions }

/-- Dies whose copies of device time differ from die 0's. -/
def drifting (now by_ : Nat) : State := { S with now := now, dies := [(0, {}), (2, { ahead := by_ }), (3, { behind := 1 }), (4, { behind := by_ })] }

/-- A bring-up that no stage fails; a package without power. -/
def cleanUp : BringUp :=
  { stage1 := false, stage2 := false, stage3 := false, stage5 := false, hostPort := false, deadDies := [], cores := [], linksDown := [] }
def powerless : State := { State.reset with service := { State.reset.service with powered := false } }

/-- A load whose promise goes through a stack of die 0. -/
def throughStack : State := withRet 9 { aLoad (.booked 12 20) with source := 3, stack := true }

/-- An audit of a group of one row, and the device with it, in which tenant 0 has 64 clusters. -/
def anAudit (cores : List Nat) (phase : AuditPhase) : Audit :=
  { launch := 0, index := 0, kernel := { feat := 31 }, cluster := 0, cores := cores, digests := [], exits := [], phase := phase }
def auditing (now : Nat) (a : Audit) : State := { headed S with now := now, ids := 20, audits := [(5, a)] }

/-- A segment's audit, of a group that the stair holds for it. -/
def aSegment (phase : AuditPhase) : Audit := { anAudit [0] phase with segment := some 1 }

/-- A replay's digest that diverged. -/
def diverges (core : Nat) : RunDigest := { pos := 0, core := core, diverged := true, a := 0, b := 0 }

/-- An audit whose original left a thread's start and a log. -/
def toReplay : Audit := { anAudit [0] (.waiting 5) with start := [(0, thr numbers)], log := [(0, [{ pc := 1, words := [9] }])] }

/-- The device at a tick with a replay, group 2, of that audit's group: its one thread, with a capability in q8, is alone in the beat with a log; the positions
at which it has diverged. -/
def replayedBy (now cluster : Nat) (a : Audit) (log : List LogEntry) (t : Thread) (diverged : List Nat) : State :=
  let s := headed (Sm 0)
  { s with
    now := now, ids := 20, audits := [(5, a)], launches := nset s.launches 4101 (s.lch 0), threads := nset s.threads 4096 t
    groups := nset s.groups 2 { launch := 4101, index := 0, cluster := cluster, log := [(0, log)], replays := some 5, diverged := diverged }
    beat := { core := 48, threads := [4096] } }

/-- The replay on cluster 12, its thread at a word, or ended; a tiebreak on cluster 24 that has ended. -/
def played (log : List LogEntry) : State := replayedBy 9 12 (anAudit [0] (.running 2 12)) log ((Sm 0).thr 2048) []
def replayedOf (a : Audit) (diverged : List Nat) : State := replayedBy 9 12 a [] { (Sm 0).thr 2048 with life := .exited } diverged
def tiedBy (a : Audit) : State := replayedBy 9 24 a [] { (Sm 0).thr 2048 with life := .exited } []

/-- A device with no group and nothing in flight, a page of memory in a TLB. -/
def noGroup : State := { Sm 0 with groups := [], threads := [] }

/-- A thread that loads a curve's table from memory, with its descriptor in x4; and that load in flight. -/
def toCurve (d : Word) : State := mapped 0 (at1 ((thr [(4, d)]).wrCap 32 (capAt 0 63 0x1000 0x1040 7 0)))
def curveLoad : Xfer :=
  { kind := .curve 3 7 1, group := 1, threads := [2048], rets := [6], va := 0x1000, base := 0x1000, top := 0x2000, units := 1, next := 1, started := true
    booked := true, pieces := [(0, aPiece 20)] }
def curveLoading : State :=
  { (Sm 0) with now := 9, ids := 20, xfers := [(5, curveLoad)], rets := [(6, { th := 2048, kind := .xfer, dst := 20, n := 1 })] }

/-- A CRVLD of the group that was issued before it. -/
def curveSecond : State := { curveLoading with xfers := [(4, { curveLoad with kind := .curve 2 0 1 }), (5, curveLoad)] }

/-! ### Variants -/

/-- The thread's core is open to a debugger. -/
def debugged : State := S.modCore 0 fun c => { c with dbgen := true }

/-- A capability without its tag. -/
def untagged : CapReg := { capAt 1 62 0x40000000 0x40000040 7 0 with tag := false }

/-- Time registers t0 at 9 ticks and t1 at 5. -/
def ticking : Thread := { thr numbers with treg := [(0, { p := true, tick := 9 }), (1, { p := true, tick := 5 })] }

/-- That thread at tick 7, and in deterministic mode. -/
def tickingAt7 : State := { at1 ticking with now := 7}

/-- Time register t1 alone. -/
def tickingOne : Thread := { thr numbers with treg := [(1, { p := true, tick := 5 })] }

/-- A row of which one thread alone is in the beat, with no number in a register. -/
def rowOne : State := row3 (thr []) (thr []) (thr []) |> fun s => { s with beat := { threads := [2048] } }

/-- No group and no thread. -/
def bare : State := { base with groups := [], threads := [] }

/-- A line pinned from tick 1 until tick 3, at tick 4 and at tick 3. -/
def pinned4 : State := { base with pins := [(5,(1,3))], now := 4 }
def pinned3 : State := { base with pins := [(5,(1,3))], now := 3 }

/-- An atomic due, with the return that it makes. -/
def atomicDue : State := { withUpd 9 (anAtomic 8 0 [3]) with rets := [(6, aLoad .await)] }

/-- A store whose completion is known at its core. -/
def knownStore : Upd := { aStore (.lehr 9) with c := some 9, knownAt := some 9 }

/-- A pooled store of scope 6 that is applied. -/
def pooledStore : Upd := { aPorched (.applied 9) with scope := 6}

/-- The same with its acknowledgement lost. -/
def lostStore : Upd := { aPorched (.applied 0) with scope := 6}

/-- An entry of a porch not yet sent. -/
def unsent : Upd := { aPorched .porch with sent := none}

/-- The thread of an update in flight. -/
def boundThread : Thread := ({thr numbers with bound := [(1, 5)], stores := 1 })

/-- A table entry to be written. -/
def entryUpd : Upd := { aStore (.lehr 9) with kind := .pte 0x1234567890 }

/-- Loads: an estimate, a probe, one of the domain, a poisoned one, an atomic's return. -/
def estimated : Ret := { aLoad (.probe 9 12 14) with est := true }
def aProbe : Ret := { aLoad (.probe 9 12 14) with kind := .probe }
def farLoad : Ret := { aLoad (.booked 500 514) with est := true, key := some (2^50), bounded := true }
def poisonedLoad : Ret := { aLoad (.read 14) with poisoned := true }
def atomicRet : Ret := { aLoad (.read 14) with kind := .atomic }
def bookedEst : Ret := { aLoad (.booked 12 14) with est := true }

/-- The thread yields until slot 9. -/
def yielding : State := S.modThr 2048 fun t => { t with yieldBar := 9 }

/-- A grid barrier released at tick 9, cluster 0 the eighth. -/
def gridReleased : HwBar := { anInstance 3 [0] [2048] with released := some 9, left := [(0, 8)] }

/-- Copies: of an address that no page has, written whole, stopped, not yet due. -/
def farCopy : Xfer := { aCopy 0 with va := 2^40 }
def movedCopy : Xfer := { aCopy 0 with next := 1, moved := [0] }
def stoppedCopy : Xfer := { aCopy 0 with next := 1, stop := some (1,0) }
def lateCopy : Xfer := { aCopy 0 with at_ := 10}

/-- A tile that the copy of another thread fills too. -/
def tileBusy : State := { tiled [5] [(1,2), (5,64)] with xfers := [(5, aCopy 0), (7, { aCopy 1 with threads := [2050]})]}

/-- The return that reports PLACE. -/
def placeRet : Ret := { aLoad .await with kind := .page 0xE 0 }

/-- Another group of the cluster holds a pantry slot, every accumulator but one, a shared one. -/
def slotTaken : State := { inGroup matrixGroup [(1,0x7E02)] with groups := [(1, matrixGroup), (2, { matrixGroup with pslots := [(0,7)]})] }
def accsTaken : State := { inGroup matrixGroup [(1,0x1C04)] with groups := [(1, matrixGroup), (2, { matrixGroup with accs := (List.range 31).map fun i => (i,{phys := if i < 2 then i else i + 1}) })] }
def accShared : State := { inGroup matrixGroup [(1,4), (2,9)] with groups := [(1, matrixGroup), (2, { matrixGroup with accs := [(0,{phys := 7, share := some 9})] })] }
def accsFull : State := { inGroup matrixGroup [(1,4)] with groups := [(1, matrixGroup), (2, { matrixGroup with accs := (List.range 31).map fun i => (i,{phys := if i < 2 then i else i + 1}) })] }

/-- The group of a queued pass. -/
def groupOf1 : Group := { matrixGroup with passes := [aPass 1], passCount := 1, queue := [.pass 1] }
def groupStep10 : Group := { matrixGroup with passes := [stepped 10], passCount := 1, queue := [.pass 1] }
def groupStep9 : Group := { matrixGroup with passes := [stepped 9], passCount := 1, queue := [.pass 1] }

/-- A pass whose last step is applied. -/
def endedPass : Pass := { donePass 1 with done := none }
def groupEnded : Group := { matrixGroup with passes := [endedPass], passCount := 1, queue := [.pass 1] }
def groupStreams : Group := { matrixGroup with passes := [aPass 1], passCount := 1 }

/-- Transfers of the engine: before their turn, and SLOTRD when all is written. -/
def slotWaits : Xfer := { aLoadIn (.slotIn 1) 2 with started := false }
def bookWaits : Xfer := { aLoadIn (.book 2) 2 with started := false, booked := false }
def slotRead : Xfer := { aLoadIn (.slotOut 1) 2 with moved := [0, 1] }

/-- The group whose queue holds that transfer. -/
def groupLoads : Group := { matrixGroup with queue := [.xfer 5] }

/-- A poisoned launch record. -/
def recordPoisoned : State := {recorded [0x10002, 1] with memPoison := [2^52+0x1050]}

/-- A bring-up that masks features of a core, and one that a stage fails. -/
def maskingUp : BringUp := { cleanUp with cores := [(7, 0x10F)] }
def failingUp : BringUp := { cleanUp with stage3 := true }

/-- The promise that a stop breaks. -/
def stackLoad : Ret := { aLoad (.booked 12 20) with source := 3, stack := true }

/-- Every core is halted. -/
def halted (s : State) : State := { s with cores := (List.range 768).map fun c => (c, { halted := true }) }

/-- A retired link. -/
def retired : State := { noGroup with linksDown := [17] }

/-- A thread that IDLE parks, and the device with it. -/
def idleThread : Thread := { thr numbers with wait := .idle 60 }
def idling : State := { S with threads := [(2048, idleThread)] }

/-- A thread that names the launch of slot 3. -/
def naming : Bool → State := fun c => (launched c).modThr 2048 fun t => t.wr 1 0x5003

/-- The thread of a state's beat, and the address that q8 and x0 give it. -/
abbrev T (s : State) : Thread := s.thr 2048
abbrev adr (s : State) : Nat := (((T s).cap 32).cursor + ((T s).x 0).toNat) % 2 ^ 52

/-- Soft errors: corrected; of HBM; of an accumulator. Firmware images: signed, and half signed. Words that a register receives. -/
def errSmall : SoftErr := { unit := 3, die := 2, index := 0, addr := 0, corrected := true }
def errHbm : SoftErr := { unit := 1, die := 2, index := 0, addr := 0x40000044, corrected := false }
def errAcc : SoftErr := { unit := 10, die := 2, index := 5, addr := 0x3044, corrected := false }
def goodImage : FwImage := { ed25519 := true, mlDsa65 := true, version := 5 }
def badImage : FwImage := { ed25519 := true, mlDsa65 := false, version := 5 }
def clockAsk : Word := 0x19203
def rootWord : Word := 0x123FFFF
def farCluster : Word := 200

/-- An accumulator claim, a copied bound. -/
def claim2 : AccClaim := { phys := 2 }

/-- Clusters: idle, at an interval's end with a new grant, with requests, gated, asking. -/
def newGrant : Cluster := { nextGrant := some (60, 1), throttled := true, used := [(1, 9), (2, 9)] }
def newGrantMoved : Cluster := { newGrant with movedIn := some 1 }
def asks : Cluster := { ratioReq := some 2, mhzReq := some 1000 }
def isGated : Cluster := { gated := true }
def wakes : Cluster := { gated := true, wakeReq := some 4 }
/-! ### Decoding: words that the spec writes out (each with its rule or table) -/

/-- The spec's worked encodings. -/
noncomputable def worked : List (Nat × Instr) :=
  [(0x0F04FFFFFFA00000, .loopn (fl 9 511 511 506 0)),                             -- R90
   (0x0D00000070600000, .setmode (fl 0 0 3 262 0)),                               -- R97: imm18 = 0x706
   (0x2F0C0502C4000000, .cmpN32 (fl 24 20 22 64 0)),                              -- R117
   (0x250A850040068000, .shl { fl 21 20 2 0 1 with k := 1, p := 1 }),             -- Table 2.5
   (0x38100803E0000000, .csetb (fl 32 32 31 0 0)),                                -- spec/05
   (0x4714024154500000, .fcmp (fl 40 9 10 325 0)),                                -- R142
   (0x46060100A0608000, .faddmin (fl 12 4 5 6 1)),                                -- R143
   (0x4E0A050300000000, .fmaxi (fl 20 20 24 0 0)),                                -- R141
   (0x60060100A0308000, .cvtE4 (fl 12 4 5 3 1))]                                  -- R156

/-- The rest of them. -/
noncomputable def worked2 : List (Nat × Instr) :=
  [(0x710A004102000000, .crvld (fl 20 1 8 32 0)),                                 -- R171
   (0x7F00050000000000, .digest (fl 0 20 0 0 0)),                                 -- R409
   (0x810F070021F08000, .shflUp (fl 30 28 1 31 1)),                               -- R186
   (0x8C0A060000000000, .redMaxi (fl 20 24 0 0 0)),                               -- R189
   (0x9814008126A00000, .lda64 (fl 40 2 9 106 0)),                                -- R200
   (0x9A0A01C000000000, .tsort (fl 20 7 0 0 0)),                                  -- R219
   (0x9F140080C4500000, .tcmp (fl 40 2 6 69 0)),                                  -- R223
   (0xA80F010504A10000, .aadd (fl 30 4 40 74 2)),                                 -- spec/11
   (0xAF00000000000000, .adrain (fl 0 0 0 0 0)),
   (0xB000000000A00000, .fence (fl 0 0 0 10 0)),                                  -- R251
   (0xB100000FF0F00000, .waitc (fl 0 0 127 271 0)),                               -- R253: imm18 = 0xFF0F
   (0xB30F008122600000, .barArr (fl 30 2 9 38 0)),                                -- R255
   (0xC10F010504B00000, .copyTg (fl 30 4 40 75 0)),                               -- R287
   (0xD00B054000000000, .claimSlot (fl 22 21 0 0 0)),                             -- Table 18.10
   (0xD20B05C340000000, .opres (fl 22 23 26 0 0)),
   (0xD50F810402000000, .slotld (fl 31 4 32 32 0)),
   (0xD8108002E2200000, .mma (fl 33 0 23 34 0)),
   (0xDD11884000008000, .mstatWait (fl 35 33 0 0 1))]

/-- And of classes 0xD to 0xF. -/
noncomputable def worked3 : List (Nat × Instr) :=
  [(0xDF00000000300000, .mprio (fl 0 0 0 3 0)),                                   -- R324
   (0xE00F008104000000, .launch (fl 30 2 8 64 0)),                                -- spec/20
   (0xE20F0A4000008000, .cancel (fl 30 41 0 0 1)),
   (0xE30F800000200000, .splitq (fl 31 0 0 2 0)),
   (0xE5000A0000000000, .thrarm (fl 0 40 0 0 0)),
   (0xEA00000000200000, .setprio (fl 0 0 0 2 0)),                                 -- R351
   (0xF000000000000000, .sret (fl 0 0 0 0 0)),                                    -- spec/21
   (0xF102800001300000, .csrr (fl 5 0 0 19 0)),
   (0xF200018001300000, .csrw (fl 0 6 0 19 0)),
   (0xF300050000008000, .tlbinvPage (fl 0 20 0 0 1)),
   (0xF602824000000000, .quarAdd (fl 5 9 0 0 0)),                                 -- spec/23
   (0xF702818000000000, .audcfgSet (fl 5 6 0 0 0)),
   (0xFB04024000000000, .mcreadLo (fl 8 9 0 0 0))]

theorem test_worked_words : ∀ p ∈ worked, decodeTableWord 64 p.1 = some p.2 ∧ encode p.2 = BitVec.ofNat 64 p.1 := by decide +kernel
theorem test_worked_words2 : ∀ p ∈ worked2, decodeTableWord 64 p.1 = some p.2 ∧ encode p.2 = BitVec.ofNat 64 p.1 := by decide +kernel
theorem test_worked_words3 : ∀ p ∈ worked3, decodeTableWord 64 p.1 = some p.2 ∧ encode p.2 = BitVec.ofNat 64 p.1 := by decide +kernel

/-- A header, a reserved opcode's nearest words, an undefined mode, a bad scope and a bad keep are refused (Table 3.10, R77). -/
theorem test_refused_words : decodeTableWord 64 0xFF01426001804000 = none ∧ decodeTableWord 64 0x0000000000008000 = none ∧
    decodeTableWord 64 0x1000000000000001 = some (.add { fl 0 0 0 0 0 with gs := 1 }) ∧
    decodeTableWord 64 0x9200000001200000 = none ∧ decodeTableWord 64 0x3000800000000000 = none := by decide +kernel

/-! ### Ill-formed terms, one for each check (R63, R65, R78, R79; Table 3.10) -/

theorem test_form_reserved : (Instr.nop (fl 1 0 0 0 0)).formError = some .reserved := by decide +kernel
theorem test_form_mode : (Instr.bfx (fl 1 2 3 0 2)).formError = some .mode := by decide +kernel
theorem test_form_scope : (Instr.lda32 (fl 1 0 0 18 0)).formError = some .scope := by decide +kernel
theorem test_form_range : (Instr.tnow (fl 16 0 0 0 0)).formError = some .range := by decide +kernel
theorem test_form_align : (Instr.add64 (fl 1 0 0 0 0)).formError = some .align := by decide +kernel
theorem test_form_keep : (Instr.cmpS32 { fl 1 2 3 0 0 with k := 3 }).formError = some .keep := by decide +kernel
theorem test_form_good : (Instr.add64 (fl 2 4 6 0 0)).formError = none := by decide +kernel

/-! ### Effects: the spec's worked examples and hand calculations, one word each on one thread (the rule beside each) -/

/-- A word, the registers before it, a register after it and its value. -/
abbrev Row := Instr × NMap Word × Nat × Word

/-- Whether a row holds of a thread alone. -/
def holds (r : Row) : Bool := xAfter r.1 (at1 (thr r.2.1)) r.2.2.1 == r.2.2.2

noncomputable def integerRows : List Row :=
  [(.addminS32 (fl 4 1 2 3 0), [(1, 0x7FFFFFF0), (2, 0x20), (3, 5)], 4, 5),                         -- R112
   (.addminS32 (fl 4 1 2 3 0), [(1, 0x7FFFFFF0), (2, 0x20), (3, 0x7FFFFFFF)], 4, 0x7FFFFFFF),
   (.addi (fl 1 1 0 511 0), [(1, 5)], 1, 516),                                                      -- Table 5.1
   (.sub (fl 4 1 2 0 0), [(1, 3), (2, 5)], 4, 0xFFFFFFFE),
   (.mulhiS32 (fl 4 1 2 0 0), [(1, 0xFFFFFFFF), (2, 2)], 4, 0xFFFFFFFF),
   (.mulhiN32 (fl 4 1 2 0 0), [(1, 0xFFFFFFFF), (2, 2)], 4, 1),
   (.mad (fl 4 1 2 4 0), [(1, 3), (2, 4), (4, 5)], 4, 17),
   (.madwS32 (fl 4 1 2 4 0), [(1, 0xFFFFFFFF), (2, 1), (4, 0), (5, 1)], 5, 0),
   (.divS32 (fl 4 1 2 0 0), [(1, 0xFFFFFFF9), (2, 2)], 4, 0xFFFFFFFD),                               -- R113
   (.divS32 (fl 4 1 2 0 0), [(1, 0x80000000), (2, 0xFFFFFFFF)], 4, 0x80000000),
   (.divN32 (fl 4 1 2 0 0), [(1, 7)], 4, 0xFFFFFFFF),
   (.shrS32 (fl 4 1 2 0 0), [(1, 0x80000000), (2, 40)], 4, 0xFFFFFFFF),                              -- R115
   (.rotl (fl 4 1 2 0 0), [(1, 0x80000001), (2, 33)], 4, 3),
   (.bfx (fl 4 1 2 0 1), [(1, 0xF0), (2, 0x404)], 4, 0xFFFFFFFF),                                    -- R116
   (.bfi (fl 4 1 2 3 0), [(1, 5), (2, 0x81C), (3, 0x0FFFFFFF)], 4, 0x5FFFFFFF),
   (.cmpS32 (fl 4 1 2 (2 * 32 + 3) 0), [(1, 0xFFFFFFFF), (2, 1), (4, 0x10)], 4, 0x18),               -- R117
   (.cmpN32 (fl 4 1 2 (2 * 32 + 3) 1), [(1, 0xFFFFFFFF), (2, 1), (4, 0x18)], 4, 0x10)]

noncomputable def wideRows : List Row :=
  [(.add64 (fl 4 6 8 0 0), [(6, 0xFFFFFFFF), (8, 1)], 5, 1),                                         -- R118
   (.shl64 (fl 4 6 33 0 1), [(6, 0x80000001)], 5, 2),
   (.movi (fl 30 0 9 0x34 0), [], 30, 0x1234),
   (.movh (fl 30 30 (0xDEAD / 512) (0xDEAD % 512) 0), [(30, 0x1234)], 30, 0xDEAD1234),
   (.fxtr (fl 4 1 0 0 0), [(1, 0x3A83126F)], 4, 0x3F83126F),                                         -- R176
   (.fxtr (fl 4 1 0 0 0), [(1, 0x3A83126F)], 5, 0xFFFFFFF6),
   (.mix32 (fl 4 1 2 0 0), [(4, 9)], 4, 0),                                                          -- R178
   (.byteperm (fl 4 1 2 3 0), [(1, 0x33221100), (3, 0x0123)], 4, 0x00112233),                        -- R179
   (.brev (fl 4 1 0 0 0), [(1, 0x80000002)], 4, 0x40000001),
   (.fns (fl 4 1 2 0 0), [(1, 0xB4), (2, 2)], 4, 5),                                                 -- R180
   (.clz64 (fl 4 6 0 0 0), [], 4, 64),
   (.popc64 (fl 4 6 0 0 0), [(6, 3), (7, 0x80000000)], 4, 3)]

noncomputable def floatRows : List Row :=
  [(.ffma (fl 4 1 2 3 1), [(1, 0x3F800800), (2, 0x3F800800), (3, 0xBF801000)], 4, 0x33800000),       -- R139
   (.fmul (fl 4 1 2 0 1), [(1, 0x3F800800), (2, 0x3F800800)], 4, 0x3F801000),
   (.fadd (fl 4 1 2 0 1), [(1, 0x3F801000), (2, 0xBF801000), (4, 9)], 4, 0),
   (.fmin (fl 4 1 2 0 0), [(2, 0x80000000)], 4, 0x80000000),                                         -- R140
   (.fmaxi (fl 4 6 8 0 0), [(6, 0x40000000), (7, 7), (8, 0x40000000), (9, 3)], 5, 3),                -- Table 6.3
   (.fmaxi (fl 4 6 8 0 0), [(6, 0), (7, 9), (8, 0x80000000), (9, 1)], 5, 9),
   (.fmini (fl 4 6 8 0 0), [(6, 0), (7, 9), (8, 0x80000000), (9, 1)], 5, 1),
   (.fmini (fl 4 6 8 0 0), [(6, 0xFF800001), (7, 6), (8, 0x7FC00000), (9, 4)], 5, 4),
   (.fclass (fl 4 1 0 0 0), [(1, 0x7F800001)], 4, 0x100),                                            -- R144
   (.fcvti (fl 4 1 0 0 1), [(1, 0xC0200000)], 4, 0xFFFFFFFE),                                        -- R145: -2.5 to even
   (.fdiv (fl 4 1 2 0 1), [(1, 0x3F800000), (2, 0x40400000)], 4, 0x3EAAAAAB),                        -- 1/3
   (.fsqrt (fl 4 1 0 0 1), [(1, 0x40000000)], 4, 0x3FB504F3),                                        -- the root of 2
   (.hdot2 (fl 4 1 2 3 1), [(1, 0xC0003E00), (2, 0x34004400), (3, 0x3F800000)], 4, 0x40D00000)]      -- R150

theorem test_integers : ∀ r ∈ integerRows, holds r = true := by decide +kernel
theorem test_wide : ∀ r ∈ wideRows, holds r = true := by decide +kernel
theorem test_floats : ∀ r ∈ floatRows, holds r = true := by decide +kernel

/-- CRC32C of the nine bytes of the check string, from all ones and inverted (R177). -/
theorem test_crc32c : ~~~crc32c 1 (crc32c 4 (crc32c 4 0xFFFFFFFF 0x34333231) 0x38373635) 0x39 = 0xE3069283 := by decide +kernel

/-- DIV by zero sets DZ (R113). -/
theorem test_div_zero : ((next (exec (.divN32 (fl 4 1 2 0 0)) (at1 (thr [(1, 7)])))).thr 2048).status ≠ 0 := by decide +kernel

/-- A row whose lanes hold words in x1. -/
def laneWords (ws : List Word) : State :=
  let ts := (List.range ws.length).map fun i => (2048 + i, thr [(1, ws.getD i 0)])
  { base with threads := ts, beat := { threads := ts.map (·.1) } }

/-- x[r] of the first lanes after a word. -/
def rowAfter (i : Instr) (s : State) (n r : Nat) : List Word := (List.range n).map fun j => ((next (exec i s)).thr (2048 + j)).x r

/-- MATCH compares bits (Table 8.2). -/
theorem test_match : rowAfter (.matchW (fl 4 1 0 0 0)) (laneWords [0x7FC00000, 0x7FC00001, 0x80000000, 0, 0x7FC00000]) 5 4 = [0x11, 2, 4, 8, 0x11] := by
  decide +kernel

/-- SCAN.ADD, inclusive and exclusive (R190). -/
theorem test_scan : rowAfter (.scanAdd (fl 4 1 0 0 0)) (laneWords [3, 1, 4, 1]) 4 4 = [3, 4, 8, 9] := by decide +kernel

/-- BALLOT of bit 0 (R187). -/
theorem test_ballot : rowAfter (.ballot (fl 4 1 0 0 0)) (laneWords [3, 2, 5]) 3 4 = [5, 5, 5] := by decide +kernel

/-- SHFL.UP by one lane (R186). -/
theorem test_shfl_up : (rowAfter (.shflUp (fl 4 1 1 31 1)) (laneWords [7, 8, 9]) 3 4).drop 1 = [7, 8] := by decide +kernel

/-- The fixed tree gives 0x3F800001 where a tree over the active lanes alone would give 1 (Table 8.4). -/
theorem test_fixed_tree :
    let s := laneWords [0x3F800000, 0, 0x33800000, 0x33800000]
    ((next (exec (.redFadd (fl 4 1 0 0 1))
      { s with threads := s.threads.filter (·.1 ≠ 2049), beat := { threads := [2048, 2050, 2051] } })).thr 2048).x 4 = 0x3F800001 := by decide +kernel

/-- TSORT and TMIN (R219). -/
def fourTicks : State :=
  at1 { thr [(7, 0xF)] with
    treg := [(0, { p := true, tick := 900 }), (1, { p := true, tick := 650 }), (2, { p := true, tick := 900 }), (3, { p := true, tick := 700 })] }
theorem test_tsort : xAfter (.tsort (fl 20 7 0 0 0)) fourTicks 20 = 0xFFFF2031 ∧ xAfter (.tsort (fl 20 7 0 0 0)) fourTicks 21 = 0xFFFFFFFF ∧
    xAfter (.tmin (fl 20 7 0 0 0)) fourTicks 20 = 1 := by split_ands <;> decide +kernel

/-- IDX of the thread 37 of group (7, 2, 0) in a grid of 100 by 3 (Table 5.11). -/
theorem test_idx :
    let s0 := (base.modLch 0 fun l =>
      { l with gx := 100, gy := 3, gz := 1, kernel := { l.kernel with rows := 2 } }).modGrp 1 fun g => { g with index := 207 }
    let s := { s0 with threads := [(2048 + 37, th)], beat := { threads := [2048 + 37] } }
    (List.range 4).map (fun m => ((next (exec (.idx (fl 4 0 0 0 m)) s)).thr (2048 + 37)).x 4) = [207, 13285, 300, 64] := by decide +kernel

/-- BAR.WAIT's test of a ticket against a generation (Table 12.4). -/
theorem test_tickets : barPast 0xFFFFFFFE 0xFFFFFFFE = false ∧ barPast 0x00000003 0xFFFFFFFE = true ∧ barPast 0x00000008 0x00000010 = false := by
  split_ands <;> decide +kernel

/-- Ranks of BAR.GRID's instance 190: the first eight clusters from 190 upward are released first (Table 12.5). -/
theorem test_grid_ranks :
    let r := gridRanks 190 ((List.range 12) ++ [188, 189, 190, 191])
    [190, 191, 0, 1, 2, 3, 4, 5, 6, 7, 8, 9, 10, 11, 188, 189].map (fun c => nget r c 99 / 8) = List.replicate 8 0 ++ List.replicate 8 1 := by decide +kernel

/-- A resident page of 2 MiB on the frame 0x0030_4020_0000 of die 3 (R388). -/
theorem test_entry : pteFrame 0x8400003040200000 = 0x3040200000 ∧ pteFrame 0x8400003040200000 / 2 ^ 36 = 3 := by decide +kernel

/-- The two CRCs of the check string (spec/23). -/
theorem test_digests : digestA [0x31, 0x32, 0x33, 0x34, 0x35, 0x36, 0x37, 0x38, 0x39] = 0x6C40DF5F0B497347 ∧
    digestB [0x31, 0x32, 0x33, 0x34, 0x35, 0x36, 0x37, 0x38, 0x39] = 0x995DC9BBDF1939FA := by
  split_ands <;> decide +kernel

/-- SETMODE writes the bits under its mask and no others (R97). -/
theorem test_setmode : ((next (exec (.setmode (fl 0 0 3 262 0)) (at1 { th with mode := 0x109 }))).thr 2048).mode = 0x10E := by decide +kernel

/-- CALL writes the word after its block (R90). -/
theorem test_call : xAfter (.call (fl 4 0 0 1 0)) (twoBlocks th) 4 = 2 ∧ ((next (exec (.call (fl 4 0 0 1 0)) (twoBlocks th))).thr 2048).pc = 2 := by
  split_ands <;> decide +kernel

/-- A privileged word in user mode kills the group where no system extent stands (R361, R378). -/
theorem test_privilege : (match ((next (exec (.csrr (fl 4 0 0 0 0)) S)).grp 1).residency with | .killed c _ => c == 16 | _ => false) = true := by decide +kernel
/-! ### Witnesses: states that meet the hypotheses of the statements, clause by clause -/

theorem witness_GoingOnFrame :
    (S.grpOf 2048).cancelled = false ∧ (advanceBy S 2048 1 = advanceBy S 2048 1 ∨ advanceBy S 2048 1 = arrive S 2048 1) :=
  by split_ands <;> decide +kernel

theorem witness_TrapDelivery :
    (nfind Sy.threads 2048).isSome = true ∧ ((T Sy).sys = true ∨ Sy.csrs.sextn = 0) ∧ (nfind St.threads 2048).isSome = true ∧ (T St).sys = false ∧
    St.csrs.sextn ≠ 0 ∧ (keyNow St (St.lchOf 2048).tenant (trapSlot St (T St))).isSome = true :=
  by split_ands <;> decide +kernel

theorem witness_ControlWords :
    (∀ op ∈ [0xd, 0xc], Alone S 2048 op (fl 0 0 3 262 0)) ∧ Alone S 2048 0xe (fl 4 0 0 0 0) ∧
    (∀ op ∈ [0x0, 0x8, 0xa, 0xb], Alone S 2048 op (fl 0 0 0 0 0)) ∧ (∀ op ∈ [0x9, 0xbc], Alone S 2048 op (fl 0 20 0 0 0)) ∧
    (∀ op ∈ [0xbc, 0x9], Alone S 2048 op (fl 0 12 0 0 0)) ∧ Alone debugged 2048 0xc (fl 0 0 0 0 0) ∧ Alone Sy 2048 0xfd (fl 0 20 0 0 0) ∧
    Alone Sy 2048 0xfd (fl 0 12 0 0 0) ∧ (S.core (S.coreOf 2048)).dbgen = false ∧ (debugged.core (debugged.coreOf 2048)).dbgen = true ∧
    0 = ((T S).d 20).toNat % 2 ^ 60 ∧ 0 ≤ S.nowOf 2048 + 16 ∧ 0 = S.nowOf 2048 + ((T S).x 20).toNat ∧ ((T S).x 20).toNat ≤ 16 ∧
    0 = ((T Sy).d 20).toNat % 2 ^ 60 ∧ 0 ≤ Sy.nowOf 2048 + 16 ∧ 3221225473 = S.nowOf 2048 + ((T S).x 12).toNat ∧ 16 < ((T S).x 12).toNat ∧
    33285996545 = ((T S).d 12).toNat % 2 ^ 60 ∧ S.nowOf 2048 + 16 < 33285996545 ∧ 33285996545 = ((T Sy).d 12).toNat % 2 ^ 60 ∧
    Sy.nowOf 2048 + 16 < 33285996545 ∧ (T S).pend = [] :=
  by split_ands <;> decide +kernel

theorem witness_Branches :
    (∀ op ∈ [0x1, 0x3], Alone (twoBlocks (thr [(8, 2), (4, 0)])) 2048 op (fl 0 0 0 1 0)) ∧
    (∀ op ∈ [0x2, 0x4, 0x5, 0x1, 0x3], Alone (twoBlocks (thr [(8, 2), (4, 0)])) 2048 op (fl 0 8 0 0 0)) ∧
    (∀ op ∈ [0x2, 0x4, 0x5], Alone (twoBlocks (thr [(8, 1), (4, 0)])) 2048 op (fl 0 8 0 0 0)) ∧
    (∀ op ∈ [0xf, 0x6, 0x7], Alone (twoBlocks (thr [(4, 0)])) 2048 op (fl 4 0 0 1 0)) ∧ Alone (twoBlocks (thr [(4, 1)])) 2048 0xf (fl 4 0 0 1 0) ∧
    Alone (twoBlocks (thr [(4, 2)])) 2048 0xf (fl 4 0 0 1 0) ∧
    (∀ op ∈ [0xf, 0x7], Alone (twoBlocks (thr [(4, 4294967295)])) 2048 op (fl 4 0 0 0 0)) ∧
    Alone (twoBlocks (thr [(4, 4294967295)])) 2048 0xf (fl 4 511 511 510 0) ∧ (∀ op ∈ [0x7, 0x6], Alone (timed 6) 2048 op (fl 4 32 0 1 0)) ∧
    Alone (timed 6) 2048 0x6 (fl 4 32 0 2 0) ∧ (∀ op ∈ [0x6, 0x7], Alone (det (timed 6)) 2048 op (fl 4 32 0 2 0)) ∧
    isBlockStart (twoBlocks (thr [(8, 2), (4, 0)])) 2048 2 = true ∧ ↑(T (twoBlocks (thr [(8, 2), (4, 0)]))).pc + (fl 0 0 0 1 0).imm27.toInt = ↑2 ∧
    ((T (twoBlocks (thr [(8, 2), (4, 0)]))).x 8).toNat = 2 ∧
    (↑(T (twoBlocks (thr [(8, 2), (4, 0)]))).pc + (fl 0 8 0 0 0).imm27.toInt < 0 ∨ isBlockStart (twoBlocks (thr [(8, 2), (4, 0)])) 2048 (↑(T
      (twoBlocks (thr [(8, 2), (4, 0)]))).pc + (fl 0 8 0 0 0).imm27.toInt).toNat = false) ∧
    isBlockStart (twoBlocks (thr [(8, 1), (4, 0)])) 2048 (((T (twoBlocks (thr [(8, 1), (4, 0)]))).x 8).toNat) = false ∧
    (T (twoBlocks (thr [(4, 0)]))).x 4 = 0 ∧
    ((twoBlocks (thr [(4, 0)])).det 2048 = true ∨ decide (((T (twoBlocks (thr [(4, 0)]))).readT (fl 4 0 0 1 0).tTime).tick ≤ (twoBlocks (thr [(4,
      0)])).nowOf 2048 + ((T (twoBlocks (thr [(4, 0)]))).x 4).toNat) = true) ∧
    ↑(T (twoBlocks (thr [(4, 0)]))).pc + (fl 4 0 0 1 0).off23.toInt = ↑2 ∧ isBlockStart (twoBlocks (thr [(4, 0)])) 2048 2 = true ∧
    (T (twoBlocks (thr [(4, 1)]))).x 4 = 1 ∧ 2 ≤ ((T (twoBlocks (thr [(4, 2)]))).x 4).toNat ∧
    ↑(T (twoBlocks (thr [(4, 2)]))).pc + (fl 4 0 0 1 0).imm27.toInt = ↑2 ∧ isBlockStart (twoBlocks (thr [(4, 2)])) 2048 2 = true ∧
    2 ≤ ((T (twoBlocks (thr [(4, 4294967295)]))).x 4).toNat ∧ ↑(T (twoBlocks (thr [(4, 4294967295)]))).pc + (fl 4 0 0 0 0).imm27.toInt = ↑1 ∧
    isBlockStart (twoBlocks (thr [(4, 4294967295)])) 2048 1 = false ∧
    (↑(T (twoBlocks (thr [(4, 4294967295)]))).pc + (fl 4 0 0 0 0).off23.toInt < 0 ∨ isBlockStart (twoBlocks (thr [(4, 4294967295)])) 2048 (↑(T
      (twoBlocks (thr [(4, 4294967295)]))).pc + (fl 4 0 0 0 0).off23.toInt).toNat = false) ∧
    ((twoBlocks (thr [(4, 4294967295)])).det 2048 = true ∨ decide (((T (twoBlocks (thr [(4, 4294967295)]))).readT (fl 4 0 0 0 0).tTime).tick ≤
      (twoBlocks (thr [(4, 4294967295)])).nowOf 2048 + ((T (twoBlocks (thr [(4, 4294967295)]))).x 4).toNat) = true) ∧
    ↑(T (twoBlocks (thr [(4, 4294967295)]))).pc + (fl 4 511 511 510 0).imm27.toInt < 0 ∧ (timed 6).det 2048 = false ∧
    decide (((T (timed 6)).readT (fl 4 32 0 1 0).tTime).tick ≤ (timed 6).nowOf 2048 + ((T (timed 6)).x 4).toNat) = false ∧
    ↑(T (timed 6)).pc + (fl 4 32 0 1 0).off23.toInt = ↑2 ∧ isBlockStart (timed 6) 2048 2 = true ∧
    (↑(T (timed 6)).pc + (fl 4 32 0 2 0).off23.toInt < 0 ∨ isBlockStart (timed 6) 2048 (↑(T (timed 6)).pc + (fl 4 32 0 2 0).off23.toInt).toNat =
      false) ∧
    decide (((T (timed 6)).readT (fl 4 32 0 2 0).tTime).tick ≤ (timed 6).nowOf 2048 + ((T (timed 6)).x 4).toNat) = false ∧
    ((det (timed 6)).det 2048 = true ∨ decide (((T (det (timed 6))).readT (fl 4 32 0 2 0).tTime).tick ≤ (det (timed 6)).nowOf 2048 + ((T (det (timed
      6))).x 4).toNat) = true) ∧
    (↑(T (det (timed 6))).pc + (fl 4 32 0 2 0).off23.toInt < 0 ∨ isBlockStart (det (timed 6)) 2048 (↑(T (det (timed 6))).pc + (fl 4 32 0 2
      0).off23.toInt).toNat = false) :=
  by split_ands <;> decide +kernel

theorem witness_IntegerArithmetic :
    (∀ op ∈ [0x11, 0x16, 0x17, 0x18, 0x1d], Alone S 2048 op (fl 4 8 12 16 0)) ∧
    (∀ op ∈ [0x10, 0x12, 0x13, 0x14, 0x15, 0x19, 0x1a, 0x1b, 0x1c, 0x1e, 0x1f], Alone S 2048 op (fl 4 8 12 0 0)) ∧
    (∀ op ∈ [0x1e, 0x1f], Alone S 2048 op (fl 4 8 20 0 0)) ∧ (T S).x 12 ≠ 0 ∧ (T S).x 20 = 0 :=
  by split_ands <;> decide +kernel

theorem witness_IntegerLogic :
    (∀ op ∈ [0x24, 0x25, 0x26, 0x27, 0x28, 0x32, 0x33], Alone S 2048 op (fl 4 8 3 0 1)) ∧
    (∀ op ∈ [0x20, 0x21, 0x22, 0x23, 0x24, 0x2d, 0x34, 0x35], Alone S 2048 op (fl 4 8 1 0 0)) ∧
    (∀ op ∈ [0x30, 0x31, 0x36], Alone S 2048 op (fl 4 8 0 0 0)) ∧ Alone S 2048 0x24 (fl 4 8 12 16 2) ∧ Alone S 2048 0x24 (fl 4 8 12 16 3) :=
  by split_ands <;> decide +kernel

theorem witness_BitFields :
    Alone S 2048 0x2c (fl 4 8 16 12 0) ∧ Alone S 2048 0x2b (fl 4 8 16 0 0) ∧ Alone S 2048 0x2b (fl 4 8 16 0 1) ∧
    (∀ op ∈ [0x29, 0x7d, 0x2a, 0x7e], Alone S 2048 op (fl 4 8 0 0 0)) ∧ 24 = ((T S).x 16).toNat % 32 ∧ 22 = min (((T S).x 16).toNat / 256 % 64) 32 ∧
    0 = ((T S).x 0).toNat % 32 ∧ 0 = min (((T S).x 0).toNat / 256 % 64) 32 ∧ ((T S).x 8).toNat < 2 ^ (32 - 1) ∧
    (1 < 32 → 2 ^ (31 - 1) ≤ ((T S).x 8).toNat) ∧ ((T S).d 8).toNat < 2 ^ (64 - 2) ∧ (2 < 64 → 2 ^ (63 - 2) ≤ ((T S).d 8).toNat) :=
  by split_ands <;> decide +kernel

theorem witness_IntegerCompare :
    (∀ op ∈ [0x2e, 0x2f], Alone S 2048 op (fl 4 8 12 0 0)) ∧ (false = true ↔ BitVec.toInt ((T S).x 8) = BitVec.toInt ((T S).x 12)) ∧
    (false = true ↔ ↑(((T S).x 8).toNat) = ↑(((T S).x 12).toNat)) :=
  by split_ands <;> decide +kernel

theorem witness_Capabilities :
    (∀ op ∈ [0x37, 0x38, 0x39, 0x3b], Alone S 2048 op (fl 32 32 13 0 0)) ∧
    (∀ op ∈ [0x37, 0x38, 0x39, 0x3b], Alone (Sc 1) 2048 op (fl 32 32 13 0 0)) ∧ Alone (Sc 1) 2048 0x37 (fl 32 32 13 0 1) ∧
    (∀ op ∈ [0x3a, 0x3e], Alone (Sc 1) 2048 op (fl 4 32 0 0 1)) ∧ (∀ op ∈ [0x3a, 0x3c, 0x3e], Alone (Sc 1) 2048 op (fl 4 32 0 0 0)) ∧
    Alone (Sc 1) 2048 0x3a (fl 4 32 0 0 2) ∧ (∀ op ∈ [0x3a, 0x3b], Alone (Sc 1) 2048 op (fl 4 32 0 0 3)) :=
  by split_ands <;> decide +kernel

theorem witness_CapabilityChecks :
    (capAt 1 63 1073741824 1073741888 7 0).tag = true ∧ (capAt 1 63 1073741824 1073741888 7 0).space ≤ 1 ∧
    (capAt 1 63 1073741824 1073741888 7 0).perms &&& permLD = permLD ∧ (capAt 1 63 1073741824 1073741888 7 0).base ≤ 1073741888 ∧
    1073741888 + 4 ≤ (capAt 1 63 1073741824 1073741888 7 0).base + (capAt 1 63 1073741824 1073741888 7 0).length ∧
    (capAt 2 63 1073741824 1073741888 7 0).tag = true ∧ (capAt 2 63 1073741824 1073741888 7 0).space = 2 ∧
    (capAt 2 63 1073741824 1073741888 7 0).perms &&& permLD = permLD ∧ (capAt 2 63 1073741824 1073741888 7 0).base ≤ 1073741888 ∧
    1073741888 + 4 ≤ (capAt 2 63 1073741824 1073741888 7 0).base + (capAt 2 63 1073741824 1073741888 7 0).length ∧
    (capAt 2 63 1073741824 1073741888 7 0).space ≤ 2 ∧
    (¬((capAt 2 63 1073741824 1073741888 7 0).base ≤ 1073745917 ∧ 1073745917 + 4 ≤ (capAt 2 63 1073741824 1073741888 7 0).base + (capAt 2 63
      1073741824 1073741888 7 0).length)) ∧
    (capAt 3 63 1073741824 1073741888 7 0).tag = true ∧ (capAt 3 63 1073741824 1073741888 7 0).space = 3 ∧ (permST = permST ∨ permST = permAT) ∧
    (capAt 5 62 1073741824 1073741888 7 0).tag = true ∧ 4 < (capAt 5 62 1073741824 1073741888 7 0).space ∧
    (capAt 1 62 1073741824 1073741888 7 0).tag = true ∧ (capAt 1 62 1073741824 1073741888 7 0).space ≤ 4 ∧
    (capAt 1 62 1073741824 1073741888 7 0).perms &&& permLD ≠ permLD ∧ untagged.tag = false :=
  by split_ands <;> decide +kernel

theorem witness_SpecialRegisters :
    (∀ op ∈ [0x3d, 0x3f], Alone S 2048 op (fl 4 0 0 0 0)) ∧ Alone S 2048 0x3d (fl 4 0 0 10 0) ∧ Alone S 2048 0x3d (fl 4 0 0 11 0) ∧
    Alone S 2048 0x3d (fl 4 0 0 12 0) ∧ Alone S 2048 0x3d (fl 4 0 0 13 0) ∧ Alone S 2048 0x3d (fl 4 0 0 269 0) ∧ Alone S 2048 0x3f (fl 4 0 0 0 1) ∧
    Alone S 2048 0x3f (fl 4 0 0 0 2) ∧ Alone S 2048 0x3f (fl 4 0 0 0 3) ∧ Alone (det S) 2048 0x3d (fl 4 0 0 10 0) ∧ S.beat.adv = 1 ∧
    0 = (fl 4 0 0 0 0).imm18.toNat % 256 ∧ 10 = (fl 4 0 0 10 0).imm18.toNat % 256 ∧ 11 = (fl 4 0 0 11 0).imm18.toNat % 256 ∧
    12 = (fl 4 0 0 12 0).imm18.toNat % 256 ∧ 13 = (fl 4 0 0 13 0).imm18.toNat % 256 ∧ (fl 4 0 0 13 0).imm18.toNat / 256 % 2 = 0 ∧
    13 = (fl 4 0 0 269 0).imm18.toNat % 256 ∧ (fl 4 0 0 269 0).imm18.toNat / 256 % 2 = 1 ∧ 0 = (fl 4 0 0 0 1).imm18.toNat % 256 ∧
    0 = (fl 4 0 0 0 2).imm18.toNat % 256 ∧ 0 = (fl 4 0 0 0 3).imm18.toNat % 256 ∧ (det S).beat.adv = 1 :=
  by split_ands <;> decide +kernel

theorem witness_FloatArithmetic :
    (∀ op ∈ [0x40, 0x41, 0x42, 0x43, 0x46, 0x4d, 0x74, 0x44, 0x45, 0x47, 0x48], Alone S 2048 op (fl 4 8 9 0 0)) ∧
    (∀ op ∈ [0x4b, 0x4c], Alone S 2048 op (fl 4 8 1 0 0)) ∧ (∀ op ∈ [0x4a, 0x4c, 0x75], Alone S 2048 op (fl 4 12 0 0 2)) ∧
    Alone S 2048 0x47 (fl 4 12 8 325 0) ∧ (∀ op ∈ [0x49, 0x4e, 0x4f], Alone S 2048 op (fl 4 12 0 0 0)) ∧ (fl 4 8 1 0 0).b ≠ 0 ∧
    (fl 4 12 0 0 2).b = 0 ∧ (fl 4 8 9 0 0).cond < 8 ∧ fp32.operand (BitVec.getLsbD (T S).mode 2) (((T S).x 8).toNat) < 2 ^ 32 ∧
    fp32.isNaN 1078530011 = false ∧ fp32.isNaN 2143289344 = true ∧ 8 ≤ (fl 4 12 8 325 0).cond :=
  by split_ands <;> decide +kernel

theorem witness_PackedFloat :
    (∀ op ∈ [0x50, 0x51, 0x52, 0x53, 0x54, 0x55, 0x5b, 0x5c, 0x5d, 0x5e], Alone S 2048 op (fl 4 8 12 0 0)) ∧ Alone S 2048 0x55 (fl 4 8 12 258 0) ∧
    Alone S 2048 0x5e (fl 4 8 0 1 0) ∧ Alone S 2048 0x5e (fl 4 8 0 2 0) ∧ Alone S 2048 0x55 (fl 4 8 12 162 0) ∧
    Alone S 2048 0x55 (fl 4 8 12 290 0) ∧ Alone S 2048 0x55 (fl 4 8 12 418 0) ∧ (fl 4 8 12 0 0).cond < 8 ∧ 8 ≤ (fl 4 8 12 258 0).cond ∧
    (fl 4 8 12 0 0).c = 0 ∧ (fl 4 8 0 1 0).c = 1 ∧ (fl 4 8 0 2 0).c = 2 ∧ (fl 4 8 12 162 0).cond < 8 ∧ 8 ≤ (fl 4 8 12 290 0).cond ∧
    8 ≤ (fl 4 8 12 418 0).cond :=
  by split_ands <;> decide +kernel

theorem witness_NarrowFormats :
    Alone S 2048 0x6b (fl 4 0 0 0 0) ∧ (∀ op ∈ [0x60, 0x61, 0x66, 0x6c, 0x6e], Alone S 2048 op (fl 4 8 9 0 0)) ∧
    (∀ op ∈ [0x65, 0x64, 0x6c], Alone S 2048 op (fl 4 8 16 1 0)) ∧ Alone S 2048 0x6c (fl 4 12 16 2 0) ∧
    (∀ op ∈ [0x62, 0x63, 0x67], Alone S 2048 op (fl 4 12 0 3 0)) ∧ (∀ op ∈ [0x6d, 0x6f], Alone S 2048 op (fl 4 12 0 0 0)) ∧
    (∀ op ∈ [0x68, 0x69], Alone S 2048 op (fl 4 8 0 0 0)) ∧ Together S [2048] 106 (fl 0 8 0 0 0) ∧ (∀ j ∈ [2048], j / 32 = 2048 / 32 ∧ 2048 ≤ j) ∧
    (nfind S.groups (2048 / 2048)).isSome = true ∧ (S.grpOf 2048).cancelled = false ∧ (fl 4 8 9 0 0).c = 0 ∧ (fl 4 8 16 1 0).c = 1 ∧
    (fl 4 12 16 2 0).c = 2 :=
  by split_ands <;> decide +kernel

theorem witness_Curves :
    (∀ op ∈ [0x70, 0x72, 0x77, 0x78, 0x79, 0x7a, 0x7b, 0x7c], Alone (curved (thr [(8, 1056964608), (9, 1)])) 2048 op (fl 4 8 0 0 0)) ∧
    Alone (curved (thr [(8, 2143289344), (9, 2)])) 2048 0x76 (fl 4 8 0 1 0) ∧ Alone (curved (thr [(8, 257), (9, 2)])) 2048 0x7c (fl 4 8 0 0 1) ∧
    (∀ op ∈ [0x73, 0x7f], Alone (curved (thr [(8, 257), (9, 2)])) 2048 op (fl 0 8 0 0 0)) ∧ Alone S 2048 0x7c (fl 4 8 12 0 0) ∧
    Alone S 2048 0x76 (fl 4 8 0 0 0) ∧ Alone S 2048 0x76 (fl 4 12 0 1 0) ∧ Alone (toCurve 8) 2048 0x71 (fl 4 8 0 0 0) ∧
    Alone (toCurve 67331) 2048 0x71 (fl 4 8 0 0 0) ∧ Alone (toCurve 67331) 2048 0x71 (fl 4 9 0 0 0) ∧
    (nfind ((curved (thr [(8, 1056964608), (9, 1)])).grpOf 2048).tables (0 % 8)).isSome = true ∧
    BitVec.getLsbD ((T (curved (thr [(8, 1056964608), (9, 1)]))).x 8) 24 = true ∧
    (List.filter (BitVec.getLsbD ((T (curved (thr [(8, 1056964608), (9, 1)]))).x 8)) (List.range 24)).length = ((T (curved (thr [(8, 1056964608),
      (9, 1)]))).x 0).toNat ∧
    nfind ((curved (thr [(8, 1069547520), (9, 2)])).grpOf 2048).tables (1 % 8) = none ∧
    (curved (thr [(8, 1069547520), (9, 2)])).beat.threads = [2048] ∧ mayRun (curved (thr [(8, 1069547520), (9, 2)])) 2048 = true ∧
    guardPasses (T (curved (thr [(8, 1069547520), (9, 2)]))) (fl 4 8 0 1 0) = true ∧ asyncDue (T (curved (thr [(8, 1069547520), (9, 2)]))) = none ∧
    causeOf (curved (thr [(8, 1069547520), (9, 2)])) 2048 112 (fl 4 8 0 1 0) = 0 ∧
    poisonFault (T (curved (thr [(8, 1069547520), (9, 2)]))) 112 (fl 4 8 0 1 0) = false ∧
    BitVec.getLsbD ((T (curved (thr [(8, 257), (9, 2)]))).x 8) 8 = true ∧
    (List.filter (BitVec.getLsbD ((T (curved (thr [(8, 257), (9, 2)]))).x 8)) (List.range' (8 + 1) (31 - 8))).length = ((T (curved (thr [(8, 257),
      (9, 2)]))).x 0).toNat ∧
    (List.filter (BitVec.getLsbD ((T S).x 8)) (List.range 32)).length ≤ ((T S).x 12).toNat ∧
    fp32.read (BitVec.getLsbD (T S).mode 2) (((T S).x 8).toNat) = Real.fin false 13176795 (-22) ∧
    ((reduceR halfPi false 13176795 (-22)).1, (reduceR halfPi false 13176795 (-22)).2) = reduceR (if (fl 4 8 0 0 0).c = 0 then halfPi else lnTwo)
      false 13176795 (-22) ∧
    fp32.read (BitVec.getLsbD (T S).mode 2) (((T S).x 12).toNat) = Real.fin true 8388609 (-22) ∧
    ((reduceR lnTwo true 8388609 (-22)).1, (reduceR lnTwo true 8388609 (-22)).2) = reduceR (if (fl 4 12 0 1 0).c = 0 then halfPi else lnTwo) true
      8388609 (-22) ∧
    accessFault (toCurve 67331) 2048 ((T (toCurve 67331)).cap 32) permLD (adr (toCurve 67331)) (20 * (((T (toCurve 67331)).x 4).toNat / 65536 %
      128)) 1 = none ∧
    (accessFault (toCurve 67331) 2048 ((T (toCurve 67331)).cap 36) permLD ((((T (toCurve 67331)).cap 36).cursor + ((T (toCurve 67331)).x 0).toNat) %
      2 ^ 52) (20 * (((T (toCurve 67331)).x 4).toNat / 65536 % 128)) 1).isSome = true ∧
    nfind curveLoading.xfers 5 = some curveLoad ∧ curveLoad.kind = XferKind.curve 3 7 1 ∧ curveLoad.booked = true ∧
    piecesDone curveLoading 5 = true ∧ curveBehind curveLoading 5 curveLoad.group = false ∧ (nfind curveLoading.groups curveLoad.group).isSome = true ∧
    curveLoad.units = 1 ∧ (∀ p ∈ curveLoading.xfers, p.1 = 5) ∧ (curveLoad.gotUnit 0).absent = false ∧ (curveLoad.gotUnit 0).poisoned = false ∧
    piecesDone (pieceOut curveLoading) 5 = false ∧ nfind (pieceOut curveLoading).xfers 5 = some curveLoad ∧
    curveBehind curveSecond 5 curveLoad.group = true ∧ nfind curveSecond.xfers 5 = some curveLoad :=
  by split_ands <;> decide +kernel

theorem witness_RowWords :
    [2048, 2049, 2050] ≠ [] ∧ (∀ j ∈ [2048, 2049, 2050], j / 32 = 64) ∧ Together Sr [2048, 2049, 2050] 128 (fl 4 8 1 16 0) ∧
    Together Sr [2048, 2049, 2050] 129 (fl 4 8 1 16 0) ∧ Together Sr [2048, 2049, 2050] 130 (fl 4 8 1 16 0) ∧
    Together Sr [2048, 2049, 2050] 131 (fl 4 8 1 16 0) ∧ Together Sr [2048, 2049, 2050] 132 (fl 4 8 1 16 0) ∧
    Together Sr [2048, 2049, 2050] 133 (fl 4 8 1 16 0) ∧ Together Sr [2048, 2049, 2050] 134 (fl 4 8 1 0 0) ∧
    Together Sr [2048, 2049, 2050] 135 (fl 4 8 0 0 0) ∧ Together Sr [2048, 2049, 2050] 135 (fl 4 8 0 0 1) ∧
    Together Sr [2048, 2049, 2050] 143 (fl 4 0 0 0 0) ∧ (∀ j ∈ [2048, 2049, 2050], j / 32 = 64 ∧ 2048 ≤ j) ∧
    Together Sr [2048, 2049, 2050] 136 (fl 4 8 0 0 0) ∧ Together Sr [2048, 2049, 2050] 137 (fl 4 8 0 0 0) ∧
    Together Sr [2048, 2049, 2050] 138 (fl 4 8 0 0 0) ∧ Together Sr [2048, 2049, 2050] 139 (fl 4 8 0 0 0) ∧
    Together Sr [2048, 2049, 2050] 140 (fl 4 8 0 0 0) ∧ (fl 4 8 0 0 0).c.getLsbD 0 = false ∧ Together Sr [2048, 2049, 2050] 141 (fl 4 8 0 0 0) ∧
    Together Sr [2048, 2049, 2050] 142 (fl 4 8 0 0 0) ∧ Together Sr [2048, 2049, 2050] 136 (fl 4 8 0 0 1) ∧
    Together Sr [2048, 2049, 2050] 137 (fl 4 8 0 0 1) ∧ Together Sr [2048, 2049, 2050] 137 (fl 4 8 0 0 2) ∧
    Together Sr [2048, 2049, 2050] 140 (fl 4 8 0 0 2) ∧ Together Sr [2048, 2049, 2050] 137 (fl 4 8 0 0 3) ∧ (fl 4 8 0 1 0).c.getLsbD 0 = true ∧
    Together Sr [2048, 2049, 2050] 141 (fl 4 8 0 1 0) :=
  by split_ands <;> decide +kernel

theorem witness_TimeRegisters :
    (∀ op ∈ [0x9c, 0x9f], Alone S 2048 op (fl 4 8 9 0 0)) ∧ (∀ op ∈ [0x99, 0x9d, 0x9b], Alone S 2048 op (fl 4 0 0 0 0)) ∧
    Alone S 2048 0x9a (fl 4 13 0 0 0) ∧ Alone S 2048 0x9c (fl 4 1 0 0 1) ∧ (∀ op ∈ [0x96, 0x9b, 0x9e], Alone (Sm 0) 2048 op (fl 0 8 0 0 0)) ∧
    (∀ op ∈ [0x9c, 0x9d, 0x9a], Alone (det (at1 ticking)) 2048 op (fl 4 13 0 0 0)) ∧
    (∀ op ∈ [0x9c, 0x9d, 0x9b], Alone (det S) 2048 op (fl 4 1 0 0 0)) ∧ S.det 2048 = false ∧
    List.filter (fun i => BitVec.getLsbD ((T S).x 0) i) (List.range 16) = [] ∧
    0 ∈ List.filter (fun i => BitVec.getLsbD ((T (Sm 0)).x 8) i) (List.range 16) ∧
    (∀ j ∈ List.filter (fun i => BitVec.getLsbD ((T (Sm 0)).x 8) i) (List.range 16), j ≠ 0 → if (Sm 0).det 2048 = true then 0 < j else ((T (Sm
      0)).readT 0).tick < ((T (Sm 0)).readT j).tick ∨ ((T (Sm 0)).readT 0).tick = ((T (Sm 0)).readT j).tick ∧ 0 < j) ∧
    [0, 1, 2].Perm (List.filter (fun i => BitVec.getLsbD ((T S).x 13) i) (List.range 16)) ∧
    (List.Pairwise (fun i j => if S.det 2048 = true then i < j else ((T S).readT i).tick < ((T S).readT j).tick ∨ ((T S).readT i).tick = ((T
      S).readT j).tick ∧ i < j) [0, 1, 2]) ∧
    (det (at1 ticking)).det 2048 = true ∧ nfind (T S).bound 1 = none ∧ ((T S).t 1).p = false ∧ ((T S).t 1).e = false ∧
    operandsReady S 2048 158 (fl 0 1 3 0 0) = true ∧ (((T (at1 tickingOne)).t 1).p = true ∨ ((T (at1 tickingOne)).t 1).e = true) ∧
    (det S).det 2048 = true ∧ 0 ∈ List.filter (fun i => BitVec.getLsbD ((T (det S)).x 1) i) (List.range 16) ∧
    (∀ j ∈ List.filter (fun i => BitVec.getLsbD ((T (det S)).x 1) i) (List.range 16), j ≠ 0 → if (det S).det 2048 = true then 0 < j else ((T (det
      S)).readT 0).tick < ((T (det S)).readT j).tick ∨ ((T (det S)).readT 0).tick = ((T (det S)).readT j).tick ∧ 0 < j) ∧
    operandsReady S 2048 158 (fl 0 1 3 0 1) = true ∧
    [0, 1, 2].Perm (List.filter (fun i => BitVec.getLsbD ((T (det (at1 ticking))).x 13) i) (List.range 16)) ∧
    (List.Pairwise (fun i j => if (det (at1 ticking)).det 2048 = true then i < j else ((T (det (at1 ticking))).readT i).tick < ((T (det (at1
      ticking))).readT j).tick ∨ ((T (det (at1 ticking))).readT i).tick = ((T (det (at1 ticking))).readT j).tick ∧ i < j) [0, 1, 2]) :=
  by split_ands <;> decide +kernel

theorem witness_LoadsStart :
    Alone (Sm 0) 2048 0x90 (fl 4 8 0 0 0) ∧ Alone (Sm 5) 2048 0x90 (fl 4 8 0 0 0) ∧
    accessFault (Sm 0) 2048 ((T (Sm 0)).cap 32) permLD (adr (Sm 0)) 1 1 = none ∧
    (accessFault (Sm 5) 2048 ((T (Sm 5)).cap 32) permLD (adr (Sm 5)) 1 1).isSome = true :=
  by split_ands <;> decide +kernel

theorem witness_UpdatesStart :
    Alone (Sm 0) 2048 0xa0 (fl 4 8 0 0 0) ∧ Alone Sw 2048 0xa0 (fl 4 8 0 0 0) ∧ Alone (Sm 5) 2048 0xa0 (fl 4 8 0 0 0) ∧
    operandsReady Sf 2048 0xa2 (fl 4 8 0 0 0) = false ∧ guardPasses (T Sf) (fl 4 8 0 0 0) = true ∧ Alone Sn 2048 0xa2 (fl 4 8 0 0 0) ∧
    accessFault (Sm 0) 2048 ((T (Sm 0)).cap 32) permST (adr (Sm 0)) 1 1 = none ∧
    resolve (Sm 0) 2048 ((T (Sm 0)).cap 32).space (adr (Sm 0)) = Resolved.key (checked (Sm 0) 4160) 1073745984 ∧
    porchFull (checked (Sm 0) 4160) ((checked (Sm 0) 4160).dieOf 2048) 1073745984 = false ∧
    accessFault Sw 2048 ((T Sw).cap 32) permST (adr Sw) 1 1 = none ∧
    resolve Sw 2048 ((T Sw).cap 32).space (adr Sw) = Resolved.hold (checked Sw 4160) ∧
    (accessFault (Sm 5) 2048 ((T (Sm 5)).cap 32) permST (adr (Sm 5)) 1 1).isSome = true ∧
    accessFault Sf 2048 ((T Sf).cap 32) permST (adr Sf) 4 4 = none ∧
    keyKnown Sf 2048 ((T Sf).cap 32).space (adr Sf) = some 69793222720 ∧ porchFull Sf (Sf.dieOf 2048) 69793222720 = true ∧ accessFault Sn 2048 ((T Sn).cap 32) permST (adr Sn) 4 4 = none ∧
    resolve Sn 2048 ((T Sn).cap 32).space (adr Sn) = Resolved.fault { cause := causeCow, addr := 4160 } :=
  by split_ands <;> decide +kernel

theorem witness_StairAndPins :
    Alone S 2048 0xaf (fl 0 0 0 0 0) ∧ Alone (det S) 2048 0xaf (fl 0 0 0 0 0) ∧ Alone (det rowOne) 2048 0xaf (fl 0 0 0 0 0) ∧
    Alone (det Sr1) 2048 0xaf (fl 0 0 0 0 0) ∧ S.det 2048 = false ∧ operandsReady S 2048 175 (fl 0 0 0 0 0) = true ∧ (det S).det 2048 = true ∧
    (det rowOne).det 2048 = true ∧ (nfind (det bare).launches 0).isSome = true ∧ nfind pinned4.pins 5 = some (1, 3) ∧ 3 < pinned4.now ∧
    nfind pinned3.pins 5 = some (1, 3) ∧ pinned3.now ≤ 3 ∧ (det Sr1).det 2048 = true :=
  by split_ands <;> decide +kernel

theorem witness_UpdateApplied :
    nfind (withUpd 8 (aStore (UpdPhase.lehr 9))).upds 5 = some (aStore (UpdPhase.lehr 9)) ∧ (aStore (UpdPhase.lehr 9)).phase = UpdPhase.lehr 9 ∧
    (withUpd 8 (aStore (UpdPhase.lehr 9))).now < 9 ∧ nfind (withUpd 9 (aStore (UpdPhase.lehr 9))).upds 5 = some (aStore (UpdPhase.lehr 9)) ∧
    9 ≤ (withUpd 9 (aStore (UpdPhase.lehr 9))).now :=
  by split_ands <;> decide +kernel

theorem witness_UpdateCourse :
    nfind (withUpd 8 (aStore (UpdPhase.travel 9))).upds 5 = some (aStore (UpdPhase.travel 9)) ∧
    (aStore (UpdPhase.travel 9)).phase = UpdPhase.travel 9 ∧ (withUpd 8 (aStore (UpdPhase.travel 9))).now < 9 ∧
    nfind (withUpd 9 (aStore (UpdPhase.travel 9))).upds 5 = some (aStore (UpdPhase.travel 9)) ∧ 9 ≤ (withUpd 9 (aStore (UpdPhase.travel 9))).now ∧
    behind (withUpd 9 (aStore (UpdPhase.travel 9))) 5 (aStore (UpdPhase.travel 9)) = false ∧
    inBusyTile (withUpd 9 (aStore (UpdPhase.travel 9))) (aStore (UpdPhase.travel 9)).key (aStore (UpdPhase.travel 9)).bytes = false ∧
    frameFree (withUpd 9 (aStore (UpdPhase.travel 9))) (aStore (UpdPhase.travel 9)).key = false ∧ (aStore (UpdPhase.travel 9)).ret = none ∧
    nfind (withUpd 9 knownStore).upds 5 = some knownStore ∧ (knownStore.c).isSome = true ∧ (knownStore.knownAt).isSome = true ∧
    (knownStore.th).isSome = true ∧ knownStore.told = false ∧
    nfind (withUpd 9 (aStore (UpdPhase.applied 9))).upds 5 = some (aStore (UpdPhase.applied 9)) ∧
    (aStore (UpdPhase.applied 9)).phase = UpdPhase.applied 9 ∧ offDie (aStore (UpdPhase.applied 9)).die (aStore (UpdPhase.applied 9)).key = false ∧
    9 ≤ (withUpd 9 (aStore (UpdPhase.applied 9))).now ∧ ((aStore (UpdPhase.applied 9)).th).isSome = true ∧
    (aStore (UpdPhase.applied 9)).counted = true ∧ nfind (withUpd 9 pooledStore).upds 5 = some pooledStore ∧
    pooledStore.phase = UpdPhase.applied 9 ∧ offDie pooledStore.die pooledStore.key = true ∧ 9 ≤ (withUpd 9 pooledStore).now ∧
    (pooledStore.th).isSome = true ∧ 6 ≤ pooledStore.scope ∧ nfind (withUpd 9 unsent).upds 5 = some unsent ∧
    porchNext (withUpd 9 unsent) 0 (Home.die 1) = some 5 ∧ (withUpd 9 unsent).lostSends.contains (unsent.die, homeOf unsent.key) = false :=
  by split_ands <;> decide +kernel

theorem witness_PorchRecovery :
    nfind (withUpd 1033 (aPorched UpdPhase.porch)).upds 5 = some (aPorched UpdPhase.porch) ∧ (aPorched UpdPhase.porch).sent = some 10 ∧
    (aPorched UpdPhase.porch).phase = UpdPhase.porch ∧
    (withUpd 1033 (aPorched UpdPhase.porch)).now < 10 + 1024 * ((aPorched UpdPhase.porch).replays + 1) ∧
    ((withUpd 1033 (aPorched UpdPhase.porch)).die 0).seized.contains (Home.die 1) = false ∧
    nfind (withUpd 1034 (aPorched UpdPhase.porch)).upds 5 = some (aPorched UpdPhase.porch) ∧ (aPorched UpdPhase.porch).replays < 8 ∧
    10 + 1024 * ((aPorched UpdPhase.porch).replays + 1) ≤ (withUpd 1034 (aPorched UpdPhase.porch)).now ∧
    nfind (withUpd 9226 (aPorched UpdPhase.porch)).upds 5 = some (aPorched UpdPhase.porch) ∧
    10 + 9216 ≤ (withUpd 9226 (aPorched UpdPhase.porch)).now ∧
    ((withUpd 9226 (aPorched UpdPhase.porch)).die (aPorched UpdPhase.porch).die).seized.contains (homeOf (aPorched UpdPhase.porch).key) = false ∧
    nfind (seizedBy 9226 (aPorched UpdPhase.porch)).upds 5 = some (aPorched UpdPhase.porch) ∧
    ((seizedBy 9226 (aPorched UpdPhase.porch)).die 0).seized.contains (Home.die 1) = true ∧
    seizedEntry (seizedBy 9226 (aPorched UpdPhase.porch)) 0 (Home.die 1) = some (5, aPorched UpdPhase.porch) ∧
    porchQueue (seizedBy 9226 (aPorched UpdPhase.porch)) 0 (Home.die 1) = [5] ∧ nfind (seizedBy 9226 lostStore).upds 5 = some lostStore ∧
    lostStore.sent = some 10 ∧ ((seizedBy 9226 lostStore).die 0).seized.contains (Home.die 1) = true ∧
    seizedEntry (seizedBy 9226 lostStore) 0 (Home.die 1) = some (5, lostStore) ∧ lostStore.phase = UpdPhase.applied 0 ∧ 6 ≤ lostStore.scope :=
  by split_ands <;> decide +kernel

theorem witness_Refusals :
    nfind (withUpd 9226 (aPorched UpdPhase.porch)).upds 5 = some (aPorched UpdPhase.porch) ∧ (aPorched UpdPhase.porch).th = some 2048 ∧
    (aPorched UpdPhase.porch).unapplied = true ∧ (aPorched UpdPhase.porch).ret = none ∧ (aPorched UpdPhase.porch).xfer = none ∧
    (nfind (withUpd 9226 (aPorched UpdPhase.porch)).threads 2048).isSome = true ∧
    nfind (withUpd 9226 (aPorched (UpdPhase.applied 9))).upds 5 = some (aPorched (UpdPhase.applied 9)) ∧
    (aPorched (UpdPhase.applied 9)).th = some 2048 ∧ (aPorched (UpdPhase.applied 9)).unapplied = false :=
  by split_ands <;> decide +kernel

theorem witness_LoadCourse :
    (aLoad (RetPhase.probe 9 12 14)).phase = RetPhase.probe 9 12 14 ∧ (aLoad (RetPhase.probe 9 12 14)).kind ≠ RetKind.probe ∧
    9 ≤ (withRet 9 (aLoad (RetPhase.probe 9 12 14))).now ∧ estimated.phase = RetPhase.probe 9 12 14 ∧ estimated.kind ≠ RetKind.probe ∧
    9 ≤ (withRet 9 estimated).now ∧ aProbe.phase = RetPhase.probe 9 12 14 ∧ aProbe.kind = RetKind.probe ∧ 9 ≤ (withRet 9 aProbe).now ∧
    aProbe.discard = false ∧ aProbe.n = 1 ∧ aProbe.dst ≠ 0 ∧ farLoad.phase = RetPhase.booked 500 514 ∧ farLoad.est = true ∧
    farLoad.issued + 400 ≤ (withBoundRet 410 farLoad).now ∧ (aLoad (RetPhase.read 14)).phase = RetPhase.read 14 ∧
    (aLoad (RetPhase.read 14)).kind = RetKind.load false false ∧ 14 ≤ (withRet 14 (aLoad (RetPhase.read 14))).now ∧
    (aLoad (RetPhase.read 14)).discard = false ∧ (aLoad (RetPhase.read 14)).dst ≠ 0 ∧ [67305985] = wordsOf (aLoad (RetPhase.read 14)).data ∧
    (aLoad (RetPhase.read 14)).n ≤ [67305985].length ∧ poisonedLoad.phase = RetPhase.read 14 ∧ poisonedLoad.kind = RetKind.load false false ∧
    14 ≤ (withRet 14 poisonedLoad).now ∧ poisonedLoad.discard = false ∧ poisonedLoad.dst ≠ 0 ∧ [67305985] = wordsOf poisonedLoad.data ∧
    poisonedLoad.n ≤ [67305985].length ∧ atomicRet.phase = RetPhase.read 14 ∧ atomicRet.kind = RetKind.atomic ∧ 14 ≤ (withRet 14 atomicRet).now ∧
    atomicRet.discard = false ∧ atomicRet.dst ≠ 0 ∧ atomicRet.poisoned = false ∧ atomicRet.n ≤ (wordsOf atomicRet.data).length ∧
    (aLoad RetPhase.blocked).phase = RetPhase.blocked ∧ ((aLoad RetPhase.blocked).key).isSome = true ∧
    (aLoad (RetPhase.retry 15 3)).phase = RetPhase.retry 15 3 ∧
    ((withRet 14 (aLoad (RetPhase.retry 15 3))).now < 15 ∨ (aLoad (RetPhase.retry 15 3)).key = none) ∧ (aLoad (RetPhase.booked 12 14)).est = false ∧
    (aLoad (RetPhase.booked 12 14)).phase = RetPhase.booked 12 14 ∧ nfind (withRet 9 bookedEst).rets 5 = some bookedEst ∧
    nfind (withRet 9 bookedEst).threads bookedEst.th = some (T (withRet 9 (aLoad (RetPhase.booked 12 14)))) ∧ bookedEst.est = true :=
  by split_ands <;> decide +kernel

theorem witness_FencesCountersWakes :
    (∀ op ∈ [0xb0, 0xb1, 0xbd, 0xbf, 0xbe], Alone S 2048 op (fl 0 0 0 0 0)) ∧ Alone S 2048 0xbf (fl 4 8 0 0 0) ∧ Alone S 2048 0xbe (fl 0 8 1 0 0) ∧
    Alone S 2048 0xbe (fl 0 0 1 0 0) ∧ Alone Sr1 2048 0xbd (fl 0 0 0 0 0) ∧ operandsReady S 2048 177 (fl 0 0 0 0 0) = true ∧
    (fl 0 0 0 0 0).imm18.toNat % 16 < 14 ∧ (fl 0 0 0 0 0).imm18.toNat / 16 % 16 < 14 ∧ operandsReady S 2048 176 (fl 0 0 0 2 0) = true ∧
    1 ≤ (fl 0 0 0 2 0).scope ∧
    (∃ j ∈ threadsOf Sr1 (2048 / 2048), j ≠ 2048 ∧ rowOf j = rowOf 2048 ∧ (Sr1.thr j).life ≠ Life.exited ∧ (Sr1.thr j).wait ≠ Wait.row) ∧
    (T Sr1).yieldBar ≤ Sr1.curSlot (Sr1.coreOf 2048) ∧ (∀ j ∈ threadsOf S (2048 / 2048), j ≠ 2048 → rowOf j ≠ rowOf 2048) ∧
    (handleSlot S 2048 ((T S).x 0)).isSome = true ∧ ((T S).x 0).toNat < 1 ∧ handleSlot S 2048 ((T S).x 8) = none ∧ 1 ≤ ((T S).x 1).toNat ∧
    ((T (waiting 4 (Wait.tick 5))).wait = Wait.tick 5 ∨ (T (waiting 4 (Wait.tick 5))).wait = Wait.idle 5) ∧
    (waiting 4 (Wait.tick 5)).nowOf 2048 < 5 ∧
    ((T (waiting 5 (Wait.idle 5))).wait = Wait.tick 5 ∨ (T (waiting 5 (Wait.idle 5))).wait = Wait.idle 5) ∧
    5 ≤ (waiting 5 (Wait.idle 5)).nowOf 2048 ∧ yielding.curSlot (yielding.coreOf 2048) < (T yielding).yieldBar :=
  by split_ands <;> decide +kernel

theorem witness_BarrierObjects :
    (∀ op ∈ [0xb2, 0xb3, 0xb4, 0xb5], Alone (sramWords [2, 0, 5, 9]) 2048 op (fl 16 8 0 0 0)) ∧
    Alone (sramWords [2, 1, 5, 9]) 2048 0xb5 (fl 16 8 0 0 0) ∧ Alone (sramWords [2, 1, 5, 9]) 2048 0xb4 (fl 0 8 0 0 0) ∧
    (∀ op ∈ [0xb2, 0xb3, 0xb4, 0xb5], Alone (Sm 0) 2048 op (fl 1 8 0 0 0)) ∧
    accessFault (sramWords [2, 0, 5, 9]) 2048 ((T (sramWords [2, 0, 5, 9])).cap 32) permST (adr (sramWords [2, 0, 5, 9])) 16 16 [1] = none ∧
    2 ^ 52 + 4160 = 2 ^ 52 + ((sramWords [2, 0, 5, 9]).grpOf 2048).cluster * 2 ^ 22 + (((T (sramWords [2, 0, 5, 9])).cap 32).cursor + ((T (sramWords
      [2, 0, 5, 9])).x 0).toNat) % 2 ^ 52 % 2 ^ 22 ∧
    (¬(0 < (rdNat (sramWords [2, 0, 5, 9]) (2 ^ 52 + 4160 + 8) 4 + 2 ^ 32 - ((T (sramWords [2, 0, 5, 9])).x 16).toNat) % 2 ^ 32 ∧ (rdNat (sramWords
      [2, 0, 5, 9]) (2 ^ 52 + 4160 + 8) 4 + 2 ^ 32 - ((T (sramWords [2, 0, 5, 9])).x 16).toNat) % 2 ^ 32 < 2 ^ 31)) ∧
    (rdNat (sramWords [2, 0, 5, 9]) (2 ^ 52 + 4160 + 4) 4 + 1) % 2 ^ 32 < rdNat (sramWords [2, 0, 5, 9]) (2 ^ 52 + 4160 + 0) 4 ∧
    accessFault (sramWords [2, 1, 5, 9]) 2048 ((T (sramWords [2, 1, 5, 9])).cap 32) permST (adr (sramWords [2, 1, 5, 9])) 16 16 [1] = none ∧
    2 ^ 52 + 4160 = 2 ^ 52 + ((sramWords [2, 1, 5, 9]).grpOf 2048).cluster * 2 ^ 22 + (((T (sramWords [2, 1, 5, 9])).cap 32).cursor + ((T (sramWords
      [2, 1, 5, 9])).x 0).toNat) % 2 ^ 52 % 2 ^ 22 ∧
    rdNat (sramWords [2, 1, 5, 9]) (2 ^ 52 + 4160 + 0) 4 ≤ (rdNat (sramWords [2, 1, 5, 9]) (2 ^ 52 + 4160 + 4) 4 + 1) % 2 ^ 32 ∧
    (0 < (rdNat (sramWords [2, 1, 5, 9]) (2 ^ 52 + 4160 + 8) 4 + 2 ^ 32 - ((T (sramWords [2, 1, 5, 9])).x 0).toNat) % 2 ^ 32 ∧ (rdNat (sramWords [2,
      1, 5, 9]) (2 ^ 52 + 4160 + 8) 4 + 2 ^ 32 - ((T (sramWords [2, 1, 5, 9])).x 0).toNat) % 2 ^ 32 < 2 ^ 31) ∧
    (accessFault (Sm 0) 2048 ((T (Sm 0)).cap 32) permST (adr (Sm 0)) 16 16 [1]).isSome = true :=
  by split_ands <;> decide +kernel

theorem witness_HardwareBarriers :
    Alone S 2048 0xb6 (fl 4 0 0 0 0) ∧ (1 = match 0 with | 0 => 2048 / 2048 | 1 => (S.grpOf 2048).cluster | 2 => S.dieOf 2048 | _ => 0) ∧
    openBar S 0 (S.grpOf 2048).launch 1 = none ∧
    openBar (barred 9 Wait.none (anInstance 0 [0] [])) 0 ((barred 9 Wait.none (anInstance 0 [0] [])).grpOf 2048).launch 1 = some (5, anInstance 0
      [0] []) ∧
    ((barred 9 Wait.none (anInstance 0 [0] [])).grpOf 2048).index ∈ (anInstance 0 [0] []).members ∧
    openBar (barred 9 Wait.none (anInstance 1 [4] [])) 1 ((barred 9 Wait.none (anInstance 1 [4] [])).grpOf 2048).launch 0 = some (5, anInstance 1
      [4] []) ∧
    ((barred 9 Wait.none (anInstance 1 [4] [])).grpOf 2048).index ∉ (anInstance 1 [4] []).members ∧
    nfind (barred 9 Wait.none (anInstance 1 [0] [])).hwbars 5 = some (anInstance 1 [0] []) ∧
    barDue (barred 9 Wait.none (anInstance 1 [0] [])) (anInstance 1 [0] []) = false ∧
    nfind (barred 9 (Wait.hw 5 false 4) (anInstance 1 [0] [2048])).hwbars 5 = some (anInstance 1 [0] [2048]) ∧
    barDue (barred 9 (Wait.hw 5 false 4) (anInstance 1 [0] [2048])) (anInstance 1 [0] [2048]) = true ∧ (anInstance 1 [0] [2048]).level ≠ 3 ∧
    nfind (barred 9 (Wait.hw 5 false 4) (anInstance 3 [0] [2048])).hwbars 5 = some (anInstance 3 [0] [2048]) ∧
    barDue (barred 9 (Wait.hw 5 false 4) (anInstance 3 [0] [2048])) (anInstance 3 [0] [2048]) = true ∧ (anInstance 3 [0] [2048]).level = 3 ∧
    nfind (barred 72 (Wait.hw 5 false 4) gridReleased).hwbars 5 = some gridReleased ∧ gridReleased.released = some 9 ∧
    nfind gridReleased.left 0 = some 8 ∧ (barred 72 (Wait.hw 5 false 4) gridReleased).now < 9 + 64 * (8 / 8) ∧
    nfind (barred 73 (Wait.hw 5 false 4) gridReleased).hwbars 5 = some gridReleased ∧
    9 + 64 * (8 / 8) ≤ (barred 73 (Wait.hw 5 false 4) gridReleased).now :=
  by split_ands <;> decide +kernel

theorem witness_Flags :
    Alone (Sm 0) 2048 0xba (fl 4 8 0 0 0) ∧ Alone (sramWords [7]) 2048 0xbb (fl 4 8 0 0 0) ∧ Alone (sramWords [7]) 2048 0xbb (fl 4 8 0 0 1) ∧
    accessFault (Sm 0) 2048 ((T (Sm 0)).cap 32) (if 0 = 1 then permST ||| permAT else permST) (adr (Sm 0)) 4 4 = none ∧
    resolve (Sm 0) 2048 ((T (Sm 0)).cap 32).space (adr (Sm 0)) = Resolved.key (checked (Sm 0) 4160) 1073745984 ∧
    porchFull (checked (Sm 0) 4160) ((checked (Sm 0) 4160).dieOf 2048) 1073745984 = false ∧ releaseReady (Sm 0) 2048 (fl 4 8 0 0 0).scope = true ∧
    accessFault (sramWords [7]) 2048 ((T (sramWords [7])).cap 32) permLD (adr (sramWords [7])) 4 4 = none ∧
    (accessFault (Sm 1) 2048 ((T (Sm 1)).cap 36) permLD (adr (Sm 1)) 4 4).isSome = true ∧ Alone (Sm 1) 2048 0xbb (fl 4 9 0 0 0) ∧
    (∀ p ∈ flagCases, nfind (flagging p.1 p.2 7).rets 6 = some (aFlagRead 7)) ∧ (∀ p ∈ flagCases, 9 ≤ (flagging p.1 p.2 7).now) ∧
    (∀ p ∈ flagCases, (T (flagging p.1 p.2 7)).wait = .flag (some (2 ^ 52 + 4160)) 1 4160 9 false (some 6) (fl 4 8 0 0 p.1)) ∧
    (∀ p ∈ flagCases, (T (flagging p.1 p.2 7)).x 4 = p.2) ∧ (aFlagRead 7).kind = RetKind.flag ∧ (aFlagRead 7).phase = RetPhase.read 9 ∧
    (aFlagRead 7).absent = false ∧ (aFlagRead 7).poisoned = false ∧
    nfind { flagging 0 7 7 with rets := [(6, { aFlagRead 7 with absent := true })] }.rets 6 = some { aFlagRead 7 with absent := true } ∧
    (∀ fired, nfind (waiting 9 (flagOf 9 fired)).threads 2048 = some (T (waiting 9 (flagOf 9 fired))) ∧
      (T (waiting 9 (flagOf 9 fired))).wait = flagOf 9 fired ∧ 0 < 9 ∧ 9 ≤ (waiting 9 (flagOf 9 fired)).now) ∧
    (T (waiting 8 (flagOf 9 false))).wait = flagOf 9 false ∧ (waiting 8 (flagOf 9 false)).now < 9 ∧ (T (waiting 8 (flagOf 0 false))).wait = flagOf 0 false :=
  by split_ands <;> decide +kernel

theorem witness_CopiesStart :
    Alone (toCopy 0 2 0 64) 2048 0xc0 (fl 4 8 20 0 0) ∧ Alone (toCopy 0 5 0 64) 2048 0xc0 (fl 4 8 20 0 0) ∧
    Alone (notProd (toCopy 0 2 0 64)) 2048 0xc0 (fl 4 8 20 0 0) ∧ copyFault 0 (fl 4 8 20 0 0) 2048 (toCopy 0 2 0 64) = none ∧
    (copyFault 0 (fl 4 8 20 0 0) 2048 (toCopy 0 5 0 64)).isSome = true ∧ 2048 % 2048 / 32 ≠ ((notProd (toCopy 0 2 0 64)).kernOf 2048).producer :=
  by split_ands <;> decide +kernel

theorem witness_CopyCourse :
    nfind (copying (aCopy 0)).xfers 5 = some (aCopy 0) ∧ (aCopy 0).kind = XferKind.copy 0 ∧ unitDue (copying (aCopy 0)) 5 = true ∧
    (aCopy 0).next = 0 ∧
    readUnit (copying (aCopy 0)) (aCopy 0).group (dieOfCore (aCopy 0).core) (aCopy 0).space (((aCopy 0).va + 16 * 0) % 2 ^ 52) 16 { k := 2048, before := 0 } = Got.bytes
      (List.replicate 16 0) ∧
    (List.replicate 16 0).length = 16 ∧ xferDone (copying (aCopy 0)) (aCopy 0) = false ∧ nfind (copying farCopy).xfers 5 = some farCopy ∧
    farCopy.kind = XferKind.copy 0 ∧ unitDue (copying farCopy) 5 = true ∧ farCopy.next = 0 ∧
    readUnit (copying farCopy) farCopy.group (dieOfCore farCopy.core) farCopy.space ((farCopy.va + 16 * 0) % 2 ^ 52) 16 { k := 2048, before := 0 } = Got.absent ∧
    nfind (copying movedCopy).xfers 5 = some movedCopy ∧ movedCopy.kind = XferKind.copy 0 ∧ unitDue (copying movedCopy) 5 = false ∧
    xferDone (copying movedCopy) movedCopy = true :=
  by split_ands <;> decide +kernel

theorem witness_Tiles :
    Alone (notProd (tiled [] [(1, 2)])) 2048 0xc6 (fl 4 1 32 5 0) ∧
    (∀ op ∈ [0xc7, 0xcb, 0xc9, 0xc8, 0xca], Alone (notProd (tiled [] [(1, 2)])) 2048 op (fl 0 1 0 0 0)) ∧
    Alone (tiled [] [(1, 3), (5, 64)]) 2048 0xc6 (fl 4 1 32 5 0) ∧
    (∀ op ∈ [0xc8, 0xca], Alone (tiled [] [(1, 3), (5, 64)]) 2048 op (fl 4 1 0 0 0)) ∧
    Alone (tiled [] [(1, 2), (5, 64)]) 2048 0xc6 (fl 4 1 32 5 0) ∧ Alone (tiled [] [(1, 2), (5, 64)]) 2048 0xc7 (fl 0 1 0 0 0) ∧
    Alone (tiled [] [(1, 3), (5, 8256)]) 2048 0xc6 (fl 4 1 32 5 0) ∧ Alone (tiled [] [(1, 256), (5, 64)]) 2048 0xc7 (fl 0 1 0 0 0) ∧
    ¬2048 % 2048 / 32 = ((notProd (tiled [] [(1, 2)])).kernOf 2048).producer ∧ 2 = ((T (notProd (tiled [] [(1, 2)]))).x 1).toNat ∧
    (tileOf (notProd (tiled [] [(1, 2)])) (2048 / 2048) 2).isSome = true ∧ 2048 % 2048 / 32 = ((tiled [] [(1, 3), (5, 64)]).kernOf 2048).producer ∧
    3 = ((T (tiled [] [(1, 3), (5, 64)])).x 1).toNat ∧
    accessFault (tiled [] [(1, 3), (5, 64)]) 2048 ((T (tiled [] [(1, 3), (5, 64)])).cap 32) (permLD ||| permST) ((T (tiled [] [(1, 3), (5,
      64)])).cap 32).cursor (((T (tiled [] [(1, 3), (5, 64)])).x 5).toNat) 1 [1] = none ∧
    ((T (tiled [] [(1, 3), (5, 64)])).cap 32).cursor % 64 = 0 ∧ ((T (tiled [] [(1, 3), (5, 64)])).x 5).toNat % 64 = 0 ∧
    64 ≤ ((T (tiled [] [(1, 3), (5, 64)])).x 5).toNat ∧ ((T (tiled [] [(1, 3), (5, 64)])).x 5).toNat ≤ 4194304 ∧
    tileOf (tiled [] [(1, 3), (5, 64)]) (2048 / 2048) 3 = none ∧
    (∀ w ∈ ((tiled [] [(1, 3), (5, 64)]).grp (2048 / 2048)).tiles, ¬(((T (tiled [] [(1, 3), (5, 64)])).cap 32).cursor < w.off + w.len ∧ w.off < ((T
      (tiled [] [(1, 3), (5, 64)])).cap 32).cursor + ((T (tiled [] [(1, 3), (5, 64)])).x 5).toNat)) ∧
    tileCount (tiled [] [(1, 3), (5, 64)]) ((tiled [] [(1, 3), (5, 64)]).grp (2048 / 2048)).cluster < 256 ∧
    2048 % 2048 / 32 = ((tiled [] [(1, 2), (5, 64)]).kernOf 2048).producer ∧ 2 = ((T (tiled [] [(1, 2), (5, 64)])).x 1).toNat ∧
    accessFault (tiled [] [(1, 2), (5, 64)]) 2048 ((T (tiled [] [(1, 2), (5, 64)])).cap 32) (permLD ||| permST) ((T (tiled [] [(1, 2), (5,
      64)])).cap 32).cursor (((T (tiled [] [(1, 2), (5, 64)])).x 5).toNat) 1 [1] = none ∧
    ((T (tiled [] [(1, 2), (5, 64)])).cap 32).cursor % 64 = 0 ∧ ((T (tiled [] [(1, 2), (5, 64)])).x 5).toNat % 64 = 0 ∧
    64 ≤ ((T (tiled [] [(1, 2), (5, 64)])).x 5).toNat ∧ ((T (tiled [] [(1, 2), (5, 64)])).x 5).toNat ≤ 4194304 ∧
    tileOf (tiled [] [(1, 2), (5, 64)]) (2048 / 2048) 2 ≠ none ∧ (tileOf (tiled [] [(1, 2), (5, 64)]) (2048 / 2048) 2).isSome = true ∧
    2048 % 2048 / 32 = ((tiled [] [(1, 3), (5, 8256)]).kernOf 2048).producer ∧ 3 = ((T (tiled [] [(1, 3), (5, 8256)])).x 1).toNat ∧
    accessFault (tiled [] [(1, 3), (5, 8256)]) 2048 ((T (tiled [] [(1, 3), (5, 8256)])).cap 32) (permLD ||| permST) ((T (tiled [] [(1, 3), (5,
      8256)])).cap 32).cursor (((T (tiled [] [(1, 3), (5, 8256)])).x 5).toNat) 1 [1] = none ∧
    ((T (tiled [] [(1, 3), (5, 8256)])).cap 32).cursor % 64 = 0 ∧ ((T (tiled [] [(1, 3), (5, 8256)])).x 5).toNat % 64 = 0 ∧
    64 ≤ ((T (tiled [] [(1, 3), (5, 8256)])).x 5).toNat ∧ ((T (tiled [] [(1, 3), (5, 8256)])).x 5).toNat ≤ 4194304 ∧
    tileOf (tiled [] [(1, 3), (5, 8256)]) (2048 / 2048) 3 = none ∧
    (∃ w ∈ ((tiled [] [(1, 3), (5, 8256)]).grp (2048 / 2048)).tiles, ((T (tiled [] [(1, 3), (5, 8256)])).cap 32).cursor < w.off + w.len ∧ w.off <
      ((T (tiled [] [(1, 3), (5, 8256)])).cap 32).cursor + ((T (tiled [] [(1, 3), (5, 8256)])).x 5).toNat) ∧
    2048 % 2048 / 32 = ((tiled [] [(1, 256), (5, 64)]).kernOf 2048).producer ∧ 256 ≤ ((T (tiled [] [(1, 256), (5, 64)])).x 1).toNat :=
  by split_ands <;> decide +kernel

theorem witness_PagesAndWalks :
    Alone (Sp 0) 2048 0xcc (fl 4 8 0 0 0) ∧ Alone (Sm 0) 2048 0xcf (fl 4 8 0 0 0) ∧ Alone (Sm 1) 2048 0xcc (fl 4 8 0 0 0) ∧
    accessFault (Sp 0) 2048 ((T (Sp 0)).cap 32) permLD (adr (Sp 0)) 1 1 [0, 2, 3] = none ∧
    (((T (Sp 0)).cap 32).space = 0 ∨ ((T (Sp 0)).cap 32).space = 3) ∧
    accessFault (Sm 0) 2048 ((T (Sm 0)).cap 32) permST (adr (Sm 0)) 1 1 [0, 2, 3] = none ∧
    (((T (Sm 0)).cap 32).space = 0 ∨ ((T (Sm 0)).cap 32).space = 3) ∧
    walk (Sm 0) ((Sm 0).lchOf 2048).tenant (adr (Sm 0)) = WalkRes.leaf (aLeaf 0 4) ∧
    (accessFault (Sm 1) 2048 ((T (Sm 1)).cap 32) permLD (adr (Sm 1)) 1 1 [0, 2, 3]).isSome = true ∧
    (aWalk RetKind.pgstat (RetPhase.walk 10 4 1048576)).phase = RetPhase.walk 10 4 1048576 ∧
    (walking 0 (aWalk RetKind.pgstat (RetPhase.walk 10 4 1048576))).now < 10 ∧
    (aWalk RetKind.pgstat (RetPhase.walk 9 4 1048576)).phase = RetPhase.walk 9 4 1048576 ∧
    9 ≤ (walking 0 (aWalk RetKind.pgstat (RetPhase.walk 9 4 1048576))).now ∧
    ((walking 0 (aWalk RetKind.pgstat (RetPhase.walk 9 4 1048576))).tenant ((walking 0 (aWalk RetKind.pgstat (RetPhase.walk 9 4 1048576))).lchOf
      (aWalk RetKind.pgstat (RetPhase.walk 9 4 1048576)).th).tenant).root ≠ 0 ∧
    walkLevel (walking 0 (aWalk RetKind.pgstat (RetPhase.walk 9 4 1048576))) 1048576 4 (aWalk RetKind.pgstat (RetPhase.walk 9 4 1048576)).va =
      WalkStep.down 2097152 ∧
    (aWalk RetKind.pgstat (RetPhase.walk 9 1 4194304)).phase = RetPhase.walk 9 1 4194304 ∧
    9 ≤ (walking 0 (aWalk RetKind.pgstat (RetPhase.walk 9 1 4194304))).now ∧
    ((walking 0 (aWalk RetKind.pgstat (RetPhase.walk 9 1 4194304))).tenant ((walking 0 (aWalk RetKind.pgstat (RetPhase.walk 9 1 4194304))).lchOf
      (aWalk RetKind.pgstat (RetPhase.walk 9 1 4194304)).th).tenant).root ≠ 0 ∧
    walkLevel (walking 0 (aWalk RetKind.pgstat (RetPhase.walk 9 1 4194304))) 4194304 1 (aWalk RetKind.pgstat (RetPhase.walk 9 1 4194304)).va =
      WalkStep.stop (WalkRes.leaf (smallLeaf 0)) ∧
    (aWalk RetKind.pgstat (RetPhase.back 10 (WalkRes.leaf (smallLeaf 0)))).phase = RetPhase.back 10 (WalkRes.leaf (smallLeaf 0)) ∧
    (walking 0 (aWalk RetKind.pgstat (RetPhase.back 10 (WalkRes.leaf (smallLeaf 0))))).now < 10 ∧
    (aWalk RetKind.pgstat (RetPhase.back 9 (WalkRes.leaf (smallLeaf 0)))).phase = RetPhase.back 9 (WalkRes.leaf (smallLeaf 0)) ∧
    9 ≤ (walking 0 (aWalk RetKind.pgstat (RetPhase.back 9 (WalkRes.leaf (smallLeaf 0))))).now ∧
    ((smallLeaf 0).size = 0 ∨ (smallLeaf 0).size = 2 ∨ (smallLeaf 0).size = 4) ∧
    nfind (walking 0 (aWalk RetKind.pgstat (RetPhase.back 9 (WalkRes.leaf (smallLeaf 0))))).threads (aWalk RetKind.pgstat (RetPhase.back 9
      (WalkRes.leaf (smallLeaf 0)))).th = some (T (Sp 0)) ∧
    (aWalk RetKind.pgstat (RetPhase.back 9 (WalkRes.leaf (smallLeaf 0)))).kind = RetKind.pgstat ∧
    (aWalk (RetKind.load false false) (RetPhase.back 9 (WalkRes.leaf (smallLeaf 3)))).phase = RetPhase.back 9 (WalkRes.leaf (smallLeaf 3)) ∧
    9 ≤ (walking 3 (aWalk (RetKind.load false false) (RetPhase.back 9 (WalkRes.leaf (smallLeaf 3))))).now ∧
    ((smallLeaf 3).size = 0 ∨ (smallLeaf 3).size = 2 ∨ (smallLeaf 3).size = 4) ∧
    nfind (walking 3 (aWalk (RetKind.load false false) (RetPhase.back 9 (WalkRes.leaf (smallLeaf 3))))).threads (aWalk (RetKind.load false false)
      (RetPhase.back 9 (WalkRes.leaf (smallLeaf 3)))).th = some (T (Sp 0)) ∧
    (aWalk (RetKind.load false false) (RetPhase.back 9 (WalkRes.leaf (smallLeaf 3)))).kind = RetKind.load false false ∧
    ((smallLeaf 3).state = 3 ∨ (smallLeaf 3).state = 4) ∧
    (aWalk (RetKind.page 12 0) (RetPhase.back 9 (WalkRes.leaf (smallLeaf 0)))).phase = RetPhase.back 9 (WalkRes.leaf (smallLeaf 0)) ∧
    9 ≤ (walking 0 (aWalk (RetKind.page 12 0) (RetPhase.back 9 (WalkRes.leaf (smallLeaf 0))))).now ∧
    nfind (walking 0 (aWalk (RetKind.page 12 0) (RetPhase.back 9 (WalkRes.leaf (smallLeaf 0))))).threads (aWalk (RetKind.page 12 0) (RetPhase.back 9
      (WalkRes.leaf (smallLeaf 0)))).th = some (T (Sp 0)) ∧
    (aWalk (RetKind.page 12 0) (RetPhase.back 9 (WalkRes.leaf (smallLeaf 0)))).kind = RetKind.page 12 0 ∧ (smallLeaf 0).state ≠ 3 ∧
    (smallLeaf 0).state ≠ 4 ∧ (aWalk (RetKind.page 12 0) (RetPhase.back 9 (WalkRes.leaf (smallLeaf 0)))).discard = false ∧
    (aWalk (RetKind.page 12 0) (RetPhase.back 9 (WalkRes.leaf (smallLeaf 0)))).n = 1 ∧
    (aWalk (RetKind.page 12 0) (RetPhase.back 9 (WalkRes.leaf (smallLeaf 0)))).dst ≠ 0 ∧
    (aWalk (RetKind.page 12 0) (RetPhase.back 9 (WalkRes.leaf (smallLeaf 3)))).phase = RetPhase.back 9 (WalkRes.leaf (smallLeaf 3)) ∧
    9 ≤ (walking 3 (aWalk (RetKind.page 12 0) (RetPhase.back 9 (WalkRes.leaf (smallLeaf 3))))).now ∧
    nfind (walking 3 (aWalk (RetKind.page 12 0) (RetPhase.back 9 (WalkRes.leaf (smallLeaf 3))))).threads (aWalk (RetKind.page 12 0) (RetPhase.back 9
      (WalkRes.leaf (smallLeaf 3)))).th = some (T (Sp 0)) ∧
    (aWalk (RetKind.page 12 0) (RetPhase.back 9 (WalkRes.leaf (smallLeaf 3)))).kind = RetKind.page 12 0 ∧ (smallLeaf 3).state = 3 ∧
    pteNoPg (smallLeaf 3).raw = false ∧ (smallLeaf 3).size = 0 ∧ pteIl (smallLeaf 3).raw = false ∧
    ((walking 3 (aWalk (RetKind.page 12 0) (RetPhase.back 9 (WalkRes.leaf (smallLeaf 3))))).die (pteFrame (smallLeaf 3).raw / 2 ^ 36 % 16)).pool4k =
      2415919104 :: List.map (fun i => 2415923200 + i * 4096) (List.range 64) ∧
    (List.map (fun i => 2415923200 + i * 4096) (List.range 64)).length ≠ 63 ∧
    ((smallLeaf 3).entry + 8 ≤ 2415919104 ∨ 2415919104 + 4096 ≤ (smallLeaf 3).entry) ∧
    (aWalk (RetKind.page 12 0) (RetPhase.back 9 (WalkRes.leaf (smallLeaf 3)))).discard = false ∧
    (aWalk (RetKind.page 12 0) (RetPhase.back 9 (WalkRes.leaf (smallLeaf 3)))).n = 1 ∧
    (aWalk (RetKind.page 12 0) (RetPhase.back 9 (WalkRes.leaf (smallLeaf 3)))).dst ≠ 0 :=
  by split_ands <;> decide +kernel

theorem witness_PageOperations :
    nfind (paging 1 (aCow (some 2048) (PagePhase.start 10))).pageOps 5 = some (aCow (some 2048) (PagePhase.start 10)) ∧
    (aCow (some 2048) (PagePhase.start 10)).kind = PageKind.cow (some 2048) none ∧
    (aCow (some 2048) (PagePhase.start 10)).phase = PagePhase.start 10 ∧ (paging 1 (aCow (some 2048) (PagePhase.start 10))).now < 10 ∧
    9 ≤ (paging 1 (aCow (some 2048) (PagePhase.start 9))).now ∧
    cowBehind (paging 1 (aCow (some 2048) (PagePhase.start 9))) 5 (aCow (some 2048) (PagePhase.start 9)) = false ∧
    walk (paging 1 (aCow (some 2048) (PagePhase.start 9))) (aCow (some 2048) (PagePhase.start 9)).tenant (aCow (some 2048) (PagePhase.start 9)).va =
      WalkRes.leaf (smallLeaf 1) ∧
    (smallLeaf 1).state = 1 ∧ (smallLeaf 1).size = 0 ∧ pteNoCow (smallLeaf 1).raw = false ∧ pteFrame (smallLeaf 1).raw < 2 ^ 40 ∧
    (paging 1 (aCow (some 2048) (PagePhase.start 9))).count (pteFrame (smallLeaf 1).raw) ≠ 1 ∧ pteIl (smallLeaf 1).raw = false ∧
    ((paging 1 (aCow (some 2048) (PagePhase.start 9))).die (pteFrame (smallLeaf 1).raw / 2 ^ 36 % 16)).pool4k = 2415919104 :: List.map (fun i =>
      2415923200 + i * 4096) (List.range 64) ∧
    (List.map (fun i => 2415923200 + i * 4096) (List.range 64)).length ≠ 63 ∧ 9 ≤ (counted (paging 1 (aCow (some 2048) (PagePhase.start 9)))).now ∧
    cowBehind (counted (paging 1 (aCow (some 2048) (PagePhase.start 9)))) 5 (aCow (some 2048) (PagePhase.start 9)) = false ∧
    walk (counted (paging 1 (aCow (some 2048) (PagePhase.start 9)))) (aCow (some 2048) (PagePhase.start 9)).tenant (aCow (some 2048)
      (PagePhase.start 9)).va = WalkRes.leaf (smallLeaf 1) ∧
    (counted (paging 1 (aCow (some 2048) (PagePhase.start 9)))).count (pteFrame (smallLeaf 1).raw) = 1 ∧ inCounts (smallLeaf 1).entry 8 = false ∧
    (heldThread (paging 1 (aCow (some 2048) PagePhase.host))).pageOps = [(5, aCow (some 2048) PagePhase.host)] ∧
    (aCow (some 2048) PagePhase.host).kind = PageKind.cow (some 2048) none ∧ (aCow (some 2048) PagePhase.host).phase = PagePhase.host ∧
    nfind (heldThread (paging 1 (aCow (some 2048) PagePhase.host))).threads 2048 = some (T (heldThread (Sp 1))) ∧
    (T (heldThread (Sp 1))).pageHold = some 5 ∧ S.pageOps = [] ∧ (poolOf (S.die 0) 0).length < 4096 ∧ (2 < 3 ∨ 4096 ≤ (poolOf (S.die 0) 3).length) ∧
    nfind (storesTo (paging 2 (aMove (PagePhase.drain 2415919104)))).pageOps 5 = some (aMove (PagePhase.drain 2415919104)) ∧
    (aMove (PagePhase.drain 2415919104)).kind = PageKind.move (MigTarget.die 0) (some 6) ∧
    (aMove (PagePhase.drain 2415919104)).phase = PagePhase.drain 2415919104 ∧
    storesLeft (storesTo (paging 2 (aMove (PagePhase.drain 2415919104)))) (aMove (PagePhase.drain 2415919104)) = true ∧
    nfind (paging 2 (aMove (PagePhase.drain 2415919104))).pageOps 5 = some (aMove (PagePhase.drain 2415919104)) ∧
    storesLeft (paging 2 (aMove (PagePhase.drain 2415919104))) (aMove (PagePhase.drain 2415919104)) = false ∧
    (aMove (PagePhase.copying 10 2415919104)).phase = PagePhase.copying 10 2415919104 ∧
    (paging 2 (aMove (PagePhase.copying 10 2415919104))).now < 10 ∧
    (aMove (PagePhase.copying 9 2415919104)).phase = PagePhase.copying 9 2415919104 ∧
    9 ≤ (withPageRet (paging 2 (aMove (PagePhase.copying 9 2415919104)))).now ∧ (aMove (PagePhase.copying 9 2415919104)).leaf.size = 0 ∧
    ((aMove (PagePhase.copying 9 2415919104)).leaf.entry + 8 ≤ 2415919104 ∨ 2415919104 + 4096 ≤ (aMove (PagePhase.copying 9 2415919104)).leaf.entry)
      ∧
    pteFrame (aMove (PagePhase.copying 9 2415919104)).leaf.raw < 2 ^ 40 ∧
    (poolOf ((withPageRet (paging 2 (aMove (PagePhase.copying 9 2415919104)))).die (pteFrame (aMove (PagePhase.copying 9 2415919104)).leaf.raw / 2 ^
      36 % 16)) 0).length < 4096 ∧
    walk (Sp 0) 0 1073745984 = WalkRes.leaf (smallLeaf 0) ∧ (smallLeaf 0).size = 0 ∧
    ((smallLeaf 0).state = 0 ∨ (smallLeaf 0).state = 1 ∨ (smallLeaf 0).state = 5) ∧ walk (Sp 3) 0 1073745984 = WalkRes.leaf (smallLeaf 3) ∧
    (smallLeaf 3).size = 0 ∧ ((smallLeaf 3).state = 3 ∨ (smallLeaf 3).state = 4) ∧ (withPageRet (paging 4 aPagein)).pageOps = [(5, aPagein)] ∧
    aPagein.kind = PageKind.pagein [6] ∧ aPagein.leaf.base = (smallLeaf 4).base ∧ walk (Sp 4) 0 1073745984 = WalkRes.leaf (smallLeaf 4) ∧ nfind (withPageRet (paging 4 aPagein)).rets 6 = some placeRet ∧
    nfind (withPageRet (paging 4 aPagein)).threads placeRet.th = some (T (Sp 4)) ∧ placeRet.discard = false ∧ placeRet.n = 1 ∧ placeRet.dst ≠ 0 ∧
    (Sp 0).pageOps = [] ∧ inStack 4194312 = true :=
  by split_ands <;> decide +kernel

theorem witness_MatrixResources :
    Alone (inGroup matrixGroup [(1, 5)]) 2048 0xd0 (fl 4 1 0 0 0) ∧ Alone (inGroup matrixGroup [(1, 5)]) 2048 0xd1 (fl 0 1 0 0 0) ∧
    Alone (inGroup matrixGroup [(1, 257)]) 2048 0xd0 (fl 4 1 0 0 0) ∧
    (∀ op ∈ [0xd1, 0xd3], Alone (inGroup matrixGroup [(1, 257)]) 2048 op (fl 0 1 0 0 0)) ∧
    Alone (inGroup matrixGroup [(1, 515)]) 2048 0xd0 (fl 4 1 0 0 0) ∧ Alone (inGroup matrixGroup [(1, 515)]) 2048 0xd1 (fl 0 1 0 0 0) ∧
    Alone slotTaken 2048 0xd0 (fl 4 1 0 0 0) ∧ Alone accsTaken 2048 0xd0 (fl 4 1 0 0 0) ∧
    Alone (inGroup matrixGroup [(1, 3)]) 2048 0xd0 (fl 4 1 2 0 2) ∧ Alone accShared 2048 0xd0 (fl 4 1 2 0 2) ∧
    Alone accsFull 2048 0xd0 (fl 4 1 2 0 2) ∧ Alone (inGroup matrixGroup [(1, 1), (2, 196865)]) 2048 0xd2 (fl 4 1 2 0 0) ∧
    Alone (inGroup matrixGroup [(1, 1), (2, 196865)]) 2048 0xd3 (fl 0 1 0 0 0) ∧
    Alone (inGroup matrixGroup [(1, 5), (2, 196865)]) 2048 0xd2 (fl 4 1 2 0 0) ∧ Alone (inGroup matrixGroup [(1, 8)]) 2048 0xd7 (fl 0 1 0 0 0) ∧
    Alone (inGroup matrixGroup [(1, 3), (2, 4095), (3, 77)]) 2048 0xdb (fl 0 1 2 3 0) ∧
    Alone (inGroup matrixGroup [(1, 3), (2, 0), (3, 77)]) 2048 0xda (fl 4 1 2 0 0) ∧
    Alone (inGroup matrixGroup [(1, 3), (2, 4096), (3, 77)]) 2048 0xdb (fl 0 1 2 3 0) ∧
    nfind (inGroup matrixGroup [(1, 5)]).groups (2048 / 2048) = some matrixGroup ∧ matrixGroup.queue = [] ∧
    (∀ p ∈ matrixGroup.passes, p.done ≠ none) ∧ ((T (inGroup matrixGroup [(1, 5)])).x 1).toNat / 256 = 0 ∧
    nfind (inGroup matrixGroup [(1, 257)]).groups (2048 / 2048) = some matrixGroup ∧
    ((T (inGroup matrixGroup [(1, 257)])).x 1).toNat = 1 + 256 * 1 ∧ (∀ (i : ℕ), 1 ≤ i → i < 1 + 1 → nfind matrixGroup.accs i = none) ∧
    1 ≤ (freeOf (heldAccs (inGroup matrixGroup [(1, 257)]) matrixGroup.cluster) 32).length ∧
    (∀ (i : ℕ), 1 ≤ i → i < 1 + 1 → nfind matrixGroup.pslots i ≠ none) ∧ 16 ≤ ((T (inGroup matrixGroup [(1, 257)])).x 1).toNat ∧
    nfind matrixGroup.recs (((T (inGroup matrixGroup [(1, 257)])).x 1).toNat % 16) ≠ none ∧
    nfind (inGroup matrixGroup [(1, 515)]).groups (2048 / 2048) = some matrixGroup ∧
    ((T (inGroup matrixGroup [(1, 515)])).x 1).toNat = 3 + 256 * 2 ∧ (∀ (i : ℕ), 3 ≤ i → i < 3 + 2 → nfind matrixGroup.pslots i = none) ∧
    2 ≤ (freeOf (heldSlots (inGroup matrixGroup [(1, 515)]) matrixGroup.cluster) 128).length ∧
    nfind slotTaken.groups (2048 / 2048) = some matrixGroup ∧ ((T slotTaken).x 1).toNat = 2 + 256 * 126 ∧
    (∀ (i : ℕ), 2 ≤ i → i < 2 + 126 → nfind matrixGroup.pslots i = none) ∧ (freeOf (heldSlots slotTaken matrixGroup.cluster) 128).length < 126 ∧
    nfind accsTaken.groups (2048 / 2048) = some matrixGroup ∧ ((T accsTaken).x 1).toNat = 4 + 256 * 28 ∧
    (∀ (i : ℕ), 4 ≤ i → i < 4 + 28 → nfind matrixGroup.accs i = none) ∧ (freeOf (heldAccs accsTaken matrixGroup.cluster) 32).length < 28 ∧
    nfind (inGroup matrixGroup [(1, 3)]).groups (2048 / 2048) = some matrixGroup ∧ ((T (inGroup matrixGroup [(1, 3)])).x 1).toNat < 32 ∧
    nfind matrixGroup.accs (((T (inGroup matrixGroup [(1, 3)])).x 1).toNat) ≠ none ∧ nfind accShared.groups (2048 / 2048) = some matrixGroup ∧
    ((T accShared).x 1).toNat < 32 ∧ nfind matrixGroup.accs (((T accShared).x 1).toNat) = none ∧
    (sharedAcc accShared matrixGroup.launch matrixGroup.cluster ((T accShared).x 2)).isSome = true ∧
    nfind accsFull.groups (2048 / 2048) = some matrixGroup ∧ ((T accsFull).x 1).toNat < 32 ∧
    nfind matrixGroup.accs (((T accsFull).x 1).toNat) = none ∧ sharedAcc accsFull matrixGroup.launch matrixGroup.cluster ((T accsFull).x 2) = none ∧
    freeOf (heldAccs accsFull matrixGroup.cluster) 32 = [] ∧
    nfind (inGroup matrixGroup [(1, 1), (2, 196865)]).groups (2048 / 2048) = some matrixGroup ∧
    recOfWord ((T (inGroup matrixGroup [(1, 1), (2, 196865)])).d 2) = (aRec 1 3, false) ∧ recUnclaimed matrixGroup (aRec 1 3) = false ∧
    ((T (inGroup matrixGroup [(1, 1), (2, 196865)])).x 1).toNat < 16 ∧
    nfind matrixGroup.recs (((T (inGroup matrixGroup [(1, 1), (2, 196865)])).x 1).toNat) ≠ none ∧
    nfind (inGroup matrixGroup [(1, 5), (2, 196865)]).groups (2048 / 2048) = some matrixGroup ∧
    recOfWord ((T (inGroup matrixGroup [(1, 5), (2, 196865)])).d 2) = (aRec 1 3, false) ∧
    ((T (inGroup matrixGroup [(1, 5), (2, 196865)])).x 1).toNat < 16 ∧
    nfind matrixGroup.recs (((T (inGroup matrixGroup [(1, 5), (2, 196865)])).x 1).toNat) = none ∧
    nfind (inGroup matrixGroup [(1, 8)]).groups (2048 / 2048) = some matrixGroup ∧ nfind matrixGroup.accs 3 = some claim2 ∧ claim2.phys < 32 ∧
    (T (inGroup matrixGroup [(1, 8)])).x 1 = BitVec.ofNat 32 (2 ^ 3) ∧
    nfind (inGroup matrixGroup [(1, 3), (2, 4095), (3, 77)]).groups (2048 / 2048) = some matrixGroup ∧
    ((T (inGroup matrixGroup [(1, 3), (2, 4095), (3, 77)])).x 1).toNat = 3 ∧
    ((T (inGroup matrixGroup [(1, 3), (2, 4095), (3, 77)])).x 2).toNat = 4095 ∧
    nfind (inGroup matrixGroup [(1, 3), (2, 0), (3, 77)]).groups (2048 / 2048) = some matrixGroup ∧
    ((T (inGroup matrixGroup [(1, 3), (2, 0), (3, 77)])).x 1).toNat = 3 ∧ ((T (inGroup matrixGroup [(1, 3), (2, 0), (3, 77)])).x 2).toNat = 0 ∧
    nfind (inGroup matrixGroup [(1, 3), (2, 4096), (3, 77)]).groups (2048 / 2048) = some matrixGroup ∧
    ((T (inGroup matrixGroup [(1, 3), (2, 4096), (3, 77)])).x 1).toNat = 3 ∧
    4096 ≤ ((T (inGroup matrixGroup [(1, 3), (2, 4096), (3, 77)])).x 2).toNat :=
  by split_ands <;> decide +kernel

theorem witness_MatrixPasses :
    Alone (inGroup matrixGroup [(1, 0), (2, 1), (3, 3)]) 2048 0xd8 (fl 4 1 2 3 0) ∧
    Alone (inGroup matrixGroup [(1, 0), (2, 1), (3, 4)]) 2048 0xd8 (fl 4 1 2 3 0) ∧
    Alone (inGroup matrixGroup [(20, 0), (21, 1), (22, 65539)]) 2048 0xd9 (fl 4 0 20 0 0) ∧
    Alone (inGroup matrixGroup [(20, 0), (21, 1), (22, 65540)]) 2048 0xd9 (fl 4 0 20 0 0) ∧
    Alone (inGroup afterPass [(1, 1)]) 2048 0xdd (fl 4 1 0 0 0) ∧ Alone (inGroup afterPass [(1, 1)]) 2048 0xde (fl 0 1 0 0 0) ∧
    Alone (inGroup afterPass [(1, 1)]) 2048 0xdf (fl 0 0 0 3 0) ∧
    (∀ op ∈ [0xd8, 0xd9], Alone (inGroup matrixGroup [(20, 0), (21, 1), (22, 66563), (23, 64)]) 2048 op (fl 4 36 20 0 0)) ∧
    (∀ op ∈ [0xdd, 0xdc], Alone (linked 0) 2048 op (fl 1 8 0 0 1)) ∧ Alone (inGroup matrixGroup [(4, 2)]) 2048 0xd4 (fl 4 8 0 0 0) ∧
    Alone (inGroup matrixGroup [(4, 1)]) 2048 0xd4 (fl 4 8 0 0 0) ∧
    nfind (inGroup matrixGroup [(1, 0), (2, 1), (3, 3)]).groups (2048 / 2048) = some matrixGroup ∧ matrixGroup.queue = [] ∧
    (∀ p ∈ matrixGroup.passes, p.done ≠ none) ∧
    passFault (inGroup matrixGroup [(1, 0), (2, 1), (3, 3)]) matrixGroup
      { refA := ((T (inGroup matrixGroup [(1, 0), (2, 1), (3, 3)])).x 1).toNat, refB := ((T (inGroup matrixGroup [(1, 0), (2, 1), (3, 3)])).x 2).toNat, acc := ((T (inGroup matrixGroup [(1, 0), (2, 1), (3, 3)])).x 3).toNat }
      = none ∧
    nfind (inGroup matrixGroup [(1, 0), (2, 1), (3, 4)]).groups (2048 / 2048) = some matrixGroup ∧
    nfind (inGroup matrixGroup [(20, 0), (21, 1), (22, 65539)]).groups (2048 / 2048) = some matrixGroup ∧
    loopAccess (fl 4 0 20 0 0) 2048 (loopArgs (fl 4 0 20 0 0) 2048 (inGroup matrixGroup [(20, 0), (21, 1), (22, 65539)])) (inGroup matrixGroup [(20,
      0), (21, 1), (22, 65539)]) = none ∧
    passFault (inGroup matrixGroup [(20, 0), (21, 1), (22, 65539)]) matrixGroup (loopArgs (fl 4 0 20 0 0) 2048 (inGroup matrixGroup [(20, 0), (21,
      1), (22, 65539)])) = none ∧
    nfind (inGroup matrixGroup [(20, 0), (21, 1), (22, 65540)]).groups (2048 / 2048) = some matrixGroup ∧
    loopAccess (fl 4 0 20 0 0) 2048 (loopArgs (fl 4 0 20 0 0) 2048 (inGroup matrixGroup [(20, 0), (21, 1), (22, 65540)])) (inGroup matrixGroup [(20,
      0), (21, 1), (22, 65540)]) = none ∧
    (passFault (inGroup matrixGroup [(20, 0), (21, 1), (22, 65540)]) matrixGroup (loopArgs (fl 4 0 20 0 0) 2048 (inGroup matrixGroup [(20, 0), (21,
      1), (22, 65540)]))).isSome = true ∧
    nfind (inGroup afterPass [(1, 1)]).groups (2048 / 2048) = some afterPass ∧ afterPass.queue = [] ∧ (∀ p ∈ afterPass.passes, p.done ≠ none) ∧
    (inGroup afterPass [(1, 1)]).det 2048 = false ∧ (knownPass afterPass ((T (inGroup afterPass [(1, 1)])).x 1)).isSome = true ∧
    nfind (inGroup matrixGroup [(20, 0), (21, 1), (22, 66563), (23, 64)]).groups (2048 / 2048) = some matrixGroup ∧
    (loopAccess (fl 4 36 20 0 0) 2048 (loopArgs (fl 4 36 20 0 0) 2048 (inGroup matrixGroup [(20, 0), (21, 1), (22, 66563), (23, 64)])) (inGroup
      matrixGroup [(20, 0), (21, 1), (22, 66563), (23, 64)])).isSome = true ∧
    nfind (linked 0).groups (2048 / 2048) = some afterPass ∧ (linked 0).det 2048 = false ∧
    accessFault (linked 0) 2048 ((T (linked 0)).cap 32) permST (adr (linked 0)) 16 16 [1] = none ∧
    (∀ (p : Pass), knownPass afterPass ((T (linked 0)).x 1) = some p → p.done ≠ none) ∧
    barPast (barGen (linked 0) (2 ^ 52 + afterPass.cluster * 2 ^ 22 + (((T (linked 0)).cap 32).cursor + ((T (linked 0)).x 0).toNat) % 2 ^ 52 % 2 ^
      22)) ((T (linked 0)).x 1) = false :=
  by split_ands <;> decide +kernel

theorem witness_EngineCourse :
    (candidates (inGroup matrixGroup []) 0 = [] ∨ (inGroup matrixGroup []).now < ((inGroup matrixGroup []).cluster 0).engine) ∧
    candidates (passing (aPass 1)) 0 = [(1, aPass 1, 0)] ∧ ((passing (aPass 1)).cluster 0).engine ≤ (passing (aPass 1)).now ∧
    nfind (passing (aPass 1)).groups 1 = some groupOf1 ∧ groupOf1.cluster = 0 ∧ passOf (passing (aPass 1)) 1 (aPass 1).pid = some (aPass 1) ∧
    nfind (passing (stepped 10)).groups 1 = some groupStep10 ∧ groupStep10.queue = [EngOp.pass 1] ∧ groupStep10.passes = [stepped 10] ∧
    (stepped 10).pid = 1 ∧ (stepped 10).done = none ∧ nfind groupStep10.accs (stepped 10).acc = some claim2 ∧ claim2.phys < 32 ∧
    (∀ x ∈ (stepped 10).due, (passing (stepped 10)).now < x) ∧ (stepped 10).ended = false ∧ (stepped 9).due = [9] ∧ 9 ≤ (passing (stepped 9)).now ∧
    (stepped 9).zero = false ∧ nfind groupStep9.recs (stepped 9).refA.rcd = some (aRec 0 3) ∧
    nfind groupStep9.recs (stepped 9).refB.rcd = some (aRec 1 3) ∧ (aRec 0 3).fmt = 3 ∧ (aRec 1 3).fmt = 3 ∧ (aRec 0 3).sc = false ∧
    (aRec 1 3).sc = false ∧ stepSlots groupStep9 (stepped 9) (stepped 9).applied = ([0], [1]) ∧ nfind groupStep9.pslots 0 = some 5 ∧
    nfind groupStep9.pslots 1 = some 6 ∧ poisonedAt (passing (stepped 9)) (pantryKey groupStep9.cluster 5 0) 8192 = false ∧
    poisonedAt (passing (stepped 9)) (pantryKey groupStep9.cluster 6 0) 8192 = false ∧ endedPass.ended = true ∧ endedPass.arrivals = [] ∧
    endedPass.threads = [2048] ∧ (nfind (passing endedPass).threads 2048).isSome = true ∧
    nfind (loadingIn Tests.slotWaits).xfers 5 = some Tests.slotWaits ∧ Tests.slotWaits.group = 1 ∧
    nfind (loadingIn Tests.slotWaits).groups 1 = some groupLoads ∧ Tests.slotWaits.started = false ∧
    nfind (loadingIn bookWaits).xfers 5 = some bookWaits ∧ bookWaits.group = 1 ∧ nfind (loadingIn bookWaits).groups 1 = some groupLoads ∧
    bookWaits.booked = false ∧ bookWaits.kind = XferKind.book 2 ∧
    (∀ kind ∈ [XferKind.book 2, XferKind.slotIn 1, XferKind.stream 1 0], nfind (pieceOut (loadingIn (aLoadIn kind 2))).xfers 5 = some (aLoadIn kind 2) ∧
      (aLoadIn kind 2).kind = kind ∧ piecesDone (pieceOut (loadingIn (aLoadIn kind 2))) 5 = false ∧ (aLoadIn kind 2).started = true ∧
      (aLoadIn kind 2).booked = true ∧ piecesDone (loadingIn (aLoadIn kind 2)) 5 = true ∧ nfind (loadingIn (aLoadIn kind 2)).xfers 5 = some (aLoadIn kind 2) ∧
      nfind (loadingIn (aLoadIn kind 2)).groups 1 = some groupLoads ∧ (aLoadIn kind 2).stop = none ∧
      ∀ y ∈ (aLoadIn kind 2).gotAll, y.absent = false ∧ y.poisoned = false ∧ y.data.length = 16) ∧
    groupLoads.queue = [EngOp.xfer 5] ∧ (∀ p ∈ groupLoads.passes, p.done ≠ none) ∧
    nfind groupLoads.recs 2 = some (aRec 0 4) ∧ nfind groupLoads.pslots 1 = some 6 ∧
    slotRead.started = true ∧ slotRead.kind = XferKind.slotOut 1 ∧ slotRead.units ≤ slotRead.next ∧ xferDone (loadingIn slotRead) slotRead = true ∧
    slotRead.rets = [6] ∧ ((nfind (loadingIn slotRead).rets 6).map fun v => (v.discard, v.n, v.dst, v.th)) = some (false, 1, 20, 2048) ∧
    (nfind (loadingIn slotRead).threads 2048).isSome = true ∧ slotRead.stop = none ∧ slotRead.cut = [] ∧
    (∀ j < slotRead.units, slotRead.moved.contains j = true) ∧
    passOf (streaming (aLoadIn (.stream 1 0) 2)) 1 1 = some (aPass 1) ∧ piecesDone (streaming (aLoadIn (.stream 1 0) 2)) 5 = true ∧
    nfind (streaming (aLoadIn (.stream 1 0) 2)).xfers 5 = some (aLoadIn (.stream 1 0) 2) :=
  by split_ands <;> decide +kernel

theorem witness_WorkQueries :
    (∀ op ∈ [0xe3, 0xe4, 0xe6, 0xe7, 0xe8, 0xe9, 0xec, 0xee, 0xef], Alone S 2048 op (pick 227)) ∧
    (∀ op ∈ [0xe5, 0xed], Alone S 2048 op (pick 229)) ∧ (∀ op ∈ [0xe7, 0xe9], Alone S 2048 op (fl 4 0 0 0 1)) ∧
    (∀ op ∈ [0xe7, 0xe9], Alone S 2048 op (fl 4 0 0 0 2)) ∧ Alone S 2048 0xe7 (fl 4 0 0 0 3) ∧ Alone S 2048 0xe8 (fl 4 3 0 0 0) ∧
    Alone S 2048 0xea (pick 234) ∧ Alone Sauto 2048 0xe3 (pick 227) ∧ (∀ op ∈ [0xe4, 0xe7, 0xe8, 0xe9, 0xef], Alone (det S) 2048 op (pick 228)) ∧
    Alone (det S) 2048 0xe9 (fl 4 0 0 0 1) ∧ Alone (det S) 2048 0xe9 (fl 4 0 0 0 2) ∧ Alone parkedPair 2049 0xed (fl 0 1 0 0 0) ∧
    ((S.lchOf 2048).kernel.splits.getD ((pick 227).imm18.toNat % 8) 1 ≠ 0 ∨ S.det 2048 = true) ∧ S.det 2048 = false ∧
    (0 = if S.det 2048 = true then 0 else (S.cluster (S.grpOf 2048).cluster).throttled.toNat + (S.grpOf 2048).firedStart.toNat * 2 + (S.grpOf
      2048).firedEnd.toNat * 4 + min (S.grpOf 2048).edges 255 * 256) ∧
    (pick 227).m = 0 ∧ (0 = if (T S).x (pick 227).a.toNat = 4294967295 then S.coreOf 2048 else BitVec.toNat ((T S).x (pick 227).a.toNat)) ∧
    (S.grpOf 2048).prio < 4 ∧ (S.lchOf 2048).prio < 4 ∧ (S.tenant (S.lchOf 2048).tenant).pcap < 4 ∧ (S.grpOf 2048).mprio < 4 ∧
    (Sauto.lchOf 2048).kernel.splits.getD ((pick 227).imm18.toNat % 8) 1 = 0 ∧ Sauto.det 2048 = false ∧ (det S).det 2048 = true ∧
    (0 = if (T (det S)).x (pick 228).a.toNat = 4294967295 then (det S).coreOf 2048 else BitVec.toNat ((T (det S)).x (pick 228).a.toNat)) ∧
    (pick 228).m = 0 ∧ (262144 = if (T S).x 3 = 4294967295 then S.coreOf 2048 else ((T S).x 3).toNat) ∧
    threadsOf parkedPair (2049 / 2048) = [2048, 2049] ∧ (T parkedPair).wait = Wait.tick 60 ∧ (parkedPair.thr 2049).wait = Wait.none ∧
    ((parkedPair.thr 2049).x 1 = 4294967295 ∨ 2048 % 2048 / 32 = ((parkedPair.thr 2049).x 1).toNat) :=
  by split_ands <;> decide +kernel

theorem witness_WorkWords :
    Alone (recorded [65538, 1]) 2048 0xe0 (fl 4 8 0 0 0) ∧ Alone (recorded [65538, 1]) 2048 0xe0 (fl 4 8 1 0 0) ∧
    Alone recordPending 2048 0xe0 (fl 4 8 0 0 0) ∧ Alone recordPoisoned 2048 0xe0 (fl 4 8 0 0 0) ∧ Alone (launched false) 2048 0xe2 (fl 4 1 0 0 0) ∧
    Alone (naming true) 2048 0xe2 (fl 4 1 0 0 0) ∧ Alone (naming false) 2048 0xe2 (fl 4 1 0 0 0) ∧ Alone (Sm 0) 2048 0xeb (fl 4 8 0 0 0) ∧
    Alone (Sm 0) 2048 0xeb (fl 1 8 0 0 0) ∧
    accessFault (recorded [65538, 1]) 2048 ((T (recorded [65538, 1])).cap 32) (permLD ||| permCL) (adr (recorded [65538, 1])) 128 16 [1] = none ∧
    2 ^ 52 + 4160 = 2 ^ 52 + ((recorded [65538, 1]).grpOf 2048).cluster * 2 ^ 22 + (((T (recorded [65538, 1])).cap 32).cursor + ((T (recorded
      [65538, 1])).x 0).toNat) % 2 ^ 52 % 2 ^ 22 ∧
    recordHeld (recorded [65538, 1]) 2048 (2 ^ 52 + 4160) = false ∧ poisonedAt (recorded [65538, 1]) (2 ^ 52 + 4160) 128 = false ∧
    checkRecord (recorded [65538, 1]) ((recorded [65538, 1]).lchOf 2048).tenant false (readRecord (recorded [65538, 1]) (2 ^ 52 + 4160)) = (0, 0) ∧
    recordFull (recorded [65538, 1]) false (readRecord (recorded [65538, 1]) (2 ^ 52 + 4160)).gmode = (0, 0) ∧
    freeSlot (recorded [65538, 1]) = some 1 ∧
    (accessFault (recorded [65538, 1]) 2048 ((T (recorded [65538, 1])).cap 32) (permLD ||| permCL) ((((T (recorded [65538, 1])).cap 32).cursor + ((T
      (recorded [65538, 1])).x 1).toNat) % 2 ^ 52) 128 16 [1]).isSome = true ∧
    accessFault recordPending 2048 ((T recordPending).cap 32) (permLD ||| permCL) (adr recordPending) 128 16 [1] = none ∧
    2 ^ 52 + 4160 = 2 ^ 52 + (recordPending.grpOf 2048).cluster * 2 ^ 22 + (((T recordPending).cap 32).cursor + ((T recordPending).x 0).toNat) % 2 ^
      52 % 2 ^ 22 ∧
    recordHeld recordPending 2048 (2 ^ 52 + 4160) = true ∧
    accessFault recordPoisoned 2048 ((T recordPoisoned).cap 32) (permLD ||| permCL) (adr recordPoisoned) 128 16 [1] = none ∧
    2 ^ 52 + 4160 = 2 ^ 52 + (recordPoisoned.grpOf 2048).cluster * 2 ^ 22 + (((T recordPoisoned).cap 32).cursor + ((T recordPoisoned).x 0).toNat) %
      2 ^ 52 % 2 ^ 22 ∧
    recordHeld recordPoisoned 2048 (2 ^ 52 + 4160) = false ∧ poisonedAt recordPoisoned (2 ^ 52 + 4160) 128 = true ∧
    checkRecord (recorded [2, 1]) ((recorded [2, 1]).lchOf 2048).tenant false (readRecord (recorded [2, 1]) (2 ^ 52 + 4160)) = (3, 16) ∧
    handleSlot (launched false) 2048 ((T (launched false)).x 1) = none ∧ handleSlot (naming true) 2048 ((T (naming true)).x 1) = some 3 ∧
    (∀ i ∈ levelLaunches (naming true) 3 0, ((naming true).lch i).complete = true) ∧
    handleSlot (naming false) 2048 ((T (naming false)).x 1) = some 3 ∧ (∃ x, nfind (naming false).launches 3 = some x ∧ x.complete = false) ∧
    accessFault (Sm 0) 2048 ((T (Sm 0)).cap 32) permLD (adr (Sm 0)) (max (((T (Sm 0)).x 4).toNat) 1) 1 = none ∧
    (((T (Sm 0)).x 4).toNat = 0 ∨ 2 ^ 31 < ((T (Sm 0)).x 4).toNat) ∧
    accessFault (Sm 0) 2048 ((T (Sm 0)).cap 32) permLD (adr (Sm 0)) (max (((T (Sm 0)).x 1).toNat) 1) 1 = none ∧ 0 < ((T (Sm 0)).x 1).toNat ∧
    ((T (Sm 0)).x 1).toNat ≤ 2 ^ 31 ∧ (((T (Sm 0)).cap 32).space = 0 ∨ ((T (Sm 0)).cap 32).space = 3) ∧ alive (windowed [65538, 1] 0) = true ∧
    (nget (windowed [65538, 1] 0).windows 0 { }).root = 0 ∧ alive (windowed [2, 1] 1048576) = true ∧
    (nget (windowed [2, 1] 1048576).windows 0 { }).root ≠ 0 ∧
    checkRecord (windowed [2, 1] 1048576) 0 true (windowRecord (nget (windowed [2, 1] 1048576).windows 0 { })) = (3, 16) ∧
    alive (windowed [65538, 1] 1048576) = true ∧ (nget (windowed [65538, 1] 1048576).windows 0 { }).root ≠ 0 ∧
    checkRecord (windowed [65538, 1] 1048576) 0 true (windowRecord (nget (windowed [65538, 1] 1048576).windows 0 { })) = (0, 0) ∧
    recordFull (windowed [65538, 1] 1048576) true (windowRecord (nget (windowed [65538, 1] 1048576).windows 0 { })).gmode = (0, 0) ∧
    freeSlot (windowed [65538, 1] 1048576) = some 1 :=
  by split_ands <;> decide +kernel

theorem witness_LaunchCourse :
    startDue (toDispatch none 9 0) 0 = true ∧ nextPlace (toDispatch none 9 0) = none ∧ nextRatio (toDispatch none 9 0) = none ∧ nextRatio (toDispatch (some 5) 9 0) = none ∧ nextRatio toSpill = none ∧
    endDue (toDispatch none 9 0) 1 = false ∧ completeDue (toDispatch none 9 0) 0 = false ∧ startDue (toDispatch (some 5) 9 0) 0 = false ∧
    (nfind (toDispatch (some 5) 9 0).launches 0).isSome = true ∧
    nextPlace (toDispatch (some 5) 9 0) = some (Waiting.new 0 0, spotOf (toDispatch (some 5) 9 0)) ∧
    dieOfCluster (spotOf (toDispatch (some 5) 9 0)).cluster = dieFor (toDispatch (some 5) 9 0) 0 0 ∧ (nfind toSpill.launches 0).isSome = true ∧
    nextPlace toSpill = some (Waiting.new 0 0, spotOf toSpill) ∧ dieOfCluster (spotOf toSpill).cluster ≠ dieFor toSpill 0 0 ∧
    endDue endedGroup 1 = true ∧ (nfind endedGroup.groups 1).isSome = true ∧ completeDue (endedLaunch true) 0 = true ∧
    (nfind (endedLaunch true).launches 0).isSome = true :=
  by split_ands <;> decide +kernel

theorem witness_GroupCourse :
    ((killed.grp 1).residency ≠ Residency.resident ∨ (killed.grp 1).cancelled = true) ∧ (S.grp 1).residency = Residency.resident ∧
    (S.grp 1).cancelled = false ∧
    (∀ k ∈ threadsOf S 1, (S.thr k).wait = Wait.none ∨ (S.thr k).life ≠ Life.live ∨ hdrIdem (S.thr k).hdrWord = false) ∧
    ((parkedAt idemHeader false 0).grp 1).residency = Residency.resident ∧ ((parkedAt idemHeader false 0).grp 1).cancelled = false ∧
    (parkedAt idemHeader false 0).threads = [(2048, (parkedAt idemHeader false 0).thr 2048)] ∧ (T (parkedAt idemHeader false 0)).life = Life.live ∧
    (T (parkedAt idemHeader false 0)).wait = Wait.tick 70 ∧ hdrIdem (T (parkedAt idemHeader false 0)).hdrWord = true ∧
    liftDue (parkedAt fetchHeader true 0) 1 = true ∧
    ((parkedAt fetchHeader true 0).grp 1).retries < BitVec.toNat (parkedAt fetchHeader true 0).csrs.precap % 256 ∧
    liftDue (parkedAt fetchHeader true 8) 1 = true ∧
    BitVec.toNat (parkedAt fetchHeader true 8).csrs.precap % 256 ≤ ((parkedAt fetchHeader true 8).grp 1).retries ∧ liftDue S 1 = false ∧
    (∀ (x : ℕ), (S.grp 1).retryAt = some x → S.now < x) ∧ saveDue S 1 = false ∧ saveDue pausing 1 = true ∧
    nextRatio savedGroup = none ∧ nextRatio toResume = none ∧ nextPlace savedGroup = some (Waiting.saved 1, spotOf savedGroup) ∧ nextPlace toResume = some (Waiting.new 0 0, spotOf toResume) ∧
    (killed.grp 1).residency = Residency.killed 16 3 ∧ killDone killed 1 = true ∧ (killedBusy.grp 1).residency = Residency.killed 16 3 ∧
    killDone killedBusy 1 = false :=
  by split_ands <;> decide +kernel

theorem witness_TrapReturn :
    Alone Sy 2048 0xf0 (fl 0 0 0 0 0) ∧ (keyNow Sy (Sy.lchOf 2048).tenant (trapSlot Sy (T Sy))).isSome = true ∧ Sy.upds = [] ∧
    keyNow unmappedTrap (unmappedTrap.lchOf 2048).tenant (trapSlot unmappedTrap (T unmappedTrap)) = none ∧
    keyNow (inTrap 0) ((inTrap 0).lchOf 2048).tenant (trapSlot (inTrap 0) (T (inTrap 0))) = some 1074790400 ∧ (inTrap 0).upds = [] ∧
    imageValid (T (inTrap 0)) ((inTrap 0).kernOf 2048).regs (rdBytes (inTrap 0) 1074790400 2320) = true ∧
    BitVec.toNat (imgWord (rdBytes (inTrap 0) 1074790400 2320) 0) < ((inTrap 0).kernOf 2048).extent ∧
    poisonedAt (inTrap 0) 1074790400 2320 = false ∧
    keyNow (inTrap 1) ((inTrap 1).lchOf 2048).tenant (trapSlot (inTrap 1) (T (inTrap 1))) = some 1074790400 ∧ (inTrap 1).upds = [] ∧
    imageValid (T (inTrap 1)) ((inTrap 1).kernOf 2048).regs (rdBytes (inTrap 1) 1074790400 2320) = false ∧ nfind St.threads 2048 = some (T St) ∧
    (T St).sys = false ∧ St.csrs.sextn ≠ 0 ∧ keyNow St (St.lchOf 2048).tenant (trapSlot St (T St)) = some 1074790400 ∧ St.upds = [] ∧
    1 < (St.kernOf 2048).extent ∧ 0 < (St.kernOf 2048).regs ∧ (St.kernOf 2048).regs ≤ 512 ∧ (T St).owner < 2 ^ 32 ∧ (T St).refusal = none ∧
    (T St).late < 2 ^ 16 ∧ (T St).status &&& ~~~7 = 0 ∧ (T St).mode &&& ~~~271 = 0 :=
  by split_ands <;> decide +kernel

theorem witness_ControlRegisters :
    Alone (inTrap 0) 2048 0xf1 (csrFields 4 0 0) ∧ Alone (inTrap 0) 2048 0xf1 (csrFields 4 0 1) ∧ Alone (inTrap 0) 2048 0xf1 (csrFields 4 0 2) ∧
    Alone (inTrap 0) 2048 0xf1 (csrFields 4 0 16) ∧ Alone (inTrap 0) 2048 0xf1 (csrFields 4 0 17) ∧ Alone (inTrap 0) 2048 0xf1 (csrFields 4 0 18) ∧
    Alone (inTrap 0) 2048 0xf1 (csrFields 4 0 19) ∧ Alone (inTrap 0) 2048 0xf1 (csrFields 4 0 20) ∧ Alone (inTrap 0) 2048 0xf1 (csrFields 4 0 21) ∧
    Alone (inTrap 0) 2048 0xf1 (csrFields 4 0 32) ∧ Alone (inTrap 0) 2048 0xf1 (csrFields 4 0 33) ∧ Alone (inTrap 0) 2048 0xf1 (csrFields 4 0 34) ∧
    Alone (inTrap 0) 2048 0xf1 (csrFields 4 0 48) ∧ Alone (inTrap 0) 2048 0xf1 (csrFields 4 0 49) ∧ Alone (inTrap 0) 2048 0xf1 (csrFields 4 0 64) ∧
    Alone (inTrap 0) 2048 0xf1 (csrFields 4 0 80) ∧ Alone (inTrap 0) 2048 0xf1 (csrFields 4 0 81) ∧ Alone (inTrap 0) 2048 0xf1 (csrFields 4 0 86) ∧
    Alone (inTrap 0) 2048 0xf1 (csrFields 4 0 87) ∧ Alone (inTrap 0) 2048 0xf1 (csrFields 4 0 88) ∧ Alone (inTrap 0) 2048 0xf1 (csrFields 4 0 89) ∧
    Alone (inTrap 0) 2048 0xf1 (csrFields 4 0 90) ∧ Alone (inTrap 0) 2048 0xf1 (csrFields 4 0 96) ∧ Alone (inTrap 0) 2048 0xf1 (csrFields 4 0 112) ∧
    Alone (sysWith 4294967295) 2048 0xf2 (csrFields 0 1 16) ∧ Alone (sysWith 4294967295) 2048 0xf2 (csrFields 0 1 17) ∧
    Alone (sysWith 4294967295) 2048 0xf2 (csrFields 0 1 18) ∧ Alone (sysWith 4294967295) 2048 0xf2 (csrFields 0 1 19) ∧
    Alone (sysWith 4294967295) 2048 0xf2 (csrFields 0 1 20) ∧ Alone (sysWith 4294967295) 2048 0xf2 (csrFields 0 1 21) ∧
    Alone (sysWith 4294967295) 2048 0xf2 (csrFields 0 1 48) ∧ Alone (sysWith 4294967295) 2048 0xf2 (csrFields 0 1 80) ∧
    Alone (sysWith 4294967295) 2048 0xf2 (csrFields 0 1 96) ∧ Alone (sysWith 1) 2048 0xf2 (csrFields 0 1 32) ∧
    Alone (unfeatured 259) 2048 0xf2 (csrFields 0 1 33) ∧ Alone (sysWith 63) 2048 0xf2 (csrFields 0 1 64) ∧
    Alone (sysWith 3) 2048 0xf2 (csrFields 0 1 49) ∧ Alone (sysWith 3) 2048 0xf3 (fl 0 4 0 0 1) ∧ Alone (sysWith 3) 2048 0xf3 (fl 0 2 0 0 1) ∧
    Alone (sysWith 102915) 2048 0xf2 (csrFields 0 1 112) ∧ (∀ g ∈ (unfeatured 259).groups, ((unfeatured 259).lch g.2.launch).kernel.feat = 0) ∧
    (((unfeatured 259).core ((unfeatured 259).coreOf 2048)).fmask.getLsbD 8 = false ∨ BitVec.getLsbD ((T (unfeatured 259)).x 1) 8 = true) ∧
    (BitVec.getLsbD ((T (sysWith 63)).x 1) 6 = false ∨ BitVec.getLsbD (sysWith 63).csrs.audctl 6 = true) ∧
    ((T (sysWith 102915)).x 1).toNat % 256 < 192 ∧ ((T (sysWith 102915)).x 1).toNat / 1024 % 2 = 0 ∧
    ((T (sysWith 102915)).x 1).toNat / 256 % 4 ≠ 3 ∧ 25 ≤ ((T (sysWith 102915)).x 1).toNat / 4096 % 64 ∧
    ((T (sysWith 102915)).x 1).toNat / 4096 % 64 ≤ 50 ∧ 0 = (fl 0 4 0 0 1).imm18.toNat ∧ ((T (sysWith 3)).d 4).toNat < 2 ^ 52 ∧
    0 = (fl 0 2 0 0 1).imm18.toNat ∧ 2 ^ 52 ≤ ((T (sysWith 3)).d 2).toNat :=
  by split_ands <;> decide +kernel

theorem witness_ContextImages :
    (∀ op ∈ [0xf4, 0xfc, 0xf5], Alone (imaged 0) 2048 op (fl 0 8 0 0 0)) ∧ (∀ op ∈ [0xf4, 0xf5], Alone (imaged 0) 2048 op (fl 0 9 0 0 0)) ∧
    Alone sysMapped 2048 0xfc (fl 4 8 0 0 0) ∧ Alone (imaged 1) 2048 0xf5 (fl 0 8 0 0 0) ∧
    accessFault (imaged 0) 2048 ((T (imaged 0)).cap 32) permST (adr (imaged 0)) 2320 64 = none ∧ ((T (imaged 0)).cap 32).space = 1 ∧
    2 ^ 52 + 4160 = 2 ^ 52 + ((imaged 0).grpOf 2048).cluster * 2 ^ 22 + (((T (imaged 0)).cap 32).cursor + ((T (imaged 0)).x 0).toNat) % 2 ^ 52 % 2 ^
      22 ∧
    (imaged 0).upds = [] ∧ (accessFault (imaged 0) 2048 ((T (imaged 0)).cap 32) permST (adr (imaged 0)) 8 8 [0]).isSome = true ∧
    (accessFault (imaged 0) 2048 ((T (imaged 0)).cap 36) permST ((((T (imaged 0)).cap 36).cursor + ((T (imaged 0)).x 0).toNat) % 2 ^ 52) 2320
      64).isSome = true ∧
    (accessFault (imaged 0) 2048 ((T (imaged 0)).cap 36) permLD ((((T (imaged 0)).cap 36).cursor + ((T (imaged 0)).x 0).toNat) % 2 ^ 52) 2320
      64).isSome = true ∧
    accessFault sysMapped 2048 ((T sysMapped).cap 32) permST (adr sysMapped) 8 8 [0] = none ∧
    resolve sysMapped 2048 0 (adr sysMapped) = Resolved.key (checked sysMapped 4160) 1073745984 ∧ porchFull (checked sysMapped 4160) ((checked sysMapped 4160).dieOf 2048) 1073745984 = false ∧
    accessFault (imaged 0) 2048 ((T (imaged 0)).cap 32) permLD (adr (imaged 0)) 2320 64 = none ∧
    readUnit (imaged 0) (2048 / 2048) ((imaged 0).dieOf 2048) 1 (adr (imaged 0)) 2320 { k := 2048, before := (imaged 0).ids, own := true } = Got.bytes (rdBytes (imaged 0)
      (2 ^ 52 + 4160) 2320) ∧
    imageValid (T (imaged 0)) ((imaged 0).kernOf 2048).regs (rdBytes (imaged 0) (2 ^ 52 + 4160) 2320) = true ∧
    accessFault (imaged 1) 2048 ((T (imaged 1)).cap 32) permLD (adr (imaged 1)) 2320 64 = none ∧ ((T (imaged 1)).cap 32).space = 1 ∧
    readUnit (imaged 1) (2048 / 2048) ((imaged 1).dieOf 2048) 1 (adr (imaged 1)) 2320 { k := 2048, before := (imaged 1).ids, own := true } = Got.bytes (rdBytes (imaged 1)
      (2 ^ 52 + 4160) 2320) ∧
    imageValid (T (imaged 1)) ((imaged 1).kernOf 2048).regs (rdBytes (imaged 1) (2 ^ 52 + 4160) 2320) = false ∧
    resolve sysUnwalked 2048 0 (adr sysUnwalked) = Resolved.hold (heldOf (resolve sysUnwalked 2048 0 4160)) ∧
    resolve sysUnmapped 2048 0 (adr sysUnmapped) = Resolved.fault (faultOf (resolve sysUnmapped 2048 0 2147487808)) :=
  by split_ands <;> decide +kernel

theorem witness_Management :
    (∀ op ∈ [0xf6, 0xf7, 0xfa, 0xfb], Alone (managed 768 false) 2048 op (fl 4 1 0 0 0)) ∧
    (∀ op ∈ [0xf6, 0xfa], Alone (managed 9 false) 2048 op (fl 4 1 0 0 0)) ∧ (∀ op ∈ [0xf9, 0xf8], Alone (managed 9 false) 2048 op (fl 0 1 0 0 0)) ∧
    (∀ op ∈ [0xf8, 0xf9], Alone (managed 800 false) 2048 op (fl 0 1 0 0 0)) ∧ Alone (powered 0 false) 2048 0xfa (fl 4 1 0 0 0) ∧
    Alone (powered 5 true) 2048 0xfa (fl 4 1 0 0 0) ∧ Alone (withRecords 3) 2048 0xfb (fl 4 1 0 0 1) ∧ 768 ≤ ((T (managed 768 false)).x 1).toNat ∧
    (BitVec.getLsbD ((T (managed 768 false)).x 1) 6 = false ∨ BitVec.getLsbD (managed 768 false).csrs.audctl 6 = true) ∧
    liveCluster (managed 768 false) (((T (managed 768 false)).x 1).toNat) = false ∧ 16 ≤ ((T (managed 768 false)).x 1).toNat ∧
    ((T (managed 9 false)).x 1).toNat < 768 ∧ groupsOn (managed 9 false) (((T (managed 9 false)).x 1).toNat) = [] ∧
    liveCluster (managed 9 false) (((T (managed 9 false)).x 1).toNat) = true ∧
    ((managed 9 false).cluster (((T (managed 9 false)).x 1).toNat)).gated = false ∧
    allParked (managed 9 false) (((T (managed 9 false)).x 1).toNat) = true ∧
    (9 = if (T (managed 9 false)).x 1 = 4294967295 then (managed 9 false).coreOf 2048 else ((T (managed 9 false)).x 1).toNat) ∧
    (managed 9 false).liveCore 9 = true ∧ groupsOn (managed 9 false) 9 = [] ∧
    (800 = if (T (managed 800 false)).x 1 = 4294967295 then (managed 800 false).coreOf 2048 else ((T (managed 800 false)).x 1).toNat) ∧
    (managed 800 false).liveCore 800 = false ∧ liveCluster (powered 0 false) (((T (powered 0 false)).x 1).toNat) = true ∧
    ((powered 0 false).cluster (((T (powered 0 false)).x 1).toNat)).gated = false ∧
    allParked (powered 0 false) (((T (powered 0 false)).x 1).toNat) = false ∧
    liveCluster (powered 5 true) (((T (powered 5 true)).x 1).toNat) = true ∧
    ((powered 5 true).cluster (((T (powered 5 true)).x 1).toNat)).gated = true ∧
    ((powered 5 true).cluster (((T (powered 5 true)).x 1).toNat)).wakeReq = none ∧ ((T (withRecords 3)).x 1).toNat < 16 ∧
    ((withRecords 3).die (((T (withRecords 3)).x 1).toNat)).mcq = [{ addr := 5, tick := 77, cause := 1 }, { cause := 2 }] :=
  by split_ands <;> decide +kernel

theorem witness_PowerCourse :
    damperDue (clusterAt 5 { }) = false ∧
    (((clusterAt 5 { }).cluster 5).gated = false ∨ ((clusterAt 5 { }).cluster 5).wakeReq = none ∧ wakeNeeded (clusterAt 5 { }) 5 = false) ∧
    liveCluster (clusterAt 5 { }) 5 = true ∧ ((clusterAt 5 { }).cluster 5).gated = false ∧ allParked (clusterAt 5 { }) 5 = true ∧
    wakeNeeded (clusterAt 5 { }) 5 = false ∧ (((clusterAt 5 { }).cluster 5).ratioReq = none ∨ emptyCluster (clusterAt 5 { }) 5 = false) ∧
    (((clusterAt 5 { }).cluster 5).mhzReq = none ∨ emptyCluster (clusterAt 5 { }) 5 = false) ∧ damperDue (clusterAt 2048 newGrant) = true ∧
    ((gatedAt 5 isGated []).cluster 0).gated = true ∧ ((gatedAt 5 isGated []).cluster 0).wakeReq = none ∧
    wakeNeeded (gatedAt 5 isGated []) 0 = true ∧ (((gatedAt 5 isGated []).cluster 0).gated = true ∨ allParked (gatedAt 5 isGated []) 0 = false) ∧
    ((gatedAt 5 wakes [3, 2]).cluster 0).gated = true ∧ (((gatedAt 5 wakes [3, 2]).cluster 0).wakeReq).isSome = true ∧
    (slewQueue (gatedAt 5 wakes [3, 2])).head? = some 0 ∧
    (List.filter (fun a => decide ((gatedAt 5 wakes [3, 2]).now < a + 64)) (gatedAt 5 wakes [3, 2]).admissions).length < 8 ∧
    ((gatedAt 5 wakes [4, 4, 3, 3, 3, 2, 2, 2]).cluster 0).gated = true ∧
    (((gatedAt 5 wakes [4, 4, 3, 3, 3, 2, 2, 2]).cluster 0).wakeReq).isSome = true ∧
    8 ≤ (List.filter (fun a => decide ((gatedAt 5 wakes [4, 4, 3, 3, 3, 2, 2, 2]).now < a + 64)) (gatedAt 5 wakes [4, 4, 3, 3, 3, 2, 2,
      2]).admissions).length ∧
    (((clusterAt 9 asks).cluster 5).ratioReq).isSome = true ∧ emptyCluster (clusterAt 9 asks) 5 = true ∧
    (((clusterAt 9 asks).cluster 5).mhzReq).isSome = true :=
  by split_ands <;> decide +kernel

theorem witness_ErrorsAndPower :
    compareDue (drifting 5 7) = false ∧ errSmall.corrected = true ∧ ((drifting 5 7).die (errSmall.die % 16)).mcq.length < 256 ∧
    channelLoads (drifting 5 7) (0 % 16) (0 % 64) = [] ∧ (drifting 5 7).service.powered = true ∧ compareDue (drifting 1024 7) = true ∧
    errHbm.corrected = false ∧ errHbm.unit = 1 ∧ errHbm.addr + 32 ≤ 2 ^ 40 ∧ errAcc.corrected = false ∧ errAcc.unit = 10 ∧
    powerless.service.powered = false ∧ cleanUp.stage1 = false ∧ cleanUp.stage2 = false ∧ cleanUp.stage3 = false ∧ cleanUp.stage5 = false ∧
    cleanUp.hostPort = false ∧ cleanUp.deadDies = [] ∧ powerless.service.staged = none ∧
    (failingUp.stage1 = true ∨ failingUp.stage2 = true ∨ failingUp.stage3 = true ∨ failingUp.stage5 = true ∨ failingUp.hostPort = true) ∧
    maskingUp.stage1 = false ∧ maskingUp.stage2 = false ∧ maskingUp.stage3 = false ∧ maskingUp.stage5 = false ∧ maskingUp.hostPort = false ∧
    maskingUp.deadDies = [] ∧ nfind throughStack.rets 5 = some stackLoad ∧ nfind throughStack.threads stackLoad.th = some (T throughStack) :=
  by split_ands <;> decide +kernel

theorem witness_AuditCourse :
    (let s := played [{ pc := 1, words := [9] }]
     let f := fl 12 8 0 0 0
     let c := capA s 4096 f
     (s.grpOf 4096).replays = some 5 ∧ nfind s.audits 5 = some (anAudit [0] (AuditPhase.running 2 12)) ∧ s.beat.threads = [4096] ∧ mayRun s 4096 = true ∧
       trapDue s 4096 0x92 f = none ∧ operandsReady s 4096 0x92 f = true ∧ guardPasses (s.thr 4096) f = true ∧
       accessFault s 4096 c permLD (addrOf s 4096 f) 4 4 = none ∧ replayLog s 4096 = [{ pc := 1, words := [9] }] ∧ 1 = (s.thr 4096).pc ∧ f.d ≠ 0 ∧
       (s.grpOf 4096).cancelled = false ∧ trapDue s 4096 0xA2 f = none ∧ operandsReady s 4096 0xA2 f = true ∧
       accessFault s 4096 c permST (addrOf s 4096 f) 4 4 = none ∧ trapDue s 4096 0xB0 (fl 0 0 0 0 0) = none ∧ operandsReady s 4096 0xB0 (fl 0 0 0 0 0) = true) ∧
    (let s := played []
     replayLog s 4096 = [] ∧ operandsReady s 4096 0x92 (fl 12 8 0 0 0) = true ∧ mayRun s 4096 = true ∧ trapDue s 4096 0x92 (fl 12 8 0 0 0) = none) ∧
    (let s := played [{ pc := 7, words := [9] }]
     replayLog s 4096 = [{ pc := 7, words := [9] }] ∧ 7 ≠ (s.thr 4096).pc ∧ operandsReady s 4096 0x92 (fl 12 8 0 0 0) = true) ∧
    (let s := played []
     let f := fl 12 9 0 0 0
     operandsReady s 4096 0xA2 f = true ∧ trapDue s 4096 0xA2 f = none ∧ (accessFault s 4096 (capA s 4096 f) permST (addrOf s 4096 f) 4 4).isSome = true) :=
  by split_ands <;> decide +kernel

theorem witness_AuditCourse_more :
    (let s := auditing 9 toReplay
     nfind s.audits 5 = some toReplay ∧ toReplay.phase = AuditPhase.waiting 5 ∧ toReplay.resident = none ∧ replayCluster s toReplay = some 12 ∧
       (∀ p ∈ s.threads, p.1 < s.ids * 2048) ∧ nfind toReplay.start 0 = some (thr numbers) ∧ s.now < 5 + 2 ^ 24) ∧
    replayCluster (halted (auditing 9 toReplay)) toReplay = none ∧
    (let a := aSegment (AuditPhase.waiting 5)
     let s := auditing (2 ^ 24 + 5) a
     a.phase = AuditPhase.waiting 5 ∧ a.resident = none ∧ 5 + 2 ^ 24 ≤ s.now ∧ a.segment = some 1 ∧ (nfind s.groups 1).isSome = true) ∧
    (let a := anAudit [0] (AuditPhase.running 2 12)
     let s := played []
     let late (s : State) (pos : Nat) : List Nat := (replayLeft s 2).filter fun k => rowOf k % 4 = pos
     nfind s.audits 5 = some a ∧ late s 1 = [] ∧ late s 0 = [4096] ∧ s.now < (s.thr 4096).stood + 2 ^ 20 ∧ replayDone s 2 = false ∧
       late { s with now := 2 ^ 20 } 0 = [4096] ∧ (s.thr 4096).stood + 2 ^ 20 ≤ 2 ^ 20 ∧ (nfind s.groups 2).isSome = true ∧ gidOf 4096 = 2) ∧
    (let a := anAudit [0] (AuditPhase.running 2 12)
     let s := replayedOf a []
     replayDone s 2 = true ∧ (∀ j ∈ a.positions, sameDigest a (runAt s a 2 12 [] j) = true) ∧ a.segment = none) ∧
    (let a := aSegment (AuditPhase.running 2 12)
     let s := replayedOf a []
     replayDone s 2 = true ∧ (∀ j ∈ a.positions, sameDigest a (runAt s a 2 12 [] j) = true) ∧ a.segment = some 1 ∧ (nfind s.groups 1).isSome = true) ∧
    (let a := anAudit [0] (AuditPhase.running 2 12)
     let s := replayedOf a [0]
     replayDone s 2 = true ∧ a.kernel.rows = 1 ∧ a.cores = [0] ∧ sameDigest a (runAt s a 2 12 [] 0) = false ∧ (runAt s a 2 12 [] 0).core ≠ 0) ∧
    (let a := anAudit [0] (AuditPhase.settling 5 [diverges 48])
     let s := auditing 9 a
     nfind s.audits 5 = some a ∧ a.segment = none ∧ tiebreakCluster s a (diverges 48) = some 13 ∧ tiebreakCluster (halted s) a (diverges 48) = none ∧
       s.now < 5 + 2 ^ 24 ∧ tiebreakCluster (halted (auditing (2 ^ 24 + 5) a)) a (diverges 48) = none) ∧
    (let a := anAudit [0] (AuditPhase.tied 2 24 [diverges 48])
     let s := tiedBy a
     let x := runAt s a 2 24 [] 0
     nfind s.audits 5 = some a ∧ replayDone s 2 = true ∧ a.cores = [0] ∧ 0 % 4 = (diverges 48).pos ∧ 0 ≠ (diverges 48).core ∧ x.core ≠ 0 ∧
       x.core ≠ (diverges 48).core ∧ sameDigest a x = true ∧ (s.core x.core).passed < 65535 ∧
       replayDone (replayedBy 9 24 a [] ((Sm 0).thr 2048) []) 2 = false) :=
  by split_ands <;> decide +kernel

/-- A replayed load takes the log's value; one whose log has run out diverges (R406). -/
theorem test_replay_load :
    ((next (exec (.ld32 (fl 12 8 0 0 0)) (played [{ pc := 1, words := [9] }]))).thr 4096).x 12 = 9 ∧
      ((next (exec (.ld32 (fl 12 8 0 0 0)) (played []))).grp 2).diverged = [0] := by decide +kernel

theorem witness_OutsideAccesses :
    alive (Sm 0) = true ∧ stackBytes (Sm 0) 1073745984 (max 4 1) = true ∧ heldBytes (Sm 0) 1073745984 (max 4 1) = false ∧
    poisonedAt (Sm 0) 1073745984 4 = false ∧ BitVec.toNat clockAsk % 256 < 192 ∧ BitVec.toNat clockAsk / 1024 % 2 = 0 ∧
    BitVec.toNat clockAsk / 256 % 4 ≠ 3 ∧ 25 ≤ BitVec.toNat clockAsk / 4096 % 64 ∧ BitVec.toNat clockAsk / 4096 % 64 ≤ 50 ∧
    (Sm 0).linksDown.contains 4 = false ∧ (Sm 0).rets = [] ∧ alive powerless = false ∧ alive noGroup = true ∧
    stackBytes noGroup 1073745984 (max [1, 2, 3, 4].length 1) = true ∧ noGroup.upds = [] ∧ noGroup.groups = [] ∧
    frameFree noGroup 1073745984 = false ∧ 0 < [1, 2, 3, 4].length ∧ 1073745984 / 64 = (1073745984 + [1, 2, 3, 4].length - 1) / 64 ∧
    stackBytes noGroup 1073745984 4 = true ∧ (∀ g ∈ noGroup.groups, g.2.residency ≠ Residency.resident) ∧
    ((noGroup.core 9).fmask.getLsbD 8 = false ∨ BitVec.getLsbD rootWord 8 = true) ∧ 192 ≤ BitVec.toNat rootWord % 256 ∧
    (18 ≤ 31 ∨ noGroup.linksDown.contains 31 = true) ∧ idling.threads = [(2048, idleThread)] ∧ idleThread.wait = Wait.idle 60 :=
  by split_ands <;> decide +kernel

theorem witness_ServicePort :
    S.service.powered = true ∧ S.service.safe ≠ 10 ∧ goodImage.ed25519 = true ∧ goodImage.mlDsa65 = true ∧
    (badImage.ed25519 = false ∨ badImage.mlDsa65 = false) ∧ powerless.service.powered = false :=
  by split_ands <;> decide +kernel

/-! ### More witnesses: hypotheses that quantify, and those of the first statements -/

/-- A pair of words: the first word's pair bit is set, the block has two words. -/
def pairFirst : Code := encode (.add { fl 4 1 2 0 0 with p := 1 })
def pairSecond : Code := encode (.sub (fl 5 1 2 0 0))
def pairRuns : State := withCode [fetchHeader + 2 ^ 46, pairFirst, pairSecond] base

theorem witness_StepRunsDecoded_word :
    alive base = true ∧ nextInput base = none ∧ firstDue base.now (dues base) = none ∧ nextCore base = some (0, 0) ∧
    (entered base 0 0).2 = [2048] ∧ ((entered base 0 0).1.thr 2048).atHeader = false ∧
    fetch (entered base 0 0).1 2048 ((entered base 0 0).1.thr 2048).pc = some 0 ∧ pairBit 0 = false ∧
    decodeWord 0 = .ok (.nop (fl 0 0 0 0 0)) := by
  split_ands <;> decide +kernel

theorem witness_StepRunsDecoded_pair :
    alive pairRuns = true ∧ nextInput pairRuns = none ∧ firstDue pairRuns.now (dues pairRuns) = none ∧ nextCore pairRuns = some (0, 0) ∧
    (entered pairRuns 0 0).2 = [2048] ∧ ((entered pairRuns 0 0).1.thr 2048).atHeader = false ∧
    fetch (entered pairRuns 0 0).1 2048 1 = some pairFirst ∧ fetch (entered pairRuns 0 0).1 2048 2 = some pairSecond ∧
    ((entered pairRuns 0 0).1.thr 2048).pc = 1 ∧ pairBit pairFirst = true ∧ isHeader pairSecond = false ∧
    1 < ((entered pairRuns 0 0).1.thr 2048).hdr + hdrLen ((entered pairRuns 0 0).1.thr 2048).hdrWord ∧
    (decodeWord pairFirst).toOption.isSome = true ∧ (decodeWord pairSecond).toOption.isSome = true := by
  split_ands <;> decide +kernel

/-- An input that is due; an event that is due. -/
def told : State := { base with inputs := [(0, .thermalShutdown)] }

theorem witness_StepRunsDecoded_events :
    (nextInput told).isSome = true ∧ alive told = true ∧ nextInput (withUpd 9 (aStore (.lehr 9))) = none ∧
    (match firstDue 9 (dues (withUpd 9 (aStore (.lehr 9)))) with | some (.ev (.lehrApply n)) => n == 5 | _ => false) = true := by
  split_ands <;> decide +kernel

theorem witness_DecodeEncode : (Instr.cmpN32 (fl 24 20 22 64 0)).code = some (0x2F, fl 24 20 22 64 0) ∧
    (Instr.cmpN32 (fl 24 20 22 64 0)).formError = none ∧ (Instr.shflUp (fl 30 28 1 31 1)).formError = none := by
  split_ands <;> decide +kernel

theorem witness_EncodeDecode : decodeWord 0x2F0C0502C4000000 = .ok (.cmpN32 (fl 24 20 22 64 0)) := by decide +kernel

theorem witness_StepKeepsMemoryForm : Memory.wf base.mem = true ∧ isNext (step base) = true := by
  split_ands <;> decide +kernel

theorem witness_TimeNeverDecreases : alive base = true ∧ alive (next (step base)) = true ∧ isNext (step base) = true := by
  split_ands <;> decide +kernel

theorem witness_GuardFails : (thr numbers).x 1 = 5 ∧ S.beat.threads = [2048] ∧ mayRun S 2048 = true ∧
    (Instr.add (guarded (pick 0x10))).code = some (0x10, guarded (pick 0x10)) ∧
    (Instr.voteAny (guarded (pick 0x84))).code = some (0x84, guarded (pick 0x84)) ∧ mayRun Sy 2048 = true ∧ Sy.beat.threads = [2048] ∧
    ∀ op ∈ [0x01, 0x0B, 0x10, 0x2F, 0x40, 0x6A, 0x84, 0x92, 0x9F, 0xA2, 0xB6, 0xD5, 0xE9, 0xF1], ∃ f ∈ [guarded (pick op)],
      trapDue (if op = 0xF1 then Sy else S) 2048 op f = none ∧ operandsReady (if op = 0xF1 then Sy else S) 2048 op f = true ∧
      guardPasses ((if op = 0xF1 then Sy else S).thr 2048) f = false := by
  split_ands <;> decide +kernel

theorem witness_PrivilegeFault : S.beat.threads = [2048] ∧ mayRun S 2048 = true ∧ (S.thr 2048).sys = false ∧ (S.thr 2048).pend = [] ∧
    asyncDue (S.thr 2048) = none ∧ ∀ op ∈ List.range' 0xF0 15, causeOf S 2048 op (fl 0 0 0 0 0) = 0 ∨ causeOf S 2048 op (pick op) = 0 := by
  split_ands <;> decide +kernel

theorem witness_UpdateCourse_more :
    homeOf (aStore (.travel 9)).key = .die 0 ∧ lehrCount (withUpd 9 (aStore (.travel 9))) 0 < 4096 ∧
    knownStore.c = some 9 ∧ knownStore.knownAt = some 9 ∧ knownStore.th = some 2048 ∧ (withUpd 9 knownStore).now = 9 ∧
    sameWord { withUpd 9 (aStore (.applied 9)) with upds := ndel (withUpd 9 (aStore (.applied 9))).upds 5 } (aStore (.applied 9)) = none ∧
    ((withUpd 9 (aStore (.applied 9))).grp 1).releasing.contains 5 = false ∧
    (nfind (withUpd 9 (aStore (.applied 9))).threads 2048).isSome = true := by
  split_ands <;> decide +kernel

theorem witness_LoadCourse_more :
    farLoad.key = some (2 ^ 50) ∧ homeOf (2 ^ 50) = .domain 256 ∧ farLoad.bounded = true ∧ farLoad.kind ≠ .probe ∧
    (aLoad .blocked).key = some 0x40001040 ∧ (match serveOf (withRet 14 (aLoad .blocked)) 5 (aLoad .blocked) 0x40001040 with | .go _ es => es == [] | _ => false) = true := by
  split_ands <;> decide +kernel

theorem witness_MatrixResources_more :
    nfind matrixGroup.pslots 1 ≠ none ∧ nfind matrixGroup.accs 3 ≠ none ∧ nfind matrixGroup.pslots 3 = none := by
  split_ands <;> decide +kernel

theorem witness_MatrixPasses_more :
    (passFault (inGroup matrixGroup []) matrixGroup { refA := 0, refB := 1, acc := 4 }).isSome = true ∧
    (passFault (inGroup matrixGroup []) matrixGroup { refA := 0, refB := 1, acc := 3 }) = none ∧
    ((knownPass afterPass 1).map (·.done)) = some (some 1) := by
  split_ands <;> decide +kernel

theorem witness_WorkQueries_more : (S.thr 2048).wait = .none ∧ threadsOf S 1 = [2048] ∧
    ∀ j ∈ threadsOf S 1, ((T S).x 4 = 0xFFFFFFFF ∨ j % 2048 / 32 = ((T S).x 4).toNat) → ∀ w, (S.thr j).wait ≠ .tick w ∧ (S.thr j).wait ≠ .idle w := by
  have h : (S.thr 2048).wait = .none := by decide +kernel
  have g : threadsOf S 1 = [2048] := by decide +kernel
  refine ⟨h, g, fun j hj _ w => ?_⟩
  rw [g, List.mem_singleton] at hj
  subst hj
  rw [h]
  exact ⟨nofun, nofun⟩

theorem witness_WorkWords_more : (1 : Word).getLsbD 0 = true ∧ freeSlot S = some 1 := by
  split_ands <;> decide +kernel

theorem witness_LaunchCourse_more : (toDispatch (some 5) 9 0).threads = [] ∧ toSpill.threads = [] ∧
    ((nfind endedGroup.groups 1).map fun g => (g.selected, g.launch)) = some (false, 0) ∧
    ((nfind endedGroup.launches 0).map (·.kernel.det)) = some false := by
  split_ands <;> decide +kernel

theorem witness_TrapReturn_more : (keyNow Sy (Sy.lchOf 2048).tenant (trapSlot Sy (T Sy))).isSome = true ∧
    (∀ i, ((T St).t i).tick < 2 ^ 60) := by
  refine ⟨?_, fun i => ?_⟩
  · decide +kernel
  · have h : (T St).treg = [] := by decide +kernel
    simp [Thread.t, h, nget, nfind]

theorem witness_parked_none : ∀ s ∈ [sysWith 3, Sm 0], ∀ p ∈ s.threads, ∀ w, p.2.wait ≠ .idle w := by
  have h : ∀ s ∈ [sysWith 3, Sm 0], ∀ p ∈ s.threads, p.2.wait = .none := by decide +kernel
  intro s hs p hp w
  rw [h s hs p hp]
  nofun

theorem witness_StairAndPins_more :
    (∀ s ∈ [det S, det rowOne, det Sr1], (T s).life = .live) ∧
    drainDue ((det S).modGrp 1 fun g => { g with drain := sput g.drain 2048 }) 1 = true ∧
    drainDue ((det rowOne).modGrp 1 fun g => { g with drain := sput g.drain 2048 }) 1 = false ∧
    ((nfind (det bare).launches 0).map fun x => (x.kernel.det, x.startTick.isSome, decide (x.ticket < x.gx * x.gy * x.gz), x.todo.contains x.ticket)) =
      some (true, true, true, false) ∧ (det bare).groups = [] := by
  split_ands <;> decide +kernel

theorem witness_FencesCountersWakes_more : (handleSlot S 2048 ((T S).x 0)).isSome = true ∧ workCount S 0 0 = 1 := by
  split_ands <;> decide +kernel

theorem witness_Tiles_more :
    ((tileOf (notProd (tiled [] [(1, 2)])) 1 2).map fun w => decide (w.fill.length + w.drain.length < 256)) = some true := by decide +kernel

theorem witness_PagesAndWalks_more : walk (Sp 0) ((Sp 0).lchOf 2048).tenant (adr (Sp 0)) = .leaf (smallLeaf 0) ∧ (smallLeaf 0).size = 0 ∧
    ((T (Sp 0)).cap 32).base ≤ adr (Sp 0) / 4096 * 4096 ∧ adr (Sp 0) / 4096 * 4096 + 4096 ≤ ((T (Sp 0)).cap 32).base + ((T (Sp 0)).cap 32).length ∧
    (match walk (Sm 0) ((Sm 0).lchOf 2048).tenant (adr (Sm 0)) with
      | .leaf l => decide (pageBytes l.size > ((T (Sm 0)).cap 32).length)
      | _ => false) = true := by
  split_ands <;> decide +kernel

theorem witness_PageOperations_more : pteFrame (smallLeaf 1).raw / 4096 % 2 ^ 32 = 0x80000 ∧ (0x80000 : Word).toNat = 0x80000 ∧
    Memory.wf (withPageRet (paging 2 (aMove (.copying 9 0x90000000)))).mem = true := by
  split_ands <;> decide +kernel

theorem witness_Curves_more : fp32.read false 0x7FC00000 = .nan ∧ (8 : Word).toNat / 65536 % 128 = 0 ∧ 8 ≤ (8 : Word).toNat % 256 ∧
    (67331 : Word).toNat % 256 = 3 ∧ (67331 : Word).toNat / 16384 % 4 = 0 ∧ (67331 : Word).toNat / 65536 % 128 = 1 := by
  split_ands <;> decide +kernel

theorem witness_RegisterReadWrite : (7 : Nat) ≠ 0 ∧ ((thr numbers).wr 7 5).x 7 = 5 := by decide +kernel
/-- Which pseudo-channel a line goes through is a free value: the load is among those of the one that it goes through. -/
theorem witness_ErrorsAndPower_more : channelLoads throughStack 0 (Config.freeChannel (lineOf 0x40001040)).val = [(5, stackLoad)] ∧
    ∃ pc, (Config.freeChannel (lineOf 0x40001040)).val = pc % 64 := by
  refine ⟨?_, _, (Nat.mod_eq_of_lt (Config.freeChannel (lineOf 0x40001040)).isLt).symm⟩
  have h : homeOf 0x40001040 = .die 0 := by decide
  simp [channelLoads, throughStack, withRet, stackLoad, aLoad, h]

set_option maxRecDepth 1000000 in
/-- The slot of a thread whose trap is delivered stays mapped. -/
theorem witness_TrapReturn_slot :
    keyNow (deliver St 2048 1 3 2 true 7 8) (St.lchOf 2048).tenant (trapSlot St (T St)) = keyNow St (St.lchOf 2048).tenant (trapSlot St (T St)) ∧
    (keyNow St (St.lchOf 2048).tenant (trapSlot St (T St))).isSome = true := by
  split_ands <;> decide +kernel

set_option maxRecDepth 1000000 in
/-- An image of zeros is no valid image of a user thread. -/
theorem witness_TrapReturn_image : imageValid (T Sy) (Sy.kernOf 2048).regs (rdBytes Sy 0x40100000 2320) = false := by decide +kernel

/-! ### Witnesses of single clauses -/

/-- Stores that arrive at a port: pooled at scope 6, and of cluster SRAM; a poisoned and an unpoisoned read point; a promise that a retry of its stack breaks. -/
def pooledTravel : Upd := { aStore (.travel 9) with key := 2 ^ 48 + 64, scope := 6 }
def sramTravel : Upd := { aStore (.travel 9) with key := 2 ^ 52 + 0x1040 }
def aRetry : Break := { cause := 2, die := 0, element := 0, fails := false, delay := 30 }
def stackPromise : Ret := { aLoad (.booked 12 20) with source := 3, stack := true }

theorem witness_UpdateApplied_more :
    (aStore (.lehr 9)).stale = false ∧ (aStore (.lehr 9)).xfer = none ∧ inBusyTile (withUpd 9 (aStore (.lehr 9))) 0x40001040 4 = false ∧
    (aStore (.lehr 9)).kind = .store [1, 2, 3, 4] false ∧ nfind atomicDue.upds 5 = some (anAtomic 8 0 [3]) ∧ poisonedAt atomicDue 0x40001040 4 = false ∧
    (anAtomic 8 0 [3]).ret = some 6 ∧ nfind atomicDue.rets 6 = some (aLoad .await) ∧ nfind (withUpd 9 entryUpd).upds 5 = some entryUpd ∧
    entryUpd.kind = .pte 0x1234567890 ∧ inCounts entryUpd.key 8 = false ∧ inBusyTile atomicDue 0x40001040 4 = false := by
  split_ands <;> decide +kernel

theorem witness_UpdateCourse_ports :
    nfind (withUpd 9 pooledTravel).upds 5 = some pooledTravel ∧ farApplied pooledTravel = true ∧ behind (withUpd 9 pooledTravel) 5 pooledTravel = false ∧
    inBusyTile (withUpd 9 pooledTravel) pooledTravel.key 4 = false ∧ pooledTravel.stale = false ∧ frameFree (withUpd 9 pooledTravel) pooledTravel.key = false ∧
    homeOf pooledTravel.key = .pool ∧ nfind (withUpd 9 sramTravel).upds 5 = some sramTravel ∧ homeOf sramTravel.key = .sram 0 ∧
    farApplied sramTravel = false ∧ behind (withUpd 9 sramTravel) 5 sramTravel = false ∧ inBusyTile (withUpd 9 sramTravel) sramTravel.key 4 = false ∧
    frameFree (withUpd 9 sramTravel) sramTravel.key = false ∧ farApplied (aStore (.travel 9)) = false := by
  split_ands <;> decide +kernel

theorem witness_LoadCourse_reads :
    nfind (withRet 9 (aLoad (.booked 12 14))).rets 5 = some (aLoad (.booked 12 14)) ∧ (aLoad (.booked 12 14)).kind ≠ .probe ∧
    (withRet 9 (aLoad (.booked 12 14))).now < 12 ∧ 12 ≤ (withRet 12 (aLoad (.booked 12 14))).now ∧
    poisonedAt (withRet 12 (aLoad (.booked 12 14))) 0x40001040 4 = false ∧ (aLoad (.booked 12 14)).partOf = none ∧
    breaksRet aRetry stackPromise 0x40001040 = true ∧ breaksRet aRetry (aLoad (.booked 12 14)) 0x40001040 = false ∧
    stackPromise.est = false ∧ stackPromise.partOf = none ∧ (∀ p ∈ (withRet 9 stackPromise).rets, 5 < p.1 → p.2.partOf = none) ∧
    ∀ p ∈ (withRet 9 stackPromise).rets, 5 < p.1 → p.2.th ≠ stackPromise.th := by
  split_ands <;> decide +kernel

/-- A thread whose register x1 holds the handle of launch 3, which has two groups open. -/
def counting (bound : Nat) : State := { naming false with threads := [(2048, { thr [(1, 0x5003)] with wait := .count 0 0x5003 bound })] }

theorem witness_FencesCountersWakes_parked :
    (T (waiting 4 (.park 30))).wait = .park 30 ∧ (waiting 4 (.park 30)).nowOf 2048 + 16 < 30 ∧ 30 ≤ (waiting 14 (.park 30)).nowOf 2048 + 16 ∧
    (T (waiting 29 (.woken 30))).wait = .woken 30 ∧ (waiting 29 (.woken 30)).nowOf 2048 < 30 ∧ 30 ≤ (waiting 30 (.woken 30)).nowOf 2048 ∧
    (T (counting 1)).wait = .count 0 0x5003 1 ∧ 1 < openOf (counting 1) 0 0x5003 ∧ openOf (counting 2) 0 0x5003 ≤ 2 ∧
    (T (counting 2)).wait = .count 0 0x5003 2 ∧ (T { S with now := (T S).stood }).stood = { S with now := (T S).stood }.now := by
  split_ands <;> decide +kernel

/-- A word on a barrier object at its port, with its return; a thread that waits for ticket 4 or 5 of an object at generation 5. -/
def barUpd (op : Nat) (v : Word) : Upd :=
  { aStore (.lehr 9) with kind := .bar op v, key := 2 ^ 52 + 0x1040, bytes := 16, ret := some 6, treg := none }
def atPort (op : Nat) (arrivals : Word) : State :=
  { sramWords [2, arrivals, 5, 9] with now := 9, ids := 20, upds := [(5, barUpd op 3)], rets := [(6, { aLoad .await with kind := .word })] }
def forTicket (ticket : Word) (now : Nat) : State :=
  { (sramWords [2, 0, 5, 9]).modThr 2048 (fun t => { t with wait := .barrier (2 ^ 52 + 0x1040) (some ticket) (some 1) 9 }) with now := now }

theorem witness_BarrierObjects_port :
    (∀ op ∈ [2, 3, 5], nfind (atPort op 1).upds 5 = some (barUpd op 3) ∧ (barUpd op 3).kind = .bar op 3 ∧ (barUpd op 3).phase = .lehr 9 ∧ 9 ≤ (atPort op 1).now ∧
      inBusyTile (atPort op 1) (barUpd op 3).key 16 = false ∧ (barUpd op 3).stale = false ∧ (barUpd op 3).ret = some 6 ∧
      ((nfind (atPort op 1).rets 6).map fun r => (r.discard, r.n, r.dst, r.th)) = some (false, 1, 20, 2048) ∧ (nfind (atPort op 1).threads 2048).isSome = true) ∧
    rdNat (atPort 3 1) (2 ^ 52 + 0x1040) 4 ≤ (rdNat (atPort 3 1) (2 ^ 52 + 0x1044) 4 + 1) % 2 ^ 32 ∧
    (rdNat (atPort 3 0) (2 ^ 52 + 0x1044) 4 + 1) % 2 ^ 32 < rdNat (atPort 3 0) (2 ^ 52 + 0x1040) 4 ∧
    (T (forTicket 4 8)).wait = .barrier (2 ^ 52 + 0x1040) (some 4) (some 1) 9 ∧ (forTicket 4 8).now < 9 ∧ 9 ≤ (forTicket 4 9).now ∧
    rdNat (forTicket 4 9) (2 ^ 52 + 0x1048) 4 = 5 ∧ (nfind (forTicket 5 9).threads 2048).isSome = true ∧ ((forTicket 5 9).threads.map (·.1)).Nodup := by
  split_ands <;> decide +kernel

theorem witness_HardwareBarriers_waiters :
    nfind (barred 9 (.hw 5 false 4) (anInstance 1 [0] [2048])).threads 2048 = some (T (barred 9 (.hw 5 false 4) (anInstance 1 [0] [2048]))) ∧
    ((barred 9 (.hw 5 false 4) (anInstance 1 [0] [2048])).threads.map (·.1)).Nodup ∧
    (T (barred 9 (.hw 5 false 4) (anInstance 1 [0] [2048]))).wait = .hw 5 false 4 ∧ ((barred 73 (.hw 5 false 4) gridReleased).grpOf 2048).cluster = 0 ∧
    (T (barred 73 (.hw 5 false 4) gridReleased)).wait = .hw 5 false 4 := by
  split_ands <;> decide +kernel

/-- A copy that has met an entry of a porch: the entry stands there, or does not. -/
def metCopy : Xfer := { aCopy 0 with met := true, after := [7] }
def metting (phase : UpdPhase) : State := { copying metCopy with upds := [(7, aPorched phase)] }

theorem witness_CopyCourse_met :
    nfind (metting .porch).xfers 5 = some metCopy ∧ unitDue (metting .porch) 5 = true ∧ metCopy.next = 0 ∧ metCopy.met = true ∧
    entriesOpen (metting .porch) metCopy.after = true ∧ rowOutside (metting .porch) metCopy 0 = false ∧ unitDue (copying metCopy) 5 = true ∧
    entriesOpen (copying metCopy) metCopy.after = false ∧
    (let got := readUnit (copying metCopy) 1 0 0 (metCopy.va % 2 ^ 52) 16 { k := 2048, before := 0, met := true }
     got = .bytes (List.replicate 16 0)) := by
  split_ands <;> decide +kernel

/-- The cache of table entries of die 0 has the root's entry for the page. -/
def tableCached : State :=
  (walking 0 (aWalk .pgstat (.walk 9 4 0x100000))).modDie 0 fun d =>
    { d with tableCache := [{ entry := pteAddr 0x100000 4 0x40001040, level := 4, va := levelSpan 4 0x40001040, table := 0x200000 }] }

theorem witness_PagesAndWalks_cache :
    cachedTable (walking 0 (aWalk .pgstat (.walk 9 4 0x100000))) 0x100000 4 0x40001040 = none ∧ cachedTable tableCached 0x100000 4 0x40001040 = some 0x200000 ∧
    (walking 0 (aWalk .pgstat (.walk 9 4 0x100000))).tva 2048 0 0x40001040 = 0x40001040 ∧
    cachedTable (walking 0 (aWalk .pgstat (.walk 9 1 0x400000))) 0x400000 1 0x40001040 = none ∧
    (aWalk (.load false false) (.back 9 (.leaf (smallLeaf 3)))).partOf = none ∧ pteFrame (smallLeaf 0).raw < 2 ^ 40 ∧ (0x90000000 : Nat) % 4096 = 0 ∧
    inCounts 0x90000000 4096 = false ∧ inCounts (smallLeaf 3).entry 8 = false ∧ (smallLeaf 0).state ≠ 3 ∧ (smallLeaf 0).state ≠ 4 := by
  split_ands <;> decide +kernel

/-- A pool of 4,096 frames; a page of memory that no device holds. -/
def poolFull : State := S.modDie 0 fun d => { d with pool4k := List.replicate 4096 0x90000000 }

theorem witness_PageOperations_port :
    stackBytes S 0x3000000000000 8 = false ∧ (0x3000000000000 : Nat) % 8 = 0 ∧ stackBytes S 0x400008 8 = true ∧ S.upds = [] ∧ frameFree S 0x400008 = false ∧
    S.pageOps = [] ∧ 4096 ≤ (poolOf (poolFull.die 0) 0).length ∧ poolFull.pageOps = [] ∧ inCounts (smallLeaf 0).entry 8 = false ∧
    inCounts (smallLeaf 2).entry 8 = false ∧ (aMove (.copying 9 0x90000000)).leaf = smallLeaf 2 := by
  split_ands <;> decide +kernel

/-- A thread that LAUNCHW has parked with its record, the larder full or not. -/
def inLarder (full : Bool) : State :=
  let s := if full then larderFull [0x10002, 1] else recorded [0x10002, 1]
  { s.modThr 2048 fun t => { t with wait := .larder (readRecord s (2 ^ 52 + 0x1040)) 6 } with rets := [(6, { aLoad .await with kind := .word })] }

theorem witness_WorkWords_waits :
    (T (inLarder false)).wait = .larder (readRecord (recorded [0x10002, 1]) (2 ^ 52 + 0x1040)) 6 ∧
    (recordFull (inLarder false) false (readRecord (recorded [0x10002, 1]) (2 ^ 52 + 0x1040)).gmode).1 = 0 ∧
    (nget (windowed [2, 1] 0x100000).windows 0 {}).result ≠ 0xFFFFFFFF ∧ translated ((T (Sm 0)).cap 32).space = true ∧
    translated ((T (Sm 1)).cap 32).space = false ∧ Alone (Sm 1) 2048 0xEB (fl 1 8 0 0 0) ∧
    accessFault (Sm 1) 2048 ((T (Sm 1)).cap 32) permLD (adr (Sm 1)) (max ((T (Sm 1)).x 1).toNat 1) 1 = none := by
  split_ands <;> decide +kernel

/-- Every slot of the larder holds a launch that is not complete. -/
theorem larder_full (l : Launch) (h : l.complete = false) (s : State) (hs : s.launches = (List.range 4096).map fun i => (i, l)) : freeSlot s = none := by
  have key : ∀ (is : List Nat) (i : Nat), i ∈ is → nfind (is.map fun j => (j, l)) i = some l := by
    intro is
    induction is with
    | nil => intro i hi; cases hi
    | cons j js ih =>
      intro i hi
      by_cases e : i = j
      · simp [nfind, e]
      · simp only [List.mem_cons, e, false_or] at hi
        have := ih i hi
        simp only [nfind, List.map_cons] at this ⊢
        simpa [Ne.symm e, e] using this
  rw [freeSlot, List.find?_eq_none]
  intro i hi
  rw [hs, key _ i (by simpa [Config.larderSize] using hi)]
  simp [h]

theorem witness_WorkWords_full :
    freeSlot (larderFull [0x10002, 1]) = none ∧ freeSlot (inLarder true) = none ∧ (∀ m, (recordFull (inLarder true) false m).1 ≠ 0) := by
  have e : ((recorded [0x10002, 1]).lch 0).complete = false := by decide +kernel
  have h1 : (larderFull [0x10002, 1]).launches = (List.range 4096).map fun i => (i, (recorded [0x10002, 1]).lch 0) := by simp only [larderFull]
  have h2 : (inLarder true).launches = (larderFull [0x10002, 1]).launches := by simp only [inLarder, if_true, State.modThr]
  have h := larder_full _ e _ (h2.trans h1)
  exact ⟨larder_full _ e _ h1, h, fun m => by simp [recordFull, h]⟩

/-- A group of lower priority on the same cluster. -/
def lowerBeside : State := { S with groups := [(1, { S.grp 1 with prio := 2 }), (3, { S.grp 1 with prio := 1 })] }

theorem witness_GroupCourse_turns : preemptTurn S 1 = true ∧ preemptTurn lowerBeside 1 = false ∧ preemptTurn (parkedAt idemHeader false 0) 1 = true ∧
    (nfind lowerBeside.groups 1).isSome = true ∧ (savedCounts pausing 2048).isSome = true ∧ (T pausing).life = .live := by
  split_ands <;> decide +kernel

theorem witness_ControlRegisters_budgets :
    (∀ n ∈ [0x052, 0x057, 0x058, 0x059, 0x05A], Alone (sysWith 3) 2048 0xF2 (csrFields 0 1 n) ∧ (csrFields 0 1 n).imm18.toNat = n) := by
  decide +kernel

/-- An image in memory that no page has, and one in a tile that fills. -/
def imageAbsent : State := sys1 ((thr numbers).wrCap 32 (capAt 0 63 0x80001000 0x80001040 7 0))

theorem witness_ContextImages_absent :
    Alone imageAbsent 2048 0xF5 (fl 0 8 0 0 0) ∧ accessFault imageAbsent 2048 ((T imageAbsent).cap 32) permLD (adr imageAbsent) 2320 64 = none ∧
    xferVa imageAbsent 2048 0 (adr imageAbsent) = (0, adr imageAbsent) ∧
    readUnit imageAbsent 1 (imageAbsent.dieOf 2048) 0 (adr imageAbsent) 2320 { k := 2048, before := imageAbsent.ids, own := true } = .absent := by
  split_ands <;> decide +kernel

/-- Clusters that were gated at this tick, and that ask. -/
def gatedNow : State := { sysWith 5 with clusters := [(5, { gated := true, gatedAt := some 0 })] }
def askingNow : State := { sysWith 5 with clusters := [(5, { gated := true, wakeReq := some 0 })] }

theorem witness_Management_gates :
    Alone gatedNow 2048 0xFA (fl 4 1 0 0 1) ∧ (gatedNow.cluster 5).gatedAt = some gatedNow.now ∧ (gatedNow.cluster 5).wakeReq = none ∧
    Alone askingNow 2048 0xFA (fl 4 1 0 0 0) ∧ (askingNow.cluster 5).wakeReq = some 0 ∧ liveCluster askingNow 5 = true ∧
    ((powered 5 true).cluster 5).gatedAt ≠ some (powered 5 true).now ∧ dispatchNow (managed 9 false) 9 = false := by
  split_ands <;> decide +kernel

/-- A release of BAR.GRID at tick 3, before a request of tick 4. -/
def gridFirst : State := { gatedAt 5 wakes [] with hwbars := [(7, { anInstance 3 [0] [] with released := some 3 })] }

theorem witness_PowerCourse_grid : gridAhead gridFirst 4 = true ∧ (slewQueue gridFirst).head? = some 0 ∧ (gridFirst.cluster 0).wakeGrid = false ∧
    (gridFirst.cluster 0).wakeReq = some 4 ∧ gridAhead (gatedAt 5 wakes [3, 2]) 4 = false ∧ ((gatedAt 5 isGated []).cluster 0).gatedAt ≠ some 5 := by
  split_ands <;> decide +kernel

theorem witness_ErrorsAndPower_broken : throughStack.rets = [(5, stackLoad)] ∧ stackLoad.partOf = none ∧ stackLoad.kind ≠ .atomic ∧
    stackLoad.phase = .booked 12 20 := by
  split_ands <;> decide +kernel

theorem witness_OutsideAccesses_add : (0x40001040 : Nat) % 4 = 0 ∧ stackBytes noGroup 0x40001040 4 = true ∧ (Sm 0).service.powered = true := by
  split_ands <;> decide +kernel

theorem witness_StepRunsDecoded_seek : ((entered base 0 0).1.thr 2048).seek = false ∧ ((entered pairRuns 0 0).1.thr 2048).seek = false := by
  split_ands <;> decide +kernel

theorem witness_UpdatesStart_full : replaying Sf 2048 = false ∧ accessFault Sf 2048 ((T Sf).cap 32) permST (adr Sf) 4 4 = none ∧
    guardPasses (T Sf) (fl 4 8 0 0 0) = true ∧ (keyKnown Sf 2048 0 (adr Sf)).isSome = true ∧
    (keyKnown Sf 2048 0 (adr Sf)).any (porchFull Sf (Sf.dieOf 2048)) = true ∧ Sf.det 2048 = false := by
  split_ands <;> decide +kernel

theorem witness_operandsReady_user : replaying S 2048 = false ∧ guardPasses (T S) (fl 0 0 0 0 0) = true ∧ replaying tickingAt7 2048 = false ∧
    replaying (played []) 4096 = true ∧ replaying St 2048 = false := by
  split_ands <;> decide +kernel

/-! ### Witnesses of the clauses on forms that run beside the plain ones -/

/-- A cancelled group; a cluster with a grant of 4,096 bytes; the second word of a pair, with what the first found. -/
def cancelledS : State := S.modGrp 1 fun g => { g with cancelled := true }
def grantedS (g : Option Nat) : State := { S with clusters := [(0, { grant := g })] }
def second (s : State) : State := { s with beat := { s.beat with adv := 2, pre := [(2048, (5, some 9))] } }

theorem witness_GoingOnFrame_cancelled :
    (cancelledS.grpOf 2048).cancelled = true ∧ nfind cancelledS.threads 2048 = some (thr numbers) ∧ (1 : Nat) ≠ 0 ∧
    (thr numbers).hdr + hdrLen (thr numbers).hdrWord < (thr numbers).pc + 1 := by
  split_ands <;> decide +kernel

theorem witness_SpecialRegisters_pair :
    Alone (second S) 2048 0x3D (fl 4 0 0 11 0) ∧ Alone (second S) 2048 0x3D (fl 4 0 0 13 0) ∧ Alone (second S) 2048 0x3D (fl 4 0 0 269 0) ∧
    (second S).beat.adv = 2 ∧ nget (second S).beat.pre 2048 (0, none) = (5, some 9) ∧
    (∀ g ∈ [none, some 4096], Alone (grantedS g) 2048 0x3D (fl 4 0 0 16 0) ∧ ((grantedS g).cluster ((grantedS g).grpOf 2048).cluster).grant = g ∧
      (grantedS g).det 2048 = false) ∧ 16 = (fl 4 0 0 16 0).imm18.toNat % 256 ∧ Alone (det S) 2048 0x3D (fl 4 0 0 16 0) ∧ (det S).det 2048 = true := by
  split_ands <;> decide +kernel

/-- A table's load whose one segment has come, is absent or is poisoned, with its return to x20 and t1. -/
def curveBound (p : Piece) : State :=
  { (Sm 0).modThr 2048 (fun t => { t with bound := [(1, 6)] }) with
    now := 9, ids := 20, xfers := [(5, { curveLoad with pieces := [(0, p)] })]
    rets := [(6, { th := 2048, kind := .xfer, dst := 20, n := 1, treg := some 1 })] }
def pieces3 : List Piece := [aPiece 20, { aPiece 20 with absent := true }, { aPiece 20 with poisoned := true }]

theorem witness_Curves_landed :
    landed (T (curved (thr [(8, 1069547520), (9, 2)]))) 0x70 (fl 4 8 0 1 0) = true ∧
    (pieces3.all fun p => ((nfind (curveBound p).xfers 5).map fun x => (x.rets, x.stop, x.staged, x.booked, x.kind == .curve 3 7 1)) ==
        some ([6], none, false, true, true) &&
      nfind (curveBound p).rets 6 == some { th := 2048, kind := .xfer, dst := 20, n := 1, treg := some 1 } &&
      nfind (T (curveBound p)).bound 1 == some 6 && piecesDone (curveBound p) 5 && !curveBehind (curveBound p) 5 1) = true ∧
    (pieces3.map fun p => ((nfind (curveBound p).xfers 5).map fun x => x.gotAll.map fun q => (q.absent, q.poisoned))) =
      [some [(false, false)], some [(true, false)], some [(false, true)]] := by
  split_ands <;> decide +kernel

/-- CRVLD's status by what has come (R171). -/
theorem test_curve_status : (pieces3.map fun p => ((next (execCurveLoadComplete 5 (curveBound p))).thr 2048).x 20) = [0, 2, 3] := by decide +kernel

theorem witness_TimeRegisters_det :
    (∀ c ∈ List.range 10, Alone (det (at1 ticking)) 2048 0x9F (fl 4 1 0 (c * 32) 0) ∧ (fl 4 1 0 (c * 32) 0).cond = c) ∧
    (det (at1 ticking)).det 2048 = true ∧ (∀ c ∈ List.range 10, Alone tickingAt7 2048 0x9F (fl 4 1 0 (c * 32) 0)) ∧ tickingAt7.det 2048 = false ∧
    (fl 4 1 0 0 1).m ≠ 0 ∧ reservedBad 0x9F (fl 4 1 0 0 1) = false ∧ replaying tickingAt7 2048 = false ∧ mayRun tickingAt7 2048 = true ∧
    asyncDue (T tickingAt7) = none ∧ refusalDue tickingAt7 2048 0x9F (fl 4 1 0 0 1) = false ∧ tickingAt7.beat.threads = [2048] := by
  split_ands <;> decide +kernel

theorem witness_LoadsStart_grants : ((Sm 0).cluster ((Sm 0).coreOf 2048 / 4)).grant = none ∧ ((Sm 0).cluster ((Sm 0).coreOf 2048 / 4)).nextGrant = none := by
  split_ands <;> decide +kernel

/-- An update of a table entry, the entry that stands there, the frame's count. -/
def entryOf (frame : Nat) : BitVec 64 := BitVec.ofNat 64 (2 ^ 63 + frame)
def entryAt (old new : BitVec 64) : State :=
  wrBytes (withUpd 9 { aStore (.lehr 9) with kind := .pte new, bytes := 8 }) 0x40001040 (bytesOfNat old.toNat 8)

theorem witness_UpdateApplied_counts :
    ((nfind (entryAt 0 (entryOf 0x80000000)).upds 5).map fun u => (u.kind == .pte (entryOf 0x80000000), u.key)) = some (true, 0x40001040) ∧
    rdNat (entryAt 0 (entryOf 0x80000000)) 0x40001040 8 = 0 ∧ pteV (0 : BitVec 64) = false ∧ pteV (entryOf 0x80000000) = true ∧
    pteState (entryOf 0x80000000) ≤ 2 ∧ inStack (pteFrame (entryOf 0x80000000)) = true ∧ countsAt 0x40001040 (entryOf 0x80000000) = true ∧
    rdNat (entryAt (entryOf 0x80000000) 0) 0x40001040 8 = (entryOf 0x80000000).toNat ∧
    ((nfind (entryAt (entryOf 0x80000000) 0).upds 5).map fun u => (u.kind == .pte 0, u.phase == .lehr 9)) = some (true, true) := by
  split_ands <;> decide +kernel

/-- A store to a tile that fills; one that reaches a page's old frame. -/
def inTile : State :=
  { copying (aCopy 0) with upds := [(5, { aStore (.lehr 9) with key := 2 ^ 52 + 16 })] }
def staleStore : Upd := { aStore (.lehr 9) with stale := true }

theorem witness_UpdateApplied_busy :
    inBusyTile inTile (2 ^ 52 + 16) 4 = true ∧ ((nfind inTile.upds 5).map fun u => (u.xfer, u.phase == .lehr 9, u.key)) = some (none, true, 2 ^ 52 + 16) ∧
    9 ≤ inTile.now ∧ nfind (withUpd 9 staleStore).upds 5 = some staleStore ∧ staleStore.stale = true ∧
    inBusyTile (withUpd 9 staleStore) staleStore.key staleStore.bytes = false := by
  split_ands <;> decide +kernel

/-- Stores of a porch to the pool, at scope 0 and acknowledged by the port. -/
def poolStore : Upd := { aPorched (.applied 9) with key := 2 ^ 48 + 64, scope := 0 }
def lostPool : Upd := { aPorched (.applied 0) with key := 2 ^ 48 + 64, scope := 0 }
def poolSeized : State := (withUpd 9226 lostPool).modDie 0 fun d => { d with seized := [.pool] }

theorem witness_UpdateCourse_acks :
    (aStore (.travel 9)).ungranted = false ∧ nfind (withUpd 9 poolStore).upds 5 = some poolStore ∧ offDie poolStore.die poolStore.key = true ∧
    poolStore.scope < 6 ∧ homeOf poolStore.key = .pool ∧ poolStore.counted = true ∧
    sameWord { withUpd 9 poolStore with upds := ndel (withUpd 9 poolStore).upds 5 } poolStore = none ∧
    ((withUpd 9 poolStore).grp 1).releasing.contains 5 = false ∧ (nfind (withUpd 9 poolStore).threads 2048).isSome = true ∧
    nfind poolSeized.upds 5 = some lostPool ∧ (poolSeized.die 0).seized.contains .pool = true ∧ seizedEntry poolSeized 0 .pool = some (5, lostPool) ∧
    lostPool.phase = .applied 0 ∧ lostPool.sent = some 10 := by
  split_ands <;> decide +kernel

theorem witness_Refusals_record : ((withUpd 9226 (aPorched .porch)).die 1).mcq.length < 256 ∧ homeOf (aPorched .porch).key = .die 1 := by
  split_ands <;> decide +kernel

/-- A return that reads no memory; a PROBE of another device whose path is bounded, and one that passes the L1 by; one of the pool. -/
def keyless : Ret := { aLoad (.probe 9 0 0) with key := none, kind := .word }
def farProbe : Ret := { farLoad with kind := .probe }
def bypassProbe : Ret := { aProbe with hint := 2 }
def poolProbe : Ret := { aProbe with key := some (2 ^ 48 + 64) }

theorem witness_LoadCourse_probes :
    nfind (withRet 9 keyless).rets 5 = some keyless ∧ keyless.phase = .probe 9 0 0 ∧ keyless.kind ≠ .probe ∧ keyless.key = none ∧
    nfind (withBoundRet 410 farProbe).rets 5 = some farProbe ∧ farProbe.phase = .booked 500 514 ∧ farProbe.est = true ∧ farProbe.bounded = true ∧
    farProbe.issued + 400 ≤ (withBoundRet 410 farProbe).now ∧ farProbe.kind = .probe ∧ farProbe.discard = false ∧ farProbe.n = 1 ∧ farProbe.dst ≠ 0 ∧
    homeOf (aProbe.key.getD 0) = .die 0 ∧ aProbe.hint ≠ 2 ∧ bypassProbe.hint = 2 ∧ homeOf (poolProbe.key.getD 0) = .pool := by
  split_ands <;> decide +kernel

/-- The last of a row's threads at ROWSYNC: one waits, one has ended. -/
def rowLast : State := (Sr1.modThr 2049 fun t => { t with wait := .row }).modThr 2050 fun t => { t with life := .exited }

theorem witness_FencesCountersWakes_forms :
    replaying S 2048 = false ∧ (fl 0 0 0 0 0).imm18.toNat / 256 % 16 < 14 ∧ (fl 0 0 0 0 0).imm18.toNat / 4096 % 16 < 14 ∧
    Alone rowLast 2048 0xBD (fl 0 0 0 0 0) ∧ threadsOf rowLast 1 = [2048, 2049, 2050] ∧ (rowLast.thr 2049).wait = .row ∧ (rowLast.thr 2050).life = .exited ∧
    (T (waiting 4 (.fallen 5))).wait = .fallen 5 ∧ (waiting 4 (.fallen 5)).nowOf 2048 < 5 ∧ 5 ≤ (waiting 5 (.fallen 5)).nowOf 2048 ∧
    (T (waiting 5 (.fallen 5))).wait = .fallen 5 := by
  split_ands <;> decide +kernel

/-- The row goes on once its last thread has come (R262). -/
theorem test_rowsync_last : [2048, 2049].all (fun k => (((next (exec (.rowsync (fl 0 0 0 0 0)) rowLast)).thr k).wait == .none)) = true := by decide +kernel

theorem witness_HardwareBarriers_levels : Alone S 2048 0xB7 (fl 4 0 0 0 0) ∧ Alone S 2048 0xB8 (fl 4 0 0 0 0) ∧ Alone S 2048 0xB9 (fl 4 0 0 0 0) ∧
    (∀ l ∈ [1, 2, 3], openBar S l (S.grpOf 2048).launch (match l with | 1 => (S.grpOf 2048).cluster | 2 => S.dieOf 2048 | _ => 0) = none) := by
  split_ands <;> decide +kernel

/-- A thread with a load outstanding before a FLAGSET at scope 2, and waiting at it; the same with none. -/
def releasing (w : Wait) (loads : Nat) : State := (Sm 0).modThr 2048 fun t => { t with loads := loads, wait := w }

theorem witness_Flags_release :
    Alone (releasing .none 1) 2048 0xBA (fl 4 8 0 4 0) ∧ (fl 4 8 0 4 0).scope = 2 ∧ releaseReady (releasing .none 1) 2048 2 = false ∧
    accessFault (releasing .none 1) 2048 ((T (Sm 0)).cap 32) permST 4160 4 4 = none ∧
    (match resolve (releasing .none 1) 2048 ((T (Sm 0)).cap 32).space 4160 with | .key s1 key => !porchFull s1 (s1.dieOf 2048) key | _ => false) = true ∧
    (T (releasing (.release 2) 1)).wait = .release 2 ∧ releaseReady (releasing (.release 2) 1) 2048 2 = false ∧ (T (releasing (.release 2) 1)).refusal = none ∧
    (T (releasing (.release 2) 0)).wait = .release 2 ∧ releaseReady (releasing (.release 2) 0) 2048 2 = true := by
  split_ands <;> decide +kernel

/-- A copy whose cluster has no bytes left to grant. -/
def ungranted : State := { copying (aCopy 0) with clusters := [(0, { grant := some 0 })] }

theorem witness_CopyCourse_grants :
    unitDue ungranted 5 = true ∧ nfind ungranted.xfers 5 = some (aCopy 0) ∧ (aCopy 0).met = false ∧
    readUnit ungranted 1 0 0 ((aCopy 0).va % 2 ^ 52) 16 { k := 2048, before := 0 } = .bytes (List.replicate 16 0) ∧
    (chargeUnit ungranted 5 (aCopy 0) (some ((aCopy 0).space, (aCopy 0).unitVa 0))).isNone = true ∧
    (chargeUnit (copying (aCopy 0)) 5 (aCopy 0) (some ((aCopy 0).space, (aCopy 0).unitVa 0))).isSome = true := by
  split_ands <;> decide +kernel

/-- A load whose walk has found its page, and the device once its translation is kept; a walk that a sweep has met. -/
def presentLoad : Ret := aWalk (.load false false) (.back 9 (.leaf (smallLeaf 0)))
def presentKept : State :=
  let s := walking 0 presentLoad
  let v := s.tva presentLoad.th presentLoad.space presentLoad.va
  lanePageSet (tlbFill s presentLoad.core (s.lchOf presentLoad.th).tenant v (smallLeaf 0)) presentLoad.core (laneOf presentLoad.th)
    (s.lchOf presentLoad.th).tenant v (smallLeaf 0)
def sweptWalk : Ret := { aWalk .pgstat (.walk 9 1 0x400000) with swept := true }

theorem witness_PagesAndWalks_swept :
    sweptWalk.phase = .walk 9 1 0x400000 ∧ sweptWalk.swept = true ∧ nfind (walking 0 sweptWalk).rets 5 = some sweptWalk ∧
    (aWalk .pgstat (.back 9 (.leaf (smallLeaf 0)))).swept = false ∧ (smallLeaf 0).present = true ∧ presentLoad.swept = false ∧
    BitVec.ofNat 64 (rdNat (walking 0 presentLoad) (smallLeaf 0).entry 8) = (smallLeaf 0).raw ∧
    BitVec.ofNat 64 (rdNat (walking 3 presentLoad) (smallLeaf 3).entry 8) = (smallLeaf 3).raw ∧
    spanLeaf (walking 0 presentLoad) (smallLeaf 0) = smallLeaf 0 ∧
    (match serveOf presentKept 5 presentLoad (pteFrame (smallLeaf 0).raw + 0x40001040 % 4096) with | .go _ _ => true | _ => false) = true := by
  split_ands <;> decide +kernel

/-- A copy-on-write that ends its copy, its thread held. -/
def cowing : State := heldThread (counted (paging 1 (aCow (some 2048) (.copying 9 0x90000000))))

theorem witness_PageOperations_commit :
    nfind cowing.pageOps 5 = some (aCow (some 2048) (.copying 9 0x90000000)) ∧ Memory.wf cowing.mem = true ∧ 9 ≤ cowing.now ∧ pteV (smallLeaf 1).raw = true ∧
    (aCow (some 2048) (.copying 9 0x90000000)).leaf = smallLeaf 1 ∧ BitVec.ofNat 64 (rdNat cowing (smallLeaf 1).entry 8) = (smallLeaf 1).raw ∧
    (smallLeaf 1).entry + 8 ≤ 0x90000000 ∧ pteFrame (smallLeaf 1).raw = 0x80000000 ∧ inCounts (smallLeaf 1).entry 8 = false ∧
    (nfind cowing.threads 2048).map (·.pageHold) = some (some 5) ∧ replaying Sn 2048 = false ∧ (T Sn).cowRefused = true := by
  split_ands <;> decide +kernel

/-- The held word's thread goes on, and walks again (R397). -/
theorem test_cow_commit : ((next (execCopyOnWrite 5 cowing)).count 0x90000000, ((next (execCopyOnWrite 5 cowing)).thr 2048).freshWalk) = (1, true) := by
  decide +kernel

theorem witness_MatrixResources_release :
    Alone (inGroup matrixGroup [(1, 259)]) 2048 0xD1 (fl 0 1 0 0 1) ∧ Alone (inGroup matrixGroup [(1, 260)]) 2048 0xD1 (fl 0 1 0 0 1) ∧
    ((T (inGroup matrixGroup [(1, 259)])).x 1).toNat = 3 + 256 * 1 ∧ (∀ i, 3 ≤ i → i < 3 + 1 → nfind matrixGroup.accs i ≠ none) ∧
    ((T (inGroup matrixGroup [(1, 260)])).x 1).toNat = 4 + 256 * 1 ∧ nfind matrixGroup.accs 4 = none ∧
    Alone (inGroup matrixGroup [(1, 4), (2, 9)]) 2048 0xD0 (fl 4 1 2 0 2) ∧ sharedAcc (inGroup matrixGroup [(1, 4), (2, 9)]) 0 0 9 = none ∧
    (freeOf (heldAccs (inGroup matrixGroup [(1, 4), (2, 9)]) 0) 32).head? = some 0 := by
  split_ands <;> decide +kernel

/-- A group with an open pass and one that is done. -/
def openPass : Group := { matrixGroup with passes := [aPass 1, donePass 2], passCount := 2 }

theorem witness_MatrixPasses_cancel :
    Alone (inGroup openPass [(1, 1)]) 2048 0xDE (fl 0 1 0 0 0) ∧ Alone (inGroup openPass [(1, 1)]) 2048 0xDE (fl 0 0 0 0 1) ∧ (aPass 1).done = none ∧
    (donePass 2).done = some 1 := by
  split_ands <;> decide +kernel

/-- A step of records of BF16 and of 8-bit floats that is due. -/
def floatGroup (a b : Nat) : Group :=
  { matrixGroup with recs := [(0, aRec 0 a), (1, aRec 1 b)], passes := [stepped 9], passCount := 1, queue := [.pass 1] }
def floatStep (a b : Nat) : State := { inGroup (floatGroup a b) [] with now := 9 }

theorem witness_EngineCourse_floats :
    (∀ q ∈ [(0, 0), (1, 1), (1, 2), (2, 1), (2, 2)], nfind (floatStep q.1 q.2).groups 1 = some (floatGroup q.1 q.2) ∧
      nfind (floatGroup q.1 q.2).recs (stepped 9).refA.rcd = some (aRec 0 q.1) ∧ nfind (floatGroup q.1 q.2).recs (stepped 9).refB.rcd = some (aRec 1 q.2) ∧
      stepSlots (floatGroup q.1 q.2) (stepped 9) 0 = ([0], [1]) ∧ (floatGroup q.1 q.2).residency = .resident) ∧
    poisonedAt (floatStep 0 0) (pantryKey 0 5 0) 8192 = false ∧ poisonedAt (floatStep 0 0) (pantryKey 0 6 0) 8192 = false := by
  split_ands <;> decide +kernel

/-- A streamed load of the second step that has come before the first's. -/
def streamAhead : Xfer := aLoadIn (.stream 1 1) 2

theorem witness_EngineCourse_ahead :
    nfind (streaming streamAhead).xfers 5 = some streamAhead ∧ streamAhead.kind = .stream 1 1 ∧ piecesDone (streaming streamAhead) 5 = true ∧
    passOf (streaming streamAhead) 1 1 = some (aPass 1) ∧ (aPass 1).loaded < 1 ∧ (aPass 1).loaded ∉ (aPass 1).early ∧ (aPass 1).early = [] ∧
    streamAhead.stop = none ∧ streamAhead.booked = true := by
  split_ands <;> decide +kernel

/-- Groups whose launch asks for a lane ratio that no cluster has: one new, one saved. -/
def toRatio : State := (toDispatch (some 5) 9 0).modLch 0 fun l => { l with ratio := 3 }
def savedRatio : State := savedGroup.modLch 0 fun l => { l with ratio := 3 }

theorem witness_LaunchCourse_ratio :
    nextRatio toRatio = some (.new 0 0, 0) ∧ Waiting.new 0 0 ≠ .new 0 1 ∧ nextRatio savedRatio = some (.saved 1, 0) ∧
    (nfind savedRatio.groups 1).isSome = true ∧ Waiting.saved 1 ≠ .new 0 0 := by
  split_ands <;> decide +kernel

/-- The distributor asks for the ratio (R357). -/
theorem test_ratio_asked : ((next (execGroupDispatch 0 0 toRatio)).cluster 0).ratioReq = some 2 ∧
    ((next (execGroupResume 1 0 savedRatio)).cluster 0).ratioReq = some 2 := by split_ands <;> decide +kernel

/-- A thread that DBGSTEP lets make one step, at its SRET. -/
def stepping : State := (inTrap 0).modThr 2048 fun t => { t with debugStep := true }

theorem witness_TrapReturn_step : Alone stepping 2048 0xF0 (fl 0 0 0 0 0) ∧ (T stepping).debugStep = true ∧
    keyNow stepping (stepping.lchOf 2048).tenant (trapSlot stepping (T stepping)) = some 0x40100000 := by
  split_ands <;> decide +kernel

/-- A system thread beside one that IDLE has parked and one that runs. -/
def idleBeside : State := { sysWith 1 with threads := (sysWith 1).threads ++ [(2049, idleThread), (2050, thr [])] }

theorem witness_ControlRegisters_all :
    (∀ n ∈ [0x052, 0x053, 0x054, 0x055], Alone (inTrap 0) 2048 0xF1 (csrFields 4 0 n) ∧ (csrFields 4 0 n).imm18.toNat = n) ∧
    (∀ n ∈ [0x051, 0x052, 0x053, 0x054, 0x055, 0x056, 0x000, 0x001, 0x002, 0x022], Alone (sysWith 3) 2048 0xF2 (csrFields 0 1 n) ∧
      (csrFields 0 1 n).imm18.toNat = n) ∧
    Alone idleBeside 2048 0xF2 (csrFields 0 1 0x031) ∧ (idleBeside.threads.map (·.1)).Nodup ∧ nfind idleBeside.threads 2049 = some idleThread ∧
    idleThread.wait = .idle 60 ∧ nfind idleBeside.threads 2050 = some (thr []) ∧ (thr []).wait = .none ∧
    (∀ n ∈ [0x003, 0x023, 0x071, 0x1012], (csrFields 4 0 n).imm18.toNat = n ∧ (csrFields 0 1 n).imm18.toNat = n ∧
      refusalDue (sysWith 1) 2048 0xF1 (csrFields 4 0 n) = false ∧ refusalDue (sysWith 1) 2048 0xF2 (csrFields 0 1 n) = false) ∧
    replaying (sysWith 1) 2048 = false ∧ mayRun (sysWith 1) 2048 = true ∧ asyncDue (T (sysWith 1)) = none ∧ (sysWith 1).beat.threads = [2048] := by
  split_ands <;> decide +kernel

/-- HDOOR wakes the idle thread (R371). -/
theorem test_hdoor_csr : ((next (execCsrw (csrFields 0 1 0x031) idleBeside)).thr 2049).pc = 2 := by decide +kernel

/-- A CTXSV whose copy-on-write the host has refused. -/
def refusedImage : State := (imaged 0).modThr 2048 fun t => { t with cowRefused := true }

theorem witness_ContextImages_refused :
    Alone refusedImage 2048 0xF4 (fl 0 8 0 0 0) ∧ (T refusedImage).cowRefused = true ∧ (T refusedImage).refusal = none ∧ (T (imaged 0)).cowRefused = false ∧
    accessFault refusedImage 2048 ((T refusedImage).cap 32) permST (adr refusedImage) 2320 64 = none ∧ (nfind refusedImage.threads 2048).isSome = true ∧
    (fl 0 8 0 0 0).time < 16 := by
  split_ands <;> decide +kernel

/-- A package that is off, with an image staged: newer than the fuse's lowest, and older. -/
def stagedOff (v : Nat) : State := { powerless with service := { powerless.service with staged := some v, minVersion := 3 } }

theorem witness_ErrorsAndPower_images :
    (stagedOff 7).service.powered = false ∧ (stagedOff 7).service.minVersion ≤ (stagedOff 7).service.staged.getD (stagedOff 7).service.version ∧
    powerless.service.minVersion ≤ powerless.service.staged.getD powerless.service.version ∧
    (stagedOff 2).service.staged.getD (stagedOff 2).service.version < (stagedOff 2).service.minVersion ∧
    stackLoads (drifting 5 7) (errHbm.addr / 64) = [] := by
  split_ands <;> decide +kernel

theorem test_old_image : alive (next (execPowerOn cleanUp (stagedOff 2))) = false ∧ (next (execPowerOn cleanUp (stagedOff 7))).service.version = 7 := by
  split_ands <;> decide +kernel

/-- A request for no ratio and no frequency; a load that no link carries. -/
def noAsk : Word := 0x405

theorem witness_OutsideAccesses_none :
    noAsk.toNat / 1024 % 2 = 1 ∧ noAsk.toNat / 4096 % 64 < 25 ∧ linkLoads (withRet 9 (aLoad (.booked 12 14))) 4 = [] ∧
    (withRet 9 (aLoad (.booked 12 14))).linksDown.contains 4 = false ∧ alive S = true := by
  split_ands <;> decide +kernel

/-- An original's core and a replay's that are on the cullet list. -/
def tiedListed : State :=
  { tiedBy (anAudit [0] (.tied 2 24 [diverges 48])) with cores := [(0, { cullet := true, score := 40 }), (96, { cullet := true })] }

theorem witness_AuditCourse_listed : (tiedListed.core 0).cullet = true ∧ (tiedListed.core 96).cullet = true ∧ replayDone tiedListed 2 = true ∧
    sameDigest (anAudit [0] (.tied 2 24 [diverges 48])) (runAt tiedListed (anAudit [0] (.tied 2 24 [diverges 48])) 2 24 [] 0) = true ∧
    (runAt tiedListed (anAudit [0] (.tied 2 24 [diverges 48])) 2 24 [] 0).core = 96 := by
  split_ands <;> decide +kernel

end Sys2Proof.Tests
end

/-! SUPPORT. What the branches of class 0x0 do in a thread that executes one alone (spec/04, R89 to R91): each word's action goes on or is a
transfer, and whether its target is a block start settles a transfer. -/

namespace Sys2Proof.Machine

/-! ### Transfers of control -/

/-- A target that a taken branch may not have (R89): no index of a block start of the extent. -/
abbrev BadTarget (s : State) (k : Nat) (target : Int) : Prop := target < 0 ∨ isBlockStart s k target.toNat = false

theorem transfer_of_blockStart {s : State} (s' : State) {k n : Nat} {target : Int} (ht : target = n) (hn : isBlockStart s k n = true) :
    transfer s k target s' = .to s' n := by
  subst ht
  simp [transfer, hn]

theorem transfer_of_badTarget {s : State} (s' : State) {k : Nat} {target : Int} (h : BadTarget s k target) :
    transfer s k target s' = .fault { cause := 1, sub := 6 } := by
  have hcond : ¬ (decide (0 ≤ target) && isBlockStart s k target.toNat) = true := by
    rcases h with hneg | hno
    · simp [hneg]
    · simp [hno]
  exact if_neg hcond

/-- No word of class 0x0 draws from its row's generator (R166). -/
theorem draws_of_control {op : Nat} (hop : op < 0x10) (f : Fields) : draws op f = false := by
  have hdiv : op / 16 = 0 := by omega
  have hm : op ≠ 0x60 ∧ op ≠ 0x61 ∧ op ≠ 0x66 ∧ op ≠ 0x68 ∧ op ≠ 0x69 ∧ op ≠ 0x6B ∧ op ≠ 0x6E ∧ op ≠ 0x70 ∧ op ≠ 0x74 ∧ op ≠ 0x75 ∧ op ≠ 0x76 := by
    omega
  simp [draws, hdiv, hm]

section
variable {s s' : State} {k op n : Nat} {f : Fields} {body : Nat → State → Act} {target : Int}

/-- A control word whose action is a transfer to a block start goes there with its effect. -/
theorem issue_transfer_to (hb : body k s = transfer s k target s') (ht : target = n) (hn : isBlockStart s k n = true)
    (h : Alone s k op f) (hop : op < 0x10 := by decide) : issue op f body s = .next (wentTo op f s k n s') :=
  issue_to h (hb.trans (transfer_of_blockStart s' ht hn)) (draws_of_control hop f)

/-- A control word whose action is a transfer to a bad target faults, and its effect is dropped. -/
theorem issue_transfer_fault (hb : body k s = transfer s k target s') (ht : BadTarget s k target) (h : Alone s k op f)
    (hop : op < 0x10 := by decide) : issue op f body s = .next (takeFlt s k { cause := 1, sub := 6 }) :=
  issue_fault h (hb.trans (transfer_of_badTarget s' ht)) (draws_of_control hop f)

end

/-- A write whose value is computed from the thread is the write of that value. -/
theorem modThr_wr_eq_put1 (s : State) (k r : Nat) (g : Thread → Word) : s.modThr k (fun t => t.wr r (g t)) = put1 s k r (g (s.thr k)) :=
  calc s.modThr k (fun t => t.wr r (g t))
    _ = s.modThr k (fun _ => (s.thr k).wr r (g (s.thr k))) := modThr_eq s k _ _ rfl
    _ = put1 s k r (g (s.thr k)) := (modThr_eq s k (fun t => t.wr r (g (s.thr k))) _ rfl).symm

/-! ### The words -/

section
variable (s : State) (k : Nat) (f : Fields)

/-- A call: its register receives the block start after its block, and the thread goes to the target (R89, R90). -/
def callAct (target : Int) : Act :=
  transfer s k target (put1 s k f.d.toNat (BitVec.ofNat 32 ((s.thr k).hdr + hdrLen (s.thr k).hdrWord + 1)))

/-- LOOPN (R89): by its count. -/
def loopnAct : Act :=
  let x := (s.thr k).x f.d.toNat
  if x = 0 then .go s
  else if x = 1 then .go (put1 s k f.d.toNat (x - 1))
  else transfer s k ((s.thr k).pc + f.imm27.toInt) (put1 s k f.d.toNat (x - 1))

/-- A timed branch, taken or not (R91). -/
def timedAct (taken : Bool) : Act := if taken then transfer s k ((s.thr k).pc + f.off23.toInt) s else .go s

theorem link_eq_put1 : link s k f = put1 s k f.d.toNat (BitVec.ofNat 32 ((s.thr k).hdr + hdrLen (s.thr k).hdrWord + 1)) :=
  modThr_wr_eq_put1 s k f.d.toNat fun t => BitVec.ofNat 32 (nextBlock t)

theorem exec_bra : exec (.bra f) s = issue 0x01 f (fun k s => transfer s k ((s.thr k).pc + f.imm27.toInt) s) s := rfl

theorem exec_brx : exec (.brx f) s = issue 0x02 f (fun k s => transfer s k ((s.thr k).x f.a.toNat).toNat s) s := rfl

theorem exec_call : exec (.call f) s = issue 0x03 f (fun k s => callAct s k f ((s.thr k).pc + f.imm27.toInt)) s := by
  simp only [callAct, ← link_eq_put1]
  rfl

theorem exec_callx : exec (.callx f) s = issue 0x04 f (fun k s => callAct s k f ((s.thr k).x f.a.toNat).toNat) s := by
  simp only [callAct, ← link_eq_put1]
  rfl

theorem exec_ret : exec (.ret f) s = issue 0x05 f (fun k s => transfer s k ((s.thr k).x f.a.toNat).toNat s) s := rfl

theorem exec_brtLate : exec (.brtLate f) s = issue 0x06 f (fun k s => timedAct s k f (!s.det k && !isDue s k f)) s := rfl

theorem exec_brtDue : exec (.brtDue f) s = issue 0x07 f (fun k s => timedAct s k f (s.det k || isDue s k f)) s := rfl

theorem exec_loopn : exec (.loopn f) s = issue 0x0F f (fun k s => loopnAct s k f) s := rfl

variable {s k f}

theorem loopnAct_of_zero (hx : (s.thr k).x f.d.toNat = 0) : loopnAct s k f = .go s := if_pos hx

theorem loopnAct_of_one (hx : (s.thr k).x f.d.toNat = 1) : loopnAct s k f = .go (put1 s k f.d.toNat 0) := by
  simp [loopnAct, hx]

theorem loopnAct_of_two_le (hx : 2 ≤ ((s.thr k).x f.d.toNat).toNat) :
    loopnAct s k f = transfer s k ((s.thr k).pc + f.imm27.toInt) (put1 s k f.d.toNat ((s.thr k).x f.d.toNat - 1)) := by
  have h0 : (s.thr k).x f.d.toNat ≠ 0 := by bv_omega
  have h1 : (s.thr k).x f.d.toNat ≠ 1 := by bv_omega
  exact (if_neg h0).trans (if_neg h1)

theorem timedAct_of_taken {taken : Bool} (h : taken = true) : timedAct s k f taken = transfer s k ((s.thr k).pc + f.off23.toInt) s :=
  if_pos h

theorem timedAct_of_not_taken {taken : Bool} (h : taken = false) : timedAct s k f taken = .go s := if_neg (by simp [h])

/-- In deterministic mode BRT.LATE is never taken (R91). -/
theorem brtLate_not_taken (h : s.det k = true ∨ isDue s k f = true) : (!s.det k && !isDue s k f) = false := by
  rcases h with hdet | hdue
  · simp [hdet]
  · simp [hdue]

theorem brtLate_taken (hdet : s.det k = false) (hdue : isDue s k f = false) : (!s.det k && !isDue s k f) = true := by simp [hdet, hdue]

/-- In deterministic mode BRT.DUE is always taken (R91). -/
theorem brtDue_taken (h : s.det k = true ∨ isDue s k f = true) : (s.det k || isDue s k f) = true := (Bool.or_eq_true _ _).mpr h

theorem brtDue_not_taken (hdet : s.det k = false) (hdue : isDue s k f = false) : (s.det k || isDue s k f) = false := by simp [hdet, hdue]

end

/-! ### The statement -/

/-- Settles O14: each word's action is a transfer, settled by its target, or goes on. LOOPN splits on its count, the timed branches on
deterministic mode and on whether their register is due. -/
theorem branches : Obligations.Branches := by
  unfold Obligations.Branches
  refine ⟨fun s k n f => ?jumps, fun s k n f => ?countedAndTimed⟩
  case jumps =>
    refine ⟨fun hn => ⟨?_, ?_, ?_, ?_, ?_⟩, fun hbad => ⟨?_, ?_⟩, fun hbad => ?_⟩
    · exact fun ht h => (exec_bra s f).trans (issue_transfer_to rfl ht hn h)
    · exact fun ht h => (exec_brx s f).trans (issue_transfer_to rfl (congrArg Nat.cast ht) hn h)
    · exact fun ht h => (exec_call s f).trans (issue_transfer_to rfl ht hn h)
    · exact fun ht h => (exec_callx s f).trans (issue_transfer_to rfl (congrArg Nat.cast ht) hn h)
    · exact fun ht h => (exec_ret s f).trans (issue_transfer_to rfl (congrArg Nat.cast ht) hn h)
    · exact fun h => (exec_bra s f).trans (issue_transfer_fault rfl hbad h)
    · exact fun h => (exec_call s f).trans (issue_transfer_fault rfl hbad h)
    · have hx : BadTarget s k ((s.thr k).x f.a.toNat).toNat := .inr hbad
      exact ⟨fun h => (exec_brx s f).trans (issue_transfer_fault rfl hx h),
        fun h => (exec_callx s f).trans (issue_transfer_fault rfl hx h),
        fun h => (exec_ret s f).trans (issue_transfer_fault rfl hx h)⟩
  case countedAndTimed =>
    refine ⟨?_, ?_, ?_, ?_, ?_, ?_, ?_, ?_⟩
    · exact fun hx h => (exec_loopn s f).trans (issue_go h (loopnAct_of_zero hx))
    · exact fun hx h => (exec_loopn s f).trans (issue_go h (loopnAct_of_one hx))
    · exact fun hx ht => ⟨fun hn h => (exec_loopn s f).trans (issue_transfer_to (loopnAct_of_two_le hx) ht hn h),
        fun hn h => (exec_loopn s f).trans (issue_transfer_fault (loopnAct_of_two_le hx) (ht ▸ .inr hn) h)⟩
    · exact fun hx hneg h => (exec_loopn s f).trans (issue_transfer_fault (loopnAct_of_two_le hx) (.inl hneg) h)
    · exact fun hdue h => (exec_brtLate s f).trans (issue_go h (timedAct_of_not_taken (brtLate_not_taken hdue)))
    · exact fun hdet hdue h => (exec_brtDue s f).trans (issue_go h (timedAct_of_not_taken (brtDue_not_taken hdet hdue)))
    · exact fun ht hn => ⟨fun hdet hdue h =>
          (exec_brtLate s f).trans (issue_transfer_to (timedAct_of_taken (brtLate_taken hdet hdue)) ht hn h),
        fun hdue h => (exec_brtDue s f).trans (issue_transfer_to (timedAct_of_taken (brtDue_taken hdue)) ht hn h)⟩
    · exact fun hbad => ⟨fun hdet hdue h =>
          (exec_brtLate s f).trans (issue_transfer_fault (timedAct_of_taken (brtLate_taken hdet hdue)) hbad h),
        fun hdue h => (exec_brtDue s f).trans (issue_transfer_fault (timedAct_of_taken (brtDue_taken hdue)) hbad h)⟩

end Sys2Proof.Machine

/-! SUPPORT. What the integer words of classes 0x1, 0x2, 0x3 and 0x7 do in a thread that executes one alone (spec/05, R111 to R118; R180): each is
a register word, so one lemma carries a word to the value that it writes, and the values are facts about words. -/

namespace Sys2Proof.Machine

/-! ### A register word does the write of its value -/

section
variable {s : State} {k op r : Nat} {f : Fields}

/-- Two changes of a thread that agree on it are one change. -/
theorem modThr_congr {g h : Thread → Thread} (hgh : g (s.thr k) = h (s.thr k)) : s.modThr k g = s.modThr k h :=
  (modThr_eq s k g _ hgh).trans (modThr_eq s k h _ rfl).symm

/-- One change of a thread after another is the change by both. -/
theorem modThr_modThr (g h : Thread → Thread) : (s.modThr k g).modThr k h = s.modThr k fun t => h (g t) := by
  simp only [State.modThr, nmod_nmod]

/-- A register word that one thread executes alone has the effect of its change of that thread. -/
theorem does_regs {g : Nat → State → Thread → Thread} {s' : State} (hs : s.modThr k (g k s) = s') :
    Does op f k s (issue op f (regs g) s) s' := fun h => hs ▸ issue_regs h

/-- A word that writes x[r] with a value of its thread does the write of that value. `exec` of each word below unfolds to this form, or to the
next one's. -/
theorem does_wr {g : Thread → Word} {v : Word} (hv : g (s.thr k) = v) :
    Does op f k s (issue op f (regs fun _ _ t => t.wr r (g t)) s) (put1 s k r v) :=
  does_regs (modThr_congr (congrArg ((s.thr k).wr r) hv))

/-- The same of d[r], which a word of 64 bits writes. -/
theorem does_wrd {g : Thread → Double} {v : Double} (hv : g (s.thr k) = v) :
    Does op f k s (issue op f (regs fun _ _ t => t.wrd r (g t)) s) (put2 s k r v) :=
  does_regs (modThr_congr (congrArg ((s.thr k).wrd r) hv))

/-- A division by a divisor that is not zero writes its quotient. -/
theorem does_divide {g : Word → Word → Word} {v : Word} (hb : (s.thr k).x f.b.toNat ≠ 0)
    (hv : g ((s.thr k).x f.a.toNat) ((s.thr k).x f.b.toNat) = v) :
    Does op f k s (issue op f (divide f g) s) (put1 s k f.d.toNat v) :=
  does_regs (modThr_congr ((if_neg hb).trans (congrArg ((s.thr k).wr f.d.toNat) hv)))

/-- A division by zero writes its fixed result and sets DZ (R113). -/
theorem does_divide_zero {g : Word → Word → Word} {v : Word} (hb : (s.thr k).x f.b.toNat = 0)
    (hv : g ((s.thr k).x f.a.toNat) ((s.thr k).x f.b.toNat) = v) :
    Does op f k s (issue op f (divide f g) s)
      ((put1 s k f.d.toNat v).modThr k fun t => { t with status := t.status ||| 2 }) := by
  refine does_regs (Eq.trans ?_ (modThr_modThr _ _).symm)
  exact modThr_congr ((if_pos hb).trans (congrArg (fun u => ((s.thr k).wr f.d.toNat u).setStatus statusDZ) hv))

end

/-! ### Values of class 0x1: exact results -/

section
variable {w : Nat}

theorem ofInt_toInt_sub (a b : BitVec w) : BitVec.ofInt w (a.toInt - b.toInt) = a - b := by
  rw [Int.sub_eq_add_neg, BitVec.ofInt_add, BitVec.ofInt_neg, BitVec.ofInt_toInt, BitVec.ofInt_toInt, BitVec.sub_eq_add_neg]

theorem ofInt_toInt_add_toInt {v : Nat} (a : BitVec w) (b : BitVec v) : BitVec.ofInt w (a.toInt + b.toInt) = a + b.signExtend w := by
  rw [BitVec.ofInt_add, BitVec.ofInt_toInt]
  rfl

theorem ofNat_toNat_mul (a b : BitVec w) : BitVec.ofNat w (a.toNat * b.toNat) = a * b := by
  rw [BitVec.ofNat_mul, BitVec.ofNat_toNat, BitVec.ofNat_toNat, BitVec.setWidth_eq, BitVec.setWidth_eq]

theorem ofNat_toNat_mul_add (a b c : BitVec w) : BitVec.ofNat w (a.toNat * b.toNat + c.toNat) = a * b + c := by
  rw [BitVec.ofNat_add, ofNat_toNat_mul, BitVec.ofNat_toNat, BitVec.setWidth_eq]

/-- The signed product at a width is the exact one modulo it: sign-extension is the word of the same integer. -/
theorem ofInt_toInt_mul {v : Nat} (a b : BitVec w) : BitVec.ofInt v (a.toInt * b.toInt) = a.signExtend v * b.signExtend v :=
  BitVec.ofInt_mul _ _

/-- The natural product at a width is the exact one modulo it. -/
theorem ofNat_toNat_mul_zeroExtend {v : Nat} (a b : BitVec w) : BitVec.ofNat v (a.toNat * b.toNat) = a.zeroExtend v * b.zeroExtend v := by
  rw [BitVec.ofNat_mul, BitVec.ofNat_toNat, BitVec.ofNat_toNat]

end

/-- The high word of a double is the integer's quotient by 2^32. -/
theorem extractLsb'_high_ofInt (z : Int) : (BitVec.ofInt 64 z).extractLsb' 32 32 = BitVec.ofInt 32 (z / 2 ^ 32) := by
  apply BitVec.eq_of_toNat_eq
  simp only [BitVec.extractLsb'_toNat, BitVec.toNat_ofInt, Nat.shiftRight_eq_div_pow]
  omega

theorem mulhi_signed (a b : Word) :
    (a.signExtend 64 * b.signExtend 64).extractLsb' 32 32 = BitVec.ofInt 32 (a.toInt * b.toInt / 2 ^ 32) := by
  rw [← ofInt_toInt_mul, extractLsb'_high_ofInt]

theorem mulhi_natural (a b : Word) :
    (a.zeroExtend 64 * b.zeroExtend 64).extractLsb' 32 32 = BitVec.ofNat 32 (a.toNat * b.toNat / 2 ^ 32) := by
  rw [← ofNat_toNat_mul_zeroExtend, ← BitVec.ofInt_natCast, extractLsb'_high_ofInt, ← BitVec.ofInt_natCast]
  norm_cast

theorem madw_signed (a b : Word) (c : Double) :
    a.signExtend 64 * b.signExtend 64 + c = BitVec.ofInt 64 (a.toInt * b.toInt + c.toInt) := by
  rw [BitVec.ofInt_add, ofInt_toInt_mul, BitVec.ofInt_toInt]

theorem madw_natural (a b : Word) (c : Double) :
    a.zeroExtend 64 * b.zeroExtend 64 + c = BitVec.ofNat 64 (a.toNat * b.toNat + c.toNat) := by
  rw [BitVec.ofNat_add, ofNat_toNat_mul_zeroExtend, BitVec.ofNat_toNat, BitVec.setWidth_eq]

theorem minS_eq (a b : Word) : minS a b = BitVec.ofInt 32 (min a.toInt b.toInt) := by
  rw [min_def, apply_ite (BitVec.ofInt 32), BitVec.ofInt_toInt, BitVec.ofInt_toInt, minS]

theorem maxS_eq (a b : Word) : maxS a b = BitVec.ofInt 32 (max a.toInt b.toInt) := by
  rw [max_def, apply_ite (BitVec.ofInt 32), BitVec.ofInt_toInt, BitVec.ofInt_toInt, maxS]

theorem minN_eq (a b : Word) : minN a b = BitVec.ofNat 32 (min a.toNat b.toNat) := by
  rw [min_def, apply_ite (BitVec.ofNat 32), BitVec.ofNat_toNat, BitVec.ofNat_toNat, BitVec.setWidth_eq, BitVec.setWidth_eq, minN]

theorem maxN_eq (a b : Word) : maxN a b = BitVec.ofNat 32 (max a.toNat b.toNat) := by
  rw [max_def, apply_ite (BitVec.ofNat 32), BitVec.ofNat_toNat, BitVec.ofNat_toNat, BitVec.setWidth_eq, BitVec.setWidth_eq, maxN]

/-- The saturated integer stands in the range of .s32, so its word loses nothing. -/
theorem toInt_satS32 (z : Int) : (satS32 z).toInt = max (-2 ^ 31) (min z (2 ^ 31 - 1)) :=
  BitVec.toInt_ofInt_eq_self (by decide) (by omega) (by omega)

theorem addMin_eq (a b c : Word) :
    addMin a b c = BitVec.ofInt 32 (min (max (-2 ^ 31) (min (a.toInt + b.toInt) (2 ^ 31 - 1))) c.toInt) := by
  rw [addMin, minS_eq, toInt_satS32]

/-- The one overflow is no exception: the exact quotient 2^31 wraps to the fixed result (R113). -/
theorem divS_of_ne_zero {a b : Word} (hb : b ≠ 0) : divS a b = BitVec.ofInt 32 (a.toInt.tdiv b.toInt) := by
  unfold divS
  rw [if_neg hb]
  split
  next h =>
    obtain ⟨rfl, rfl⟩ := h
    decide
  next => rfl

theorem divN_of_ne_zero {a b : Word} (hb : b ≠ 0) : divN a b = BitVec.ofNat 32 (a.toNat / b.toNat) := if_neg hb

theorem divS_of_zero {a b : Word} (hb : b = 0) : divS a b = if 0 ≤ a.toInt then 0x7FFFFFFF else 0x80000000 := if_pos hb

theorem divN_of_zero {a b : Word} (hb : b = 0) : divN a b = 0xFFFFFFFF := if_pos hb

/-- Settles O15: each word writes one value of its thread, and each value is the exact result at its width; a division splits on its
divisor. -/
theorem integerArithmetic : Obligations.IntegerArithmetic := by
  unfold Obligations.IntegerArithmetic
  intro s k f
  refine ⟨does_wr (BitVec.add_def _ _), does_wr (ofInt_toInt_add_toInt _ _).symm, does_wr (ofInt_toInt_sub _ _).symm,
    does_wr (ofNat_toNat_mul _ _).symm, does_wr (mulhi_signed _ _), does_wr (mulhi_natural _ _), does_wr (ofNat_toNat_mul_add _ _ _).symm,
    does_wrd (madw_signed _ _ _), does_wrd (madw_natural _ _ _), does_wr (minS_eq _ _), does_wr (maxS_eq _ _), does_wr (minN_eq _ _),
    does_wr (maxN_eq _ _), does_wr (addMin_eq _ _ _), fun hb => ⟨?_, ?_⟩, fun hb => ⟨?_, ?_⟩⟩
  · exact does_divide hb (divS_of_ne_zero hb)
  · exact does_divide hb (divN_of_ne_zero hb)
  · exact does_divide_zero hb (divS_of_zero hb)
  · exact does_divide_zero hb (divN_of_zero hb)

/-! ### Values of class 0x2 and of the wide and move words: shifts by counts that are not reduced -/

/-- The count of a shift, by the form that M selects (R115). -/
theorem countOf_eq {t : Thread} {f : Fields} {n : Nat} (h : f.m = 0 ∧ n = (t.x f.b.toNat).toNat ∨ f.m = 1 ∧ n = f.b.toNat) :
    countOf t f = n := by
  rcases h with ⟨hm, rfl⟩ | ⟨hm, rfl⟩
  · simp [countOf, hm]
  · simp [countOf, hm]

section
variable {w : Nat}

theorem shiftLeft_eq_ofNat (a : BitVec w) (n : Nat) : a <<< n = BitVec.ofNat w (a.toNat * 2 ^ n) :=
  BitVec.eq_of_toNat_eq (by simp [Nat.shiftLeft_eq])

theorem ushiftRight_eq_ofNat (a : BitVec w) (n : Nat) : a >>> n = BitVec.ofNat w (a.toNat / 2 ^ n) := by
  rw [← Nat.shiftRight_eq_div_pow, ← BitVec.toNat_ushiftRight, BitVec.ofNat_toNat, BitVec.setWidth_eq]

theorem sshiftRight_eq_ofInt (a : BitVec w) (n : Nat) : a.sshiftRight n = BitVec.ofInt w (a.toInt / 2 ^ n) := by
  rw [BitVec.sshiftRight, Int.shiftRight_eq_div_pow]
  norm_cast

/-- A shift left that gives 0 from the width on multiplies by a power of two. -/
theorem shiftLeft_or_zero (a : BitVec w) (n : Nat) : (if n ≥ w then 0 else a <<< n) = BitVec.ofNat w (a.toNat * 2 ^ n) := by
  rw [← shiftLeft_eq_ofNat]
  split
  next h => exact (BitVec.shiftLeft_eq_zero h).symm
  next => rfl

/-- A shift right that gives 0 from the width on divides by a power of two. -/
theorem ushiftRight_or_zero (a : BitVec w) (n : Nat) : (if n ≥ w then 0 else a >>> n) = BitVec.ofNat w (a.toNat / 2 ^ n) := by
  rw [← ushiftRight_eq_ofNat]
  split
  next h => exact (BitVec.ushiftRight_eq_zero h).symm
  next => rfl

/-- The two parts of a rotation do not meet, so they add up. -/
theorem rotateLeft_eq_ofNat (a : BitVec w) {r : Nat} (hr : r < w) :
    a.rotateLeft r = BitVec.ofNat w (a.toNat * 2 ^ r + a.toNat / 2 ^ (w - r)) := by
  have hdisjoint : a <<< r &&& a >>> (w - r) = 0#w := by
    apply BitVec.eq_of_getLsbD_eq
    intro i _
    by_cases hi : i < r
    · simp [hi]
    · simp [BitVec.getLsbD_of_ge a (w - r + i) (by omega)]
  rw [BitVec.ofNat_add, ← shiftLeft_eq_ofNat, ← ushiftRight_eq_ofNat, BitVec.add_eq_or_of_and_eq_zero _ _ hdisjoint,
    BitVec.rotateLeft_def, Nat.mod_eq_of_lt hr]

end

/-- From 32 on only the sign is left, which is the quotient too (R115). -/
theorem sarW_eq (a : Word) (n : Nat) : sarW a n = BitVec.ofInt 32 (a.toInt / 2 ^ n) := by
  rw [← sshiftRight_eq_ofInt, sarW]
  split
  next h =>
    cases hmsb : a.msb
    · rw [BitVec.sshiftRight_eq_of_msb_false hmsb, BitVec.ushiftRight_eq_zero h]
      rfl
    · rw [BitVec.sshiftRight_eq_of_msb_true hmsb, BitVec.ushiftRight_eq_zero h]
      rfl
  next => rfl

theorem movh_eq (i : BitVec 18) (a : Word) :
    i.extractLsb' 0 16 ++ a.extractLsb' 0 16 = BitVec.ofNat 32 (i.toNat % 2 ^ 16 * 2 ^ 16 + a.toNat % 2 ^ 16) := by
  apply BitVec.eq_of_toNat_eq
  have hlow : a.toNat % 2 ^ 16 < 2 ^ 16 := Nat.mod_lt _ (by decide)
  simp only [BitVec.toNat_append, BitVec.extractLsb'_toNat, BitVec.toNat_ofNat, Nat.shiftRight_zero]
  rw [← Nat.shiftLeft_add_eq_or_of_lt hlow, Nat.shiftLeft_eq]
  omega

section
variable {s : State} {k n op : Nat} {f : Fields}

/-- A word of LOGI writes what the sub-operation that M selects gives. -/
theorem does_logi {m : BitVec 2} {v : Word} (hm : f.m = m) (hv : logiOp m.toNat ((s.thr k).x f.a.toNat) (f.imm18.signExtend 32) = v) :
    Does 0x24 f k s (exec (.logi f) s) (put1 s k f.d.toNat v) :=
  does_wr (hm ▸ hv)

/-- A shift writes what its count gives. -/
theorem does_count {g : Word → Nat → Word} {v : Word} (hn : countOf (s.thr k) f = n) (hv : g ((s.thr k).x f.a.toNat) n = v) :
    Does op f k s (issue op f (ofCount f g) s) (put1 s k f.d.toNat v) :=
  does_wr (hn ▸ hv)

end

/-- Settles O16: each word writes one value of its thread; the shifts share the count that M selects, and LOGI splits on M. -/
theorem integerLogic : Obligations.IntegerLogic := by
  unfold Obligations.IntegerLogic
  intro s k n f
  refine ⟨does_wr rfl, does_wr rfl, does_wr rfl, does_wr rfl, fun hm => does_logi hm rfl, fun hm => does_logi hm rfl,
    fun hm => does_logi hm rfl, fun hm => does_logi hm rfl, fun hcount => ?shifts, does_wr rfl, does_wrd rfl, does_wrd rfl, does_wr rfl,
    does_wr (movh_eq _ _), does_wr rfl⟩
  case shifts =>
    have hn : countOf (s.thr k) f = n := countOf_eq hcount
    refine ⟨?_, ?_, ?_, ?_, ?_, ?_⟩
    · exact does_count hn (shiftLeft_or_zero _ _)
    · exact does_count hn (ushiftRight_or_zero _ _)
    · exact does_count hn (sarW_eq _ _)
    · exact does_count hn (rotateLeft_eq_ofNat _ (Nat.mod_lt n (by decide)))
    · exact does_wrd (by rw [hn, shiftLeft_or_zero])
    · exact does_wrd (by rw [hn, ushiftRight_or_zero])

/-! ### Bit counts -/

theorem foldl_count_eq_length_filter (p : Nat → Bool) (l : List Nat) (c : Nat) :
    l.foldl (fun c j => if p j then c + 1 else c) c = c + (l.filter p).length := by
  induction l generalizing c with
  | nil => rfl
  | cons j l ih =>
    rw [List.foldl_cons, ih]
    cases hp : p j
    · simp [hp]
    · simp [hp, Nat.add_assoc, Nat.add_comm 1]

/-- The count of ones is the number of the indices whose bits are set. -/
theorem popCount_eq_length_filter {w : Nat} (a : BitVec w) (n : Nat) :
    popCount a.toNat n = ((List.range n).filter a.getLsbD).length :=
  (foldl_count_eq_length_filter a.getLsbD (List.range n) 0).trans (Nat.zero_add _)

/-- A value that has its highest one just below `w - n` bits has `n` leading zeros among `w`; zero has `w`. -/
theorem leadingZeros_eq {v w n : Nat} (hn : n ≤ w) (hlt : v < 2 ^ (w - n)) (hle : n < w → 2 ^ (w - 1 - n) ≤ v) : leadingZeros v w = n := by
  unfold leadingZeros
  split
  next hv =>
    by_contra hne
    have hpow : 2 ^ (w - 1 - n) ≤ v := hle (by omega)
    have hpos : 0 < 2 ^ (w - 1 - n) := Nat.two_pow_pos _
    omega
  next hv =>
    have hnw : n < w := by
      rcases Nat.lt_or_eq_of_le hn with h | rfl
      · exact h
      · exact absurd hlt (by simpa using hv)
    have hlog : Nat.log2 v = w - 1 - n := (Nat.log2_eq_iff hv).mpr ⟨hle hnw, by rwa [show w - 1 - n + 1 = w - n by omega]⟩
    omega

/-! ### Bit fields -/

theorem getLsbD_fieldMask {b : Word} {j : Nat} (hj : j < 32) :
    (fieldMask b).getLsbD j = decide (fieldPos b ≤ j ∧ j < fieldPos b + fieldWidth b) := by
  rw [fieldMask, BitVec.getLsbD_ofNat, Nat.testBit_mul_two_pow, Nat.testBit_two_pow_sub_one]
  by_cases hpos : fieldPos b ≤ j
  · simp [hj, hpos, show j - fieldPos b < fieldWidth b ↔ j < fieldPos b + fieldWidth b by omega]
  · simp [hpos]

/-- The field that BFX brings to the bottom, before it is extended: bits beyond 31 have dropped (R116). -/
theorem getLsbD_field (a b : Word) (j : Nat) :
    ((a &&& fieldMask b) >>> fieldPos b).getLsbD j = (decide (j < fieldWidth b ∧ fieldPos b + j < 32) && a.getLsbD (fieldPos b + j)) := by
  rw [BitVec.getLsbD_ushiftRight, BitVec.getLsbD_and]
  by_cases hj : fieldPos b + j < 32
  · rw [getLsbD_fieldMask hj]
    simp [hj, Bool.and_comm]
  · simp [hj, BitVec.getLsbD_of_ge a _ (Nat.not_lt.mp hj)]

/-- The ones below a width. -/
theorem getLsbD_ones {n j : Nat} (hj : j < 32) : (BitVec.ofNat 32 (2 ^ n - 1)).getLsbD j = decide (j < n) := by
  rw [BitVec.getLsbD_ofNat, Nat.testBit_two_pow_sub_one]
  simp [hj]

/-- Where the field's top bit is set, BFX.s32 sets the bits above it. -/
theorem getLsbD_extractField_true (a b : Word) {j : Nat} (hj : j < 32) :
    (extractField true a b).getLsbD j = (((a &&& fieldMask b) >>> fieldPos b).getLsbD j ||
      (decide (0 < fieldWidth b) && ((a &&& fieldMask b) >>> fieldPos b).getLsbD (fieldWidth b - 1) && !decide (j < fieldWidth b))) := by
  unfold extractField
  dsimp only
  split
  next htop =>
    rw [Bool.true_and] at htop
    rw [htop, BitVec.getLsbD_or, BitVec.getLsbD_not, getLsbD_ones hj]
    simp [hj]
  next htop =>
    rw [Bool.true_and, Bool.not_eq_true] at htop
    rw [htop, Bool.false_and, Bool.or_false]

/-- BFX.s32 repeats the field's top bit above it; a field of width 0 has none (R116). -/
theorem getLsbD_extractField_sign (a b : Word) {j : Nat} (hj : j < 32) :
    (extractField true a b).getLsbD j =
      if j < fieldWidth b then decide (fieldPos b + j < 32) && a.getLsbD (fieldPos b + j)
      else decide (0 < fieldWidth b ∧ fieldPos b + (fieldWidth b - 1) < 32) && a.getLsbD (fieldPos b + (fieldWidth b - 1)) := by
  rw [getLsbD_extractField_true a b hj, getLsbD_field, getLsbD_field]
  split
  next hin => simp [hin]
  next hout =>
    by_cases hw : 0 < fieldWidth b
    · simp [hout, hw]
    · simp [hout, hw]

theorem getLsbD_insertField (a b c : Word) {j : Nat} (hj : j < 32) :
    (insertField a b c).getLsbD j =
      if fieldPos b ≤ j ∧ j < fieldPos b + fieldWidth b then a.getLsbD (j - fieldPos b) else c.getLsbD j := by
  rw [insertField, BitVec.getLsbD_or, BitVec.getLsbD_and, BitVec.getLsbD_and, BitVec.getLsbD_not, BitVec.getLsbD_shiftLeft,
    getLsbD_fieldMask hj]
  split
  next h => simp [hj, h]
  next h => simp [hj, h]

/-- Settles O17: each word writes one value of its thread, given bit by bit for the fields and by its count for the rest. -/
theorem bitFields : Obligations.BitFields := by
  unfold Obligations.BitFields
  rintro s k pos width f t a b put rfl rfl
  refine ⟨fun hm h => ?_, fun hm h => ?_, fun h => ?_, ?_, ?_, ?_, ?_⟩
  · exact ⟨extractField false a b, does_wr (by rw [hm]; rfl) h, fun j _ => getLsbD_field a b j⟩
  · exact ⟨extractField true a b, does_wr (by rw [hm]; rfl) h, fun j hj => getLsbD_extractField_sign a b hj⟩
  · exact ⟨insertField a b (t.x f.c.toNat), does_wr rfl h, fun j hj => getLsbD_insertField a b (t.x f.c.toNat) hj⟩
  · exact does_wr (congrArg (BitVec.ofNat 32) (popCount_eq_length_filter a 32))
  · exact does_wr (congrArg (BitVec.ofNat 32) (popCount_eq_length_filter (t.d f.a.toNat) 64))
  · exact fun n hn hlt hle => does_wr (congrArg (BitVec.ofNat 32) (leadingZeros_eq hn hlt hle))
  · exact fun n hn hlt hle => does_wr (congrArg (BitVec.ofNat 32) (leadingZeros_eq hn hlt hle))

end Sys2Proof.Machine
